-- ==== Sys2Proof/Word.lean ====
section
/-! DEFINITION. The word types of the device and their plainest arithmetic. -/

namespace Sys2Proof

/-- A general register, a system register, an instruction word (R87, R109). -/
abbrev W64 := BitVec 64
/-- A vector element, a flag, a generation (R12, R175). -/
abbrev W32 := BitVec 32
/-- A byte of memory. -/
abbrev Byte := BitVec 8

end Sys2Proof
end

