-- ==== Sys2Proof/Config.lean ====
section
/-! DEFINITION. What one device is configured with (the cfg values of R4) and the free values: values the manual leaves
open, as constants without a body, so that nothing can be proved of them. -/

namespace Sys2Proof.Config

/-- WDOG as the configuration image gives it (R119), used for a context that configures none (R37). -/
opaque wdogCfg : W64
/-- The supervisor's entry index, fixed by the signed image (R135). -/
opaque supervisorEntry : Nat
/-- The words of the signed supervisor image, A or B (R135, R314). -/
opaque supervisorWord : (gen idx : Nat) → W64
/-- Whether an image of a unit verifies: its signature and its version (R314, R316). -/
opaque imageVerified : (unit gen : Nat) → Bool
/-- Spare rows and banks that a stack has (R310, R320), the bytes of a row and of a bank, and the row, as bank * 2^24 + row,
that holds an offset of an extent. -/
opaque spareRows : (stack : Nat) → Nat
opaque spareBanks : (stack : Nat) → Nat
opaque rowBytes : Nat
opaque bankBytes : Nat
opaque rowOf : (stack handle off : Nat) → Nat
/-- The byte of the stack that an offset of an extent stands in (R310). -/
opaque stackByte : (stack handle off : Nat) → Nat
/-- Physical base of each headland's command ring (R309). -/
opaque ringBase : (hl : Nat) → Nat
/-- Whether the SKU's digits are 96, for stacks of 96 GiB, or 48 (R1, R15, R305). -/
opaque stack96 : Bool
/-- STEP of the identification word (R305). -/
opaque step : BitVec 8
/-- The fabric node number, 0 to 4094 (R305). -/
opaque nodeNumber : Fin 4095
/-- Capacity of a tier-1 stack in GiB, as STACK gives it: 0x60 or 0x30 (R1, R15, R305). -/
def stackGiB : Nat := if stack96 then 0x60 else 0x30
/-- STACK, STEP and NODE of the identification word, bits [39:12] (R305). -/
def identCfg : BitVec 28 := BitVec.ofNat 8 stackGiB ++ step ++ BitVec.ofNat 12 nodeNumber
/-- The node number of this package, the NODE field of the identification word (R270, R305). -/
def node : Nat := nodeNumber
/-- The map from logical seats to physical tiles that the configuration image holds, for each headland (R9): seat 16 y + x of
the grid stands on the tile that the permutation gives for it, and the places 192 to 207 give the 16 unused tiles. -/
opaque seatMap : (hl : Fin 8) → Equiv.Perm (Fin 208)
/-- The routing table: the Zurix link over which traffic to another node leaves (R312). -/
opaque routeLink : (node : Nat) → Fin 36
/-- The virtual channels of a Zurix link (R312). -/
opaque linkChannels : (link : Nat) → Nat

/-- The phase of the registrar's free-running counter after the n-th reset or takeover (R29). -/
opaque registrarPhase : (n : Nat) → Nat
/-- The content of a slot cell after a parity error (R202). -/
opaque freeSlot : (n cell : Nat) → BitVec 40
/-- A byte that leaves an uncorrectable word with the bank group it stands in (R64, R147). -/
opaque freeLost : (n addr : Nat) → Byte
/-- A byte that two footprints of one copy share (R160). -/
opaque freeShared : (n addr : Nat) → Byte
/-- What another package makes of a chunk that reaches it: 0 applied, 1 dropped for rights or a lease, 2 dropped at an uncorrectable
word, whose place is at farWord, in host memory where farHost says so (R278). -/
opaque farEnd : (cid : Nat) → Fin 3
opaque farWord : (cid : Nat) → Nat
opaque farHost : (cid : Nat) → Bool
/-- The REPART record that a member in another package hands over (R284). -/
opaque farRecord : (n node core : Nat) → BitVec 1024
/-- Bytes of POBJ beyond the retained particles (R286), and what stands in the areas of a REPART that has not retired (R288). -/
opaque freeParticle : (n off : Nat) → Byte
/-- The attestation signature over a nonce (R315). -/
opaque freeSignature : (n : Nat) → BitVec 768
/-- The SHA-384 digest of a loaded image (R315). -/
opaque imageDigest : (unit gen : Nat) → BitVec 384
/-- RESULT where a command states none, and what THERM and RETEN report of the stack (R310). -/
opaque freeReport : (n : Nat) → W64
/-- The event code of a black-box record whose kind has no cause code (R157). -/
opaque eventCode : (kind event : Nat) → BitVec 16

end Sys2Proof.Config
end

