-- ==== Sys2Proof/Machine/Map.lean ====
section
/-! DEFINITION. Finite maps as sorted lists of a number and what stands there; a number that is not listed stands for the
default. Registers are written with `put`; memories and arrays with `set`, which never lists the default (the canonical
form, so that equal memories are equal data). -/

namespace Sys2Proof.Machine

/-- A finite map from numbers. -/
abbrev SMap (α : Type) := List (Nat × α)

/-- What stands at x, d where nothing is listed. -/
def SMap.get {α : Type} (d : α) : SMap α → Nat → α
  | [], _ => d
  | c :: r, x => if x = c.1 then c.2 else SMap.get d r x

/-- The map with v at k, entries in rising order. -/
def SMap.put {α : Type} : SMap α → Nat → α → SMap α
  | [], k, v => [(k, v)]
  | c :: r, k, v =>
    if k < c.1 then (k, v) :: c :: r else if k = c.1 then (k, v) :: r else c :: SMap.put r k v

/-- The map with nothing listed at k. -/
def SMap.erase {α : Type} (m : SMap α) (k : Nat) : SMap α := m.filter fun c => c.1 != k

/-- The canonical write: the default is never listed. -/
def SMap.set {α : Type} [DecidableEq α] (d : α) (m : SMap α) (k : Nat) (v : α) : SMap α :=
  if v = d then SMap.erase m k else SMap.put m k v

/-- The entries with keys in [lo, hi). -/
def SMap.between {α : Type} (m : SMap α) (lo hi : Nat) : SMap α := m.filter fun c => decide (lo ≤ c.1 ∧ c.1 < hi)

/-- The map with the keys in [lo, hi) replaced by those f gives, canonically: one pass over both. -/
def SMap.fill {α : Type} [DecidableEq α] (d : α) (m : SMap α) (lo n : Nat) (f : Nat → α) : SMap α :=
  (m.filter fun c => decide (c.1 < lo)) ++
  ((List.range n).filterMap fun i => let v := f i; if v = d then none else some (lo + i, v)) ++
  (m.filter fun c => decide (lo + n ≤ c.1))

/-- A memory: bytes by address, unlisted bytes reading 0 (log 2). -/
abbrev Mem := SMap Byte

/-- Keys strictly rising from above lo. -/
def SMap.risingFrom {α : Type} : Option Nat → SMap α → Bool
  | _, [] => true
  | lo, c :: r => (match lo with | none => true | some l => decide (l < c.1)) && SMap.risingFrom (some c.1) r

/-- The canonical form of a map with a default: keys strictly rising, the default never listed. -/
def SMap.wf {α : Type} [DecidableEq α] (d : α) (m : SMap α) : Bool :=
  SMap.risingFrom none m && m.all fun c => decide (c.2 ≠ d)

/-- The canonical form of a memory. -/
def Memory.wf (m : Mem) : Bool := SMap.wf (0 : Byte) m

end Sys2Proof.Machine
end

