-- ==== Sys2Proof/Machine/Num.lean ====
section
/-! DEFINITION. Number formats and exact arithmetic (R65 to R80): every value is exact until `roundTo` rounds it once. -/

namespace Sys2Proof.Machine

/-- An exact value as the formats of R65 and R67 to R69 can carry it: a NaN, a signed infinity, a signed zero, or a
non-zero rational. -/
inductive Num where
  | nan
  | inf (neg : Bool)
  | zero (neg : Bool)
  | fin (q : Rat)
deriving DecidableEq, Repr

/-- The five sticky flags of R76: INEXACT 4, UNDERFLOW 3, OVERFLOW 2, DIVZERO 1, INVALID 0. -/
abbrev Flags := BitVec 5

def fInvalid : Flags := 1
def fDivZero : Flags := 2
def fOverflow : Flags := 4
def fUnderflow : Flags := 8
def fInexact : Flags := 16

/-- A binary floating-point format (R65): exponent and fraction widths and bias; E4M3 has no infinities (R66). -/
structure FFmt where
  ebits : Nat
  mbits : Nat
  bias : Nat
  e4m3 : Bool
deriving DecidableEq, Repr

def F32 : FFmt := ⟨8, 23, 127, false⟩
def BF16 : FFmt := ⟨8, 7, 127, false⟩
def F16 : FFmt := ⟨5, 10, 15, false⟩
def E4M3 : FFmt := ⟨4, 3, 7, true⟩
def E5M2 : FFmt := ⟨5, 2, 15, false⟩
def FA40 : FFmt := ⟨8, 31, 127, false⟩

/-- The sign bit of a format as a number. -/
def FFmt.signBit (f : FFmt) : Nat := 2 ^ (f.ebits + f.mbits)

/-- Encoding of +infinity, or for E4M3 of its canonical NaN less one, the largest magnitude bits being below it. -/
def FFmt.infBits (f : FFmt) : Nat := (2 ^ f.ebits - 1) * 2 ^ f.mbits

/-- Magnitude bits of the largest finite value (R65): 448 for E4M3. -/
def FFmt.maxBits (f : FFmt) : Nat := if f.e4m3 then f.infBits + 6 else f.infBits - 1

/-- The canonical NaN (R65). -/
def FFmt.nanBits (f : FFmt) : Nat := if f.e4m3 then f.infBits + 7 else f.infBits + 2 ^ (f.mbits - 1)

/-- 2^k, exact, for any integer k. -/
def pow2 (k : Int) : Rat := if 0 ≤ k then ((2 ^ k.toNat : Nat) : Rat) else mkRat 1 (2 ^ (-k).toNat)

/-- A rational as a value, a zero taking the given sign. -/
def Num.ofRat (zneg : Bool) (q : Rat) : Num := if q = 0 then .zero zneg else .fin q

/-- An integer as a value; zero is +0 (R86, decode). -/
def Num.ofInt (n : Int) : Num := Num.ofRat false (n : Rat)

/-- The sign of a value (NaN counts as positive). -/
def Num.neg? : Num → Bool
  | .nan => false
  | .inf s => s
  | .zero s => s
  | .fin q => decide (q < 0)

/-- Sign inversion, exact. -/
def Num.negate : Num → Num
  | .nan => .nan
  | .inf s => .inf (!s)
  | .zero s => .zero (!s)
  | .fin q => .fin (-q)

/-- Magnitude, exact. -/
def Num.abs : Num → Num
  | .nan => .nan
  | .inf _ => .inf false
  | .zero _ => .zero false
  | .fin q => .fin (if q < 0 then -q else q)

/-- Whether a value is NaN or infinite. -/
def Num.notFinite : Num → Bool
  | .nan => true
  | .inf _ => true
  | _ => false

/-- Whether a value is a zero of either sign. -/
def Num.isZero : Num → Bool
  | .zero _ => true
  | _ => false

/-- The rational of a finite value, 0 otherwise. -/
def Num.toRat : Num → Rat
  | .fin q => q
  | _ => 0

/-- The value of an encoding (R65, R66): an exponent field of all ones is infinite or NaN, but in E4M3 only a fraction of
all ones under it is NaN. -/
def decodeF (f : FFmt) (bits : Nat) : Num :=
  let neg := decide (bits / f.signBit % 2 = 1)
  let e := bits / 2 ^ f.mbits % 2 ^ f.ebits
  let m := bits % 2 ^ f.mbits
  if e = 2 ^ f.ebits - 1 ∧ ¬ f.e4m3 then (if m = 0 then .inf neg else .nan)
  else if f.e4m3 ∧ e = 2 ^ f.ebits - 1 ∧ m = 2 ^ f.mbits - 1 then .nan
  else
    let q := if e = 0 then (m : Rat) * pow2 (1 - f.bias - f.mbits)
             else ((2 ^ f.mbits + m : Nat) : Rat) * pow2 ((e : Int) - f.bias - f.mbits)
    if q = 0 then .zero neg else .fin (if neg then -q else q)

/-- The floor of log2 of a positive rational. -/
def floorLog2 (q : Rat) : Int :=
  let n := q.num.natAbs
  let d := q.den
  let k : Int := (Nat.log2 n : Int) - (Nat.log2 d : Int)
  if pow2 k ≤ q then k else k - 1

/-- The integer next to y that a rounding mode chooses (R73, R74): 0 to nearest with ties to even, 1 toward zero, 2 up,
3 down. -/
def roundInt (rm : Nat) (y : Rat) : Int :=
  let lo := y.floor
  let fr := y - (lo : Rat)
  if fr = 0 then lo
  else match rm with
    | 0 => if fr < mkRat 1 2 then lo else if mkRat 1 2 < fr then lo + 1 else if lo % 2 = 0 then lo else lo + 1
    | 1 => if 0 ≤ y then lo else lo + 1
    | 2 => lo + 1
    | _ => lo

/-- The encoding of magnitude bits under a sign. -/
def FFmt.signed (f : FFmt) (neg : Bool) (mag : Nat) : Nat := (if neg then f.signBit else 0) + mag

/-- round_to (R74): the encoding of an exact value in a format, and the flags raised. -/
def roundTo (f : FFmt) (x : Num) (rm : Nat) : Nat × Flags :=
  match x with
  | .nan => (f.nanBits, 0)
  | .inf s => if f.e4m3 then (f.signed s f.maxBits, fOverflow) else (f.signed s f.infBits, 0)
  | .zero s => (f.signed s 0, 0)
  | .fin q =>
    let neg := decide (q < 0)
    let a := if neg then -q else q
    let e := max (floorLog2 a) (1 - (f.bias : Int))
    let quantum := pow2 (e - f.mbits)
    let n := (roundInt rm (q / quantum)).natAbs
    let inexact := decide ((n : Rat) * quantum ≠ a)
    let tiny := decide (a < pow2 (1 - (f.bias : Int))) && inexact
    let mag := (e + f.bias - 1).toNat * 2 ^ f.mbits + n
    let fl := (if inexact then fInexact else 0) ||| (if tiny then fUnderflow else 0)
    if f.maxBits < mag then
      let big := if f.e4m3 then f.maxBits
        else match rm with
          | 0 => f.infBits
          | 1 => f.maxBits
          | 2 => if neg then f.maxBits else f.infBits
          | _ => if neg then f.infBits else f.maxBits
      (f.signed neg big, fl ||| fOverflow ||| fInexact)
    else (f.signed neg mag, fl)

/-- The exact sum with its special cases (R75): ∞ − ∞ is NaN and INVALID; an exact zero is +0, or −0 under rd (mode 3). -/
def Num.add (rm : Nat) (a b : Num) : Num × Flags :=
  match a, b with
  | .nan, _ => (.nan, 0)
  | _, .nan => (.nan, 0)
  | .inf s, .inf t => if s = t then (.inf s, 0) else (.nan, fInvalid)
  | .inf s, _ => (.inf s, 0)
  | _, .inf t => (.inf t, 0)
  | .zero s, .zero t => (.zero (if s = t then s else rm = 3), 0)
  | .zero _, .fin q => (.fin q, 0)
  | .fin q, .zero _ => (.fin q, 0)
  | .fin p, .fin q => (Num.ofRat (rm = 3) (p + q), 0)

/-- The exact product with its special cases (R75): ∞·0 is NaN and INVALID. -/
def Num.mul (a b : Num) : Num × Flags :=
  let s := a.neg? != b.neg?
  match a, b with
  | .nan, _ => (.nan, 0)
  | _, .nan => (.nan, 0)
  | .inf _, .zero _ => (.nan, fInvalid)
  | .zero _, .inf _ => (.nan, fInvalid)
  | .inf _, _ => (.inf s, 0)
  | _, .inf _ => (.inf s, 0)
  | .zero _, _ => (.zero s, 0)
  | _, .zero _ => (.zero s, 0)
  | .fin p, .fin q => (.fin (p * q), 0)

/-- The exact quotient, with 0/0 and ∞/∞ NaN and a non-zero value over zero infinite (R254, R266). -/
def Num.div (a b : Num) : Num × Flags :=
  let s := a.neg? != b.neg?
  match a, b with
  | .nan, _ => (.nan, 0)
  | _, .nan => (.nan, 0)
  | .inf _, .inf _ => (.nan, fInvalid)
  | .zero _, .zero _ => (.nan, fInvalid)
  | .inf _, _ => (.inf s, 0)
  | _, .zero _ => (.inf s, fDivZero)
  | _, .inf _ => (.zero s, 0)
  | .zero _, _ => (.zero s, 0)
  | .fin p, .fin q => (.fin (p / q), 0)

/-- Order of two values that are not NaN, −0 below +0 (R75). -/
def Num.lt (a b : Num) : Bool :=
  match a, b with
  | .inf s, .inf t => s && !t
  | .inf s, _ => s
  | _, .inf t => !t
  | .zero s, .zero t => s && !t
  | .zero _, .fin q => decide (0 < q)
  | .fin p, .zero _ => decide (p < 0)
  | .fin p, .fin q => decide (p < q)
  | _, _ => false

/-- Numeric equality, with −0 equal to +0; false for NaN (R190). -/
def Num.eqv (a b : Num) : Bool :=
  match a, b with
  | .inf s, .inf t => s == t
  | .zero _, .zero _ => true
  | .fin p, .fin q => decide (p = q)
  | _, _ => false

/-- fmin and fmax (R75): the canonical NaN if either input is NaN. -/
def Num.fmin (a b : Num) : Num :=
  match a, b with
  | .nan, _ => .nan
  | _, .nan => .nan
  | x, y => if Num.lt y x then y else x
def Num.fmax (a b : Num) : Num :=
  match a, b with
  | .nan, _ => .nan
  | _, .nan => .nan
  | x, y => if Num.lt x y then y else x

/-- One rounding of an exact result: the encoding and the joined flags. -/
def rounded (f : FFmt) (r : Num × Flags) (rm : Nat) : Nat × Flags :=
  let (b, fl) := roundTo f r.1 rm
  (b, r.2 ||| fl)

/-- fadd, fmul and ffma of R75 on encodings of one format. -/
def fadd (f : FFmt) (a b : Nat) (rm : Nat) : Nat × Flags := rounded f ((decodeF f a).add rm (decodeF f b)) rm
def fmul (f : FFmt) (a b : Nat) (rm : Nat) : Nat × Flags := rounded f ((decodeF f a).mul (decodeF f b)) rm

/-- a·b + c on exact values, the product's flag kept. -/
def Num.mulAdd (rm : Nat) (a b c : Num) : Num × Flags :=
  let (p, f1) := a.mul b
  match p, c with
  | .nan, _ => (.nan, if c = .nan then 0 else f1)
  | p, c => let (s, f2) := p.add rm c; (s, f1 ||| f2)

def ffma (f : FFmt) (a b c : Num) (rm : Nat) : Nat × Flags := rounded f (Num.mulAdd rm a b c) rm

/-- fa40_add (R75): one addition into an FA40 accumulator, round to nearest even; the product p is exact. -/
def fa40Add (v : Nat) (p : Num) : Nat × Flags := rounded FA40 ((decodeF FA40 v).add 0 p) 0

/-- sat_i and sat_n (R86). -/
def satI (n : Int) (k : Nat) : Int := max (-(2 ^ (k - 1) : Int)) (min n (2 ^ (k - 1) - 1))
def satN (n : Int) (k : Nat) : Int := max 0 (min n (2 ^ k - 1))

/-- A two's-complement reading of the low k bits (R86, sext). -/
def sextNat (v k : Nat) : Int :=
  let m := v % 2 ^ k
  if m < 2 ^ (k - 1) then m else (m : Int) - 2 ^ k

/-- The k-bit encoding of an integer, wrapping. -/
def wrapNat (n : Int) (k : Nat) : Nat := (n % (2 ^ k : Int)).toNat

/-- cvt_int (R78): a value to a k-bit integer under a rounding mode. -/
def cvtInt (x : Num) (k : Nat) (sgn : Bool) (rm : Nat) : Int × Flags :=
  let lo : Int := if sgn then -(2 ^ (k - 1)) else 0
  let hi : Int := if sgn then 2 ^ (k - 1) - 1 else 2 ^ k - 1
  match x with
  | .nan => (0, fInvalid)
  | .inf s => (if s then lo else hi, fInvalid)
  | .zero _ => (0, 0)
  | .fin q =>
    let n := roundInt rm q
    if hi < n then (hi, fInvalid) else if n < lo then (lo, fInvalid)
    else (n, if (n : Rat) ≠ q then fInexact else 0)

/-- Format codes of R58. -/
abbrev Fmt := Nat

/-- The floating-point format of a code, if it is one. -/
def floatFmt (c : Fmt) : Option FFmt :=
  match c with
  | 0x01 => some F32
  | 0x02 => some BF16
  | 0x03 => some F16
  | 0x04 => some E4M3
  | 0x05 => some E5M2
  | 0x11 => some FA40
  | _ => none

/-- The integer formats of a code: width of the value and signedness (R67). -/
def intFmt (c : Fmt) : Option (Nat × Bool) :=
  match c with
  | 0x0B => some (8, true)
  | 0x0C => some (32, true)
  | 0x0D => some (8, false)
  | 0x0E => some (16, false)
  | 0x0F => some (32, false)
  | 0x10 => some (40, true)
  | _ => none

/-- The element bits of the MX formats (R68) and of the OB formats (R69). -/
def mxBits (c : Fmt) : Option Nat :=
  match c with
  | 0x06 => some 8
  | 0x07 => some 6
  | 0x08 => some 4
  | _ => none
def obBits (c : Fmt) : Option Nat :=
  match c with
  | 0x09 => some 8
  | 0x0A => some 4
  | _ => none

/-- Whether a code is a scaled block format. -/
def scaled (c : Fmt) : Bool := (mxBits c).isSome || (obBits c).isSome

/-- Bits per element in memory (R67, R70): I40 and FA40 take 64. -/
def elemBits (c : Fmt) : Nat :=
  match c with
  | 0x01 => 32
  | 0x02 => 16
  | 0x03 => 16
  | 0x04 => 8
  | 0x05 => 8
  | 0x06 => 8
  | 0x07 => 6
  | 0x08 => 4
  | 0x09 => 8
  | 0x0A => 4
  | 0x0B => 8
  | 0x0C => 32
  | 0x0D => 8
  | 0x0E => 16
  | 0x0F => 32
  | 0x10 => 64
  | 0x11 => 64
  | 0x12 => 8
  | _ => 0

/-- Whether a code names a format an object may have (R58). -/
def validFmt (c : Fmt) : Bool := elemBits c != 0

/-- The quad-mode formats (R71). -/
def quadFmt (c : Fmt) : Bool := c == 0x04 || c == 0x05 || c == 0x08 || c == 0x0A

/-- The formats a matrix operand may have (R71). -/
def matrixFmt (c : Fmt) : Bool := [0x0B, 0x02, 0x06, 0x07, 0x04, 0x05, 0x08, 0x0A, 0x09].contains c

/-- decode (R65 to R69, R86): the exact value of an element, with the scale and zero point of its block where it has one. -/
def decodeElem (c : Fmt) (bits scale zp : Nat) : Num :=
  match floatFmt c, intFmt c, mxBits c, obBits c with
  | some f, _, _, _ => decodeF f (bits % (2 * f.signBit))
  | _, some (k, sgn), _, _ => Num.ofInt (if sgn then sextNat bits k else (bits % 2 ^ k : Nat))
  | _, _, some k, _ =>
    if scale % 256 = 0xFF then .nan
    else Num.ofRat false ((sextNat bits k : Rat) * pow2 ((scale % 256 : Nat) - 127 - (k - 2)))
  | _, _, _, some k =>
    match decodeF BF16 (scale % 65536) with
    | .nan => .nan
    | .inf _ => .nan
    | s => Num.ofRat false ((((bits % 2 ^ k : Nat) : Int) - ((zp % 2 ^ k : Nat) : Int) : Int) * s.toRat)
  | _, _, _, _ => .ofInt bits

/-- Conversion of a value to a float or integer format (R78, R79, R162): the encoding and the flags. -/
def encodeElem (c : Fmt) (x : Num) (rm : Nat) : Nat × Flags :=
  match floatFmt c, intFmt c with
  | some f, _ => roundTo f x rm
  | _, some (k, sgn) => let (n, fl) := cvtInt x k sgn rm; (wrapNat n k, fl)
  | _, _ => (0, 0)

/-- Conversion of a value of a source format (R79, R162): an integer takes a wider integer format by extension and a narrower one
by saturation, and raises no flag; integers of equal width and different signedness saturate (DESIGN CHOICE, log 73). -/
def convElem (src dst : Fmt) (x : Num) (rm : Nat) : Nat × Flags :=
  match intFmt src, intFmt dst with
  | some (j, _), some (k, sgn) =>
    let n := x.toRat.floor
    (if j < k then wrapNat n k else if sgn then wrapNat (satI n k) k else (satN n k).toNat, 0)
  | _, _ => encodeElem dst x rm

/-- The bits of an element that carry its value: [39:0] of I40 and FA40 (R67). -/
def valueBits (c : Fmt) (raw : Nat) : Nat := if c = 0x10 ∨ c = 0x11 then raw % 2 ^ 40 else raw

/-- The integer square root, bit by bit from the place of weight 2^k: r is the root found above that place. -/
def rootFrom (n : Nat) : Nat → Nat → Nat
  | 0, r => r
  | k + 1, r => rootFrom n k (if (r + 2 ^ k) * (r + 2 ^ k) ≤ n then r + 2 ^ k else r)
/-- The greatest integer whose square is no more than n. -/
def intRoot (n : Nat) : Nat := rootFrom n (Nat.log2 n / 2 + 1) 0

/-- red_tree (R80): one level adds or compares neighbours; a list of 2^d elements takes d levels. -/
def redLevel {α : Type} (op : α → α → α) : List α → List α
  | a :: b :: rest => op a b :: redLevel op rest
  | l => l
def redTree {α : Type} (op : α → α → α) (depth : Nat) (l : List α) : List α :=
  match depth with
  | 0 => l
  | d + 1 => redTree op d (redLevel op l)

end Sys2Proof.Machine
end

