-- ==== Sys2Proof/Syntax.lean ====
section
/-! DEFINITION. The abstract syntax: one constructor of `Instr` per row of the opcode table (R96 and the table of
steps). The first 139 are instruction words, each with its token bytes (R87, R88) and its sub-fields as bit vectors of the
encoded width; the other 77 are the steps and events of the device, with what the event names (a core, an agent, a page,
a lesson). -/

namespace Sys2Proof

/-- The wait and signal bytes of a word: POP [63:60] and PUSH [55:52] (R87, R88). -/
structure Tok where
  pop : BitVec 4
  push : BitVec 4
deriving DecidableEq, Repr

/-- The five agents of a core in peer order (R13). -/
inductive Agent where
  | cc | ld | st | vx | mx
deriving DecidableEq, Repr

/-- The device registers that a bare REGISTER_WRITE can name (R4): those of the context page (R306) and those that only
the service port sets (R123, R152, R155). -/
inductive DevReg where
  /-- IEN of a context page (R306). -/
  | pageIen (page : Nat)
  /-- The wait-log threshold of a headland (R155). -/
  | waitThreshold (hl : Nat)
  /-- Breakpoint register k of a core naming a control-core index (R152). -/
  | breakPc (core k : Nat)
  /-- Breakpoint register k of a core naming a queue and, as the value, a sequence number (R152). -/
  | breakQueue (core k : Nat) (ag : Agent)
  /-- Breakpoint register k of a core, cleared (R152). -/
  | breakClear (core k : Nat)
  /-- Whether kndbg holds the core (R123): bit 0. -/
  | debugHold (core : Nat)
  /-- The registrar's value of a context's PTBASE (R37). -/
  | ctxPtbase (ctx : Nat)
  /-- The registrar's value of a context's SCOPEBASE (R37). -/
  | ctxScopebase (ctx : Nat)
  /-- The WDOG value configured for a context (R37). -/
  | ctxWdog (ctx : Nat)
  /-- The time slice configured for a context (R31). -/
  | ctxSlice (ctx : Nat)
  /-- The kinds of black-box record of a headland that assert FREEZE, which the supervisor sets: bit n for kind n (R156). -/
  | freezeTrigger (hl : Nat)
deriving DecidableEq, Repr

/-- What a soft error hits (R64): the place of the word, element or slot cell. -/
inductive SoftLoc where
  /-- The 8-byte scratchpad word that holds a byte offset of a core. -/
  | scratch (core off : Nat)
  /-- Element e of the vector registers of a core's live context. -/
  | vec (core e : Nat)
  /-- 32-bit element e of the mask registers of a core's live context, 32 to a register. -/
  | mask (core e : Nat)
  /-- Element e of the accumulator tiles of a core's live context. -/
  | acc (core e : Nat)
  /-- Cell (r, c) of a plane slot of a core's live context (R200, R211). -/
  | slot (core s r c : Nat)
  /-- The 64-byte burst at a tier-2 physical address. -/
  | tier2 (pa : Nat)
  /-- The 64-byte burst at a host address. -/
  | host (pa : Nat)
  /-- The 64-byte burst at an offset of a tier-1 extent. -/
  | tier1 (stack handle off : Nat)
deriving DecidableEq, Repr

/-- The rows of the opcode table. -/
inductive Instr where
  /-- R109: Writes ga + gb modulo 2^64 to gd. -/
  | add (tk : Tok) (d a b : BitVec 5)
  /-- R109: Writes ga − gb modulo 2^64 to gd. -/
  | sub (tk : Tok) (d a b : BitVec 5)
  /-- R109: Writes the bitwise and of ga and gb to gd. -/
  | and (tk : Tok) (d a b : BitVec 5)
  /-- R109: Writes the bitwise or of ga and gb to gd. -/
  | or (tk : Tok) (d a b : BitVec 5)
  /-- R109: Writes the bitwise xor of ga and gb to gd. -/
  | xor (tk : Tok) (d a b : BitVec 5)
  /-- R109: Writes ga and not gb to gd. -/
  | andn (tk : Tok) (d a b : BitVec 5)
  /-- R109: Shifts ga left by gb[5:0], filling with zeros, into gd. -/
  | shl (tk : Tok) (d a b : BitVec 5)
  /-- R109: Shifts ga right logically by gb[5:0] into gd. -/
  | shr (tk : Tok) (d a b : BitVec 5)
  /-- R109: Shifts ga right arithmetically by gb[5:0] into gd. -/
  | sra (tk : Tok) (d a b : BitVec 5)
  /-- R109: Rotates ga left by gb[5:0] into gd. -/
  | rot (tk : Tok) (d a b : BitVec 5)
  /-- R109: Writes the low 64 bits of ga × gb to gd. -/
  | mul (tk : Tok) (d a b : BitVec 5)
  /-- R109: Writes the high 64 bits of the signed product of ga and gb to gd. -/
  | mulh (tk : Tok) (d a b : BitVec 5)
  /-- R109: Writes the high 64 bits of the unsigned product of ga and gb to gd. -/
  | mulhn (tk : Tok) (d a b : BitVec 5)
  /-- R110: Writes the signed quotient to gd, with the defined results for a zero divisor and for overflow. -/
  | div (tk : Tok) (d a b : BitVec 5)
  /-- R110: Writes the unsigned quotient to gd, or all ones for a zero divisor. -/
  | divn (tk : Tok) (d a b : BitVec 5)
  /-- R110: Writes the signed remainder to gd, with the defined results for a zero divisor and for overflow. -/
  | rem (tk : Tok) (d a b : BitVec 5)
  /-- R110: Writes the unsigned remainder to gd, or ga for a zero divisor. -/
  | remn (tk : Tok) (d a b : BitVec 5)
  /-- R109: Writes the signed lesser of ga and gb to gd. -/
  | min (tk : Tok) (d a b : BitVec 5)
  /-- R109: Writes the signed greater of ga and gb to gd. -/
  | max (tk : Tok) (d a b : BitVec 5)
  /-- R109: Writes the unsigned lesser of ga and gb to gd. -/
  | minn (tk : Tok) (d a b : BitVec 5)
  /-- R109: Writes the unsigned greater of ga and gb to gd. -/
  | maxn (tk : Tok) (d a b : BitVec 5)
  /-- R109: Writes the count of leading zero bits of ga to gd. -/
  | clz (tk : Tok) (d a : BitVec 5)
  /-- R109: Writes the count of set bits of ga to gd. -/
  | popc (tk : Tok) (d a : BitVec 5)
  /-- R109: Writes 1 to gd if the selected comparison of ga with gb holds, and 0 otherwise. -/
  | cmp (tk : Tok) (d a b : BitVec 5) (cond : BitVec 3)
  /-- R109: Writes ga to gd if gc is non-zero, and gb otherwise. -/
  | sel (tk : Tok) (d a b c : BitVec 5)
  /-- R109: Writes ga + (gb << sc) to gd. -/
  | addx (tk : Tok) (d a b : BitVec 5) (sc : BitVec 3)
  /-- R109: Extracts a bit field of ga into gd, zero- or sign-extended. -/
  | bfx (tk : Tok) (d a : BitVec 5) (sx : BitVec 1) (pos wid : BitVec 6)
  /-- R109: Inserts the low bits of ga into a bit field of gd. -/
  | bfi (tk : Tok) (d a : BitVec 5) (pos wid : BitVec 6)
  /-- R111: Writes ga plus a sign-extended 30-bit immediate to gd. -/
  | addi (tk : Tok) (d a : BitVec 5) (imm : BitVec 30)
  /-- R111: Writes ga and a sign-extended 28-bit immediate to gd. -/
  | andi (tk : Tok) (d a : BitVec 5) (imm : BitVec 28)
  /-- R111: Writes ga or a sign-extended 28-bit immediate to gd. -/
  | ori (tk : Tok) (d a : BitVec 5) (imm : BitVec 28)
  /-- R111: Writes ga xor a sign-extended 28-bit immediate to gd. -/
  | xori (tk : Tok) (d a : BitVec 5) (imm : BitVec 28)
  /-- R111: Shifts ga left by an immediate amount into gd. -/
  | shli (tk : Tok) (d a : BitVec 5) (sh : BitVec 6)
  /-- R111: Shifts ga right logically by an immediate amount into gd. -/
  | shri (tk : Tok) (d a : BitVec 5) (sh : BitVec 6)
  /-- R111: Shifts ga right arithmetically by an immediate amount into gd. -/
  | srai (tk : Tok) (d a : BitVec 5) (sh : BitVec 6)
  /-- R111: Rotates ga left by an immediate amount into gd. -/
  | roti (tk : Tok) (d a : BitVec 5) (sh : BitVec 6)
  /-- R111: Writes a sign-extended 30-bit immediate shifted left by 30 to gd. -/
  | movhi (tk : Tok) (d : BitVec 5) (imm : BitVec 30)
  /-- R113: Branches to PC + off if the condition of ga against gb holds, and goes on to PC + 1 otherwise. -/
  | br (tk : Tok) (a b : BitVec 5) (cc : BitVec 4) (off : BitVec 26)
  /-- R113: Jumps to PC + off. -/
  | jmp (tk : Tok) (off : BitVec 26)
  /-- R113: Writes PC + 1 to G30 and jumps to PC + off. -/
  | call (tk : Tok) (off : BitVec 26)
  /-- R113: Jumps to the value of ga and writes PC + 1 to gd. -/
  | jr (tk : Tok) (d a : BitVec 5)
  /-- R113: Decrements a non-zero loop counter and branches while the counter stays non-zero. -/
  | loop (tk : Tok) (lc : BitVec 5) (off : BitVec 26)
  /-- R116: Loads a sized value from a virtual or on-chip address into gd, with the checks of R117. -/
  | ld (tk : Tok) (d a b : BitVec 5) (size : BitVec 3) (off : BitVec 16)
  /-- R116: Stores the low bytes of a register to a virtual or on-chip address, with the checks of R117. -/
  | st (tk : Tok) (d a b : BitVec 5) (size : BitVec 3) (off : BitVec 16)
  /-- R119: Reads a system register into gd, faulting ACCESS where privilege forbids the read. -/
  | mfs (tk : Tok) (d : BitVec 5) (sn : BitVec 12)
  /-- R119: Writes a system register from ga, ignoring or faulting on writes that privilege forbids. -/
  | mts (tk : Tok) (a : BitVec 5) (sn : BitVec 12)
  /-- R121: Exits the seat for code 0, and otherwise takes a trap with cause TRAP carrying the code. -/
  | trap (tk : Tok) (code : BitVec 16)
  /-- R122: Returns to TPC, restores SUP from PSUP and clears INH, faulting ACCESS if INH is clear. -/
  | eret (tk : Tok)
  /-- R123: Stops the core at a consistent cut under kndbg, and otherwise takes a trap with cause BRK. -/
  | brk (tk : Tok) (code : BitVec 16)
  /-- R124: Emits a trace record carrying TIME, CORE, the code and ga when STATUS.TE is set. -/
  | tmark (tk : Tok) (a : BitVec 5) (code : BitVec 16)
  /-- R126: Turns every unstarted command of the named queues whose generation lies in the range into a husk, and counts them in gd. -/
  | qdrop (tk : Tok) (d a b : BitVec 5) (qm : BitVec 4)
  /-- R127: Reruns from its start the fault-stopped head of each named queue that it may resume. -/
  | qres (tk : Tok) (d : BitVec 5) (qm : BitVec 4)
  /-- R128: Writes a one-clk snapshot of a queue's sequence number, stop and occupancy to gd. -/
  | qstat (tk : Tok) (d : BitVec 5) (qn : BitVec 3)
  /-- R129: Ends the seat's current time slice, switching to the other slot's lesson of equal priority if there is one. -/
  | yield (tk : Tok)
  /-- R143: Supervisor instruction that makes the context in a shadow store active and saves the outgoing context in the other store. -/
  | ctxsw (tk : Tok) (a : BitVec 5)
  /-- R131: Supervisor instruction that marks TLB entries dying and waits until their in-flight counts reach zero. -/
  | tlbinv (tk : Tok) (a b : BitVec 5) (bc : BitVec 1) (mode : BitVec 2)
  /-- R132: Writes one 64-bit word of a stream register from ga. -/
  | qset (tk : Tok) (d a : BitVec 5) (w : BitVec 2)
  /-- R132: Reads one 64-bit word of a stream register into gd. -/
  | qget (tk : Tok) (d a : BitVec 5) (w : BitVec 2)
  /-- R132: Clears all 256 bits of a stream register. -/
  | qclr (tk : Tok) (d : BitVec 5)
  /-- R166: Copies a tile into the own window, converting formats. -/
  | ldt (tk : Tok) (qs qd : BitVec 4) (g : BitVec 5) (fl : BitVec 6) (fe : BitVec 1) (n : BitVec 12) (rm : BitVec 3)
  /-- R166: Copies a tile between any homes through the LD queue, converting formats. -/
  | cpy (tk : Tok) (qs qd : BitVec 4) (g : BitVec 5) (fl : BitVec 6) (fe : BitVec 1) (n : BitVec 12) (rm : BitVec 3)
  /-- R167: Lands words of a BYTE object in instruction memory, checking each word with the scanner. -/
  | ldo (tk : Tok) (qs : BitVec 4) (g : BitVec 5) (fl : BitVec 6) (fe : BitVec 1) (n : BitVec 12)
  /-- R168: Reads a source tile into a staging buffer at its home, with no visible write. -/
  | pref (tk : Tok) (qs : BitVec 4) (g : BitVec 5) (fl : BitVec 6) (fe : BitVec 1) (n : BitVec 12)
  /-- R165: Gathers source rows named by an index list into the own window. -/
  | ldg (tk : Tok) (qs qd : BitVec 4) (g : BitVec 5) (fl : BitVec 6) (fe : BitVec 1) (n : BitVec 12) (rm : BitVec 3)
  /-- R169: Places a marker in the LD and ST queues that retires once every earlier command of both queues has retired. -/
  | qmark (tk : Tok) (fl : BitVec 6) (fe : BitVec 1)
  /-- R166: Copies a tile from the own window to any home, converting formats. -/
  | stt (tk : Tok) (qs qd : BitVec 4) (g : BitVec 5) (fl : BitVec 6) (fe : BitVec 1) (n : BitVec 12) (rm : BitVec 3)
  /-- R166: Copies a tile between any homes through the ST queue, converting formats. -/
  | cpys (tk : Tok) (qs qd : BitVec 4) (g : BitVec 5) (fl : BitVec 6) (fe : BitVec 1) (n : BitVec 12) (rm : BitVec 3)
  /-- R242: Applies an ADD, MIN, MAX or MEAN update to each destination element indivisibly at its bank controller. -/
  | redSt (tk : Tok) (qs qd : BitVec 4) (g : BitVec 5) (fl : BitVec 6) (fe : BitVec 1) (n : BitVec 12) (rm op : BitVec 3)
  /-- R165: Scatters tile rows from the own window to destination rows named by an index list. -/
  | sct (tk : Tok) (qs qd : BitVec 4) (g : BitVec 5) (fl : BitVec 6) (fe : BitVec 1) (n : BitVec 12) (rm : BitVec 3)
  /-- R293: Lands the oldest chimney entries in the own scratchpad and removes them at retirement. -/
  | chpop (tk : Tok) (qd : BitVec 4) (g : BitVec 5) (fl : BitVec 6) (fe : BitVec 1) (n : BitVec 12)
  /-- R182: Loads a vector register from the own scratchpad, converting the memory format. -/
  | vld (tk : Tok) (d a b : BitVec 5) (mk : BitVec 3) (mf : BitVec 4)
  /-- R182: Stores a vector register to the own scratchpad, converting the memory format. -/
  | vst (tk : Tok) (d a b : BitVec 5) (mk rd : BitVec 3) (mf : BitVec 4)
  /-- R184: Copies one vector register to another under the mask. -/
  | vmov (tk : Tok) (d a : BitVec 5) (mk : BitVec 3)
  /-- R184: Writes a captured general-register value to every governed element. -/
  | vmovg (tk : Tok) (d a : BitVec 5) (mk : BitVec 3)
  /-- R185: Broadcasts one column of each row along the row. -/
  | vbcr (tk : Tok) (d a : BitVec 5) (mk : BitVec 3) (i : BitVec 6)
  /-- R185: Broadcasts one row of each column down the column. -/
  | vbcc (tk : Tok) (d a : BitVec 5) (mk : BitVec 3) (i : BitVec 6)
  /-- R186: Rotates or shifts each row by k columns. -/
  | vrotr (tk : Tok) (d a : BitVec 5) (mk : BitVec 3) (z : BitVec 1) (k : BitVec 6)
  /-- R186: Rotates or shifts each column by k rows. -/
  | vrotc (tk : Tok) (d a : BitVec 5) (mk : BitVec 3) (z : BitVec 1) (k : BitVec 6)
  /-- R187: Applies an element-wise arithmetic operation selected by op. -/
  | valu (tk : Tok) (d a b : BitVec 5) (mk ty rd : BitVec 3) (sat : BitVec 1) (op : BitVec 4)
  /-- R188: Computes a fused multiply-add form with vd as the third source. -/
  | vfma (tk : Tok) (d a b : BitVec 5) (mk ty rd : BitVec 3) (op : BitVec 2)
  /-- R189: Applies an element-wise logic or shift operation to raw bits. -/
  | vlogic (tk : Tok) (d a b : BitVec 5) (mk : BitVec 3) (sh : BitVec 5) (im : BitVec 1) (op : BitVec 4)
  /-- R190: Writes a mask of element-wise comparison results. -/
  | vcmp (tk : Tok) (d a b : BitVec 5) (mk ty cond : BitVec 3)
  /-- R191: Selects each element from va or vb by the mask. -/
  | vsel (tk : Tok) (d a b : BitVec 5) (mk : BitVec 3)
  /-- R192: Reduces each row by red_tree. -/
  | vredr (tk : Tok) (d a : BitVec 5) (mk ty rd : BitVec 3) (bc : BitVec 1) (op : BitVec 3)
  /-- R192: Reduces each column by red_tree. -/
  | vredc (tk : Tok) (d a : BitVec 5) (mk ty rd : BitVec 3) (bc : BitVec 1) (op : BitVec 3)
  /-- R193: Computes sequential inclusive or exclusive prefixes along each line. -/
  | vscan (tk : Tok) (d a : BitVec 5) (mk ty rd : BitVec 3) (ex axis : BitVec 1) (op : BitVec 3)
  /-- R194: Converts elements between ty and a second format. -/
  | vcvt (tk : Tok) (d a : BitVec 5) (mk ty rd : BitVec 3) (dir : BitVec 1) (code : BitVec 3)
  /-- R195: Writes rcp_est of each governed element. -/
  | vrcp (tk : Tok) (d a : BitVec 5) (mk : BitVec 3)
  /-- R195: Writes rsq_est of each governed element. -/
  | vrsq (tk : Tok) (d a : BitVec 5) (mk : BitVec 3)
  /-- R195: Writes the reciprocal refinement rcps. -/
  | vrcps (tk : Tok) (d a b : BitVec 5) (mk rd : BitVec 3)
  /-- R195: Writes the reciprocal square-root refinement rsqs. -/
  | vrsqs (tk : Tok) (d a b : BitVec 5) (mk rd : BitVec 3)
  /-- R195: Writes exp2_est of each governed element. -/
  | vexp2 (tk : Tok) (d a : BitVec 5) (mk : BitVec 3)
  /-- R195: Writes log2_est of each governed element. -/
  | vlog2 (tk : Tok) (d a : BitVec 5) (mk : BitVec 3)
  /-- R196: Computes a mask, or converts between masks and vectors, by op. -/
  | vmask (tk : Tok) (d a b : BitVec 5) (ty : BitVec 3) (n : BitVec 11) (op : BitVec 4)
  /-- R197: Writes counts of set mask bits by row, by column or in total. -/
  | vpopc (tk : Tok) (d a : BitVec 5) (mode : BitVec 2)
  /-- R198: Claims an entry of the VX result FIFO and writes one element or mask row to it. -/
  | vtog (tk : Tok) (a : BitVec 5) (ty : BitVec 3) (src : BitVec 1) (col : BitVec 6) (row : BitVec 4)
  /-- R252: Takes a term into each governed mean state, rescaling on a new reference. -/
  | vmeanE (tk : Tok) (d a : BitVec 5) (mk : BitVec 3)
  /-- R253: Merges one mean state into another. -/
  | vmeanM (tk : Tok) (d a : BitVec 5) (mk : BitVec 3)
  /-- R254: Writes the mean of each governed state. -/
  | vmeanX (tk : Tok) (d a : BitVec 5) (mk : BitVec 3)
  /-- R256: Loads a pair of the mean unit's table bank from a register. -/
  | vmtld (tk : Tok) (a : BitVec 5) (pair : BitVec 4)
  /-- R255: Moves mean states to a more extreme reference by rescaling. -/
  | vmsh (tk : Tok) (d a : BitVec 5) (mk : BitVec 3)
  /-- R266: Applies a fused AdamW-style update to weights and moments, skipping non-finite elements. -/
  | vupd (tk : Tok) (d a b : BitVec 5) (mk ty rd : BitVec 3) (gh : BitVec 5)
  /-- R282: Computes Morton or Hilbert curve keys from quantised coordinates. -/
  | vkey (tk : Tok) (d a : BitVec 5) (mk ty : BitVec 3) (hil three : BitVec 1) (k gh : BitVec 5)
  /-- R292: Claims chimney slots and sends converted vector rows up the chimney. -/
  | chpush (tk : Tok) (a : BitVec 5) (rd : BitVec 3) (fmt : BitVec 2) (r : BitVec 4) (c : BitVec 3)
  /-- R214: Sets a plane-directory entry's tag and role, emptying any other entry of the same tag and role. -/
  | pdir (tk : Tok) (g : BitVec 5) (slot : BitVec 3) (role : BitVec 1)
  /-- R215: Fills a plane slot from a source tile cell by cell, after the earlier rows that use it. -/
  | pload (tk : Tok) (qa : BitVec 4) (g : BitVec 5) (rows : BitVec 9) (slot : BitVec 3)
  /-- R216: Writes a plane slot's values to a destination stream with rounding. -/
  | pstore (tk : Tok) (qb : BitVec 4) (g : BitVec 5) (rows : BitVec 9) (slot rm : BitVec 3)
  /-- R217: Clears a plane slot to FA40 +0, leaving it valid, or empty with .E. -/
  | pclr (tk : Tok) (slot : BitVec 3) (e : BitVec 1)
  /-- R219: Writes one level of the shadow loop nest from three general registers. -/
  | mxnest (tk : Tok) (g : BitVec 5) (level : BitVec 3)
  /-- R220: Swaps the shadow and active nests and runs an MXRUN for each iteration of the active nest. -/
  | mxgo (tk : Tok) (qa qb : BitVec 4) (acc : BitVec 2) (sr : BitVec 3) (base n kc : BitVec 6)
  /-- R209: Admits tagged operand rows, each matching a W slot and accumulating into a tile row. -/
  | mxrun (tk : Tok) (qa qb : BitVec 4) (acc : BitVec 2) (sr : BitVec 3) (g : BitVec 5) (base n kc : BitVec 6) (p : BitVec 1)
  /-- R218: Admits tagged rows that add outer products into G-role slots. -/
  | mxgrad (tk : Tok) (qa qb qt : BitVec 4) (n kx ky : BitVec 6)
  /-- R213: Resumes an MX head stopped by SELMISS or MXPAR at the stopped row. -/
  | mxres (tk : Tok)
  /-- R221: Sets every element of an accumulator tile to the semiring identity. -/
  | mxacl (tk : Tok) (acc : BitVec 2) (sr : BitVec 3) (i : BitVec 1)
  /-- R222: Reads an accumulator tile out to vector registers or to a stream, with conversion. -/
  | mxacr (tk : Tok) (qb : BitVec 4) (acc : BitVec 2) (dst : BitVec 1) (vd : BitVec 5) (all : BitVec 1) (quarter : BitVec 2) (i z : BitVec 1) (rm : BitVec 3)
  /-- R223: Places a directory entry, the stop state or the nest state in the MX result FIFO. -/
  | mxstat (tk : Tok) (sel : BitVec 4)
  /-- R234: Makes the control core's later accesses releases, or its earlier reads acquires, at a scope. -/
  | fence (tk : Tok) (sc : BitVec 5) (kind : BitVec 2)
  /-- R235: Releases at the scope and sets a flag of the own or a named core. -/
  | setf (tk : Tok) (sc a b : BitVec 5) (rem : BitVec 1) (flag : BitVec 6)
  /-- R235: Releases at the scope and adds to a flag of the own or a named core indivisibly. -/
  | addf (tk : Tok) (sc a b : BitVec 5) (rem : BitVec 1) (flag : BitVec 6)
  /-- R236: Waits until a flag reaches a value, then acquires at the scope. -/
  | waitf (tk : Tok) (sc b : BitVec 5) (flag : BitVec 6)
  /-- R237: Takes NEXT of a ticket into gd and increments NEXT indivisibly. -/
  | tktTake (tk : Tok) (sc a d : BitVec 5)
  /-- R237: Waits until a ticket's SERVING equals a value, then acquires. -/
  | tktWait (tk : Tok) (sc a b : BitVec 5)
  /-- R237: Releases at the scope and increments a ticket's SERVING indivisibly. -/
  | tktDone (tk : Tok) (sc a : BitVec 5)
  /-- R238: Adds to a memory location indivisibly and returns the old value. -/
  | aadd (tk : Tok) (sc a b d : BitVec 5) (ty : BitVec 3) (ord : BitVec 2)
  /-- R238: Stores the lesser of a location and an operand indivisibly and returns the old value. -/
  | amin (tk : Tok) (sc a b d : BitVec 5) (ty : BitVec 3) (ord : BitVec 2)
  /-- R238: Stores the greater of a location and an operand indivisibly and returns the old value. -/
  | amax (tk : Tok) (sc a b d : BitVec 5) (ty : BitVec 3) (ord : BitVec 2)
  /-- R238: Compares a location with a value and swaps in a new value if they are equal, returning the old value. -/
  | acas (tk : Tok) (sc a b d c : BitVec 5) (ty : BitVec 3) (ord : BitVec 2)
  /-- R238: Swaps a location with an operand indivisibly. -/
  | aswp (tk : Tok) (sc a b d : BitVec 5) (ty : BitVec 3) (ord : BitVec 2)
  /-- R240: Copies a 256-byte bitmap into scope-table entry 2 to 30. -/
  | scope (tk : Tok) (sc a : BitVec 5)
  /-- R241: Pops the oldest entry of the VX or MX result FIFO into gd, waiting while the FIFO is empty. -/
  | rpop (tk : Tok) (d : BitVec 5) (which : BitVec 2)
  /-- R271: Defines a communicator from a descriptor and writes a result code. -/
  | comm (tk : Tok) (sc a d : BitVec 5) (c : BitVec 4)
  /-- R271: Deletes a communicator and frees its receive slots. -/
  | commDel (tk : Tok) (d : BitVec 5) (c : BitVec 4)
  /-- R273: Hands a collective record to the headland collective engine after checking it. -/
  | coll (tk : Tok) (a : BitVec 5)
  /-- R280: Waits for, or polls, the retirement of the core's records on a communicator and reports the status. -/
  | cwait (tk : Tok) (d : BitVec 5) (p : BitVec 1) (c : BitVec 4)
  /-- R283: Hands a repartition record to the collective engine after checking it. -/
  | repart (tk : Tok) (a : BitVec 5)
  /-- R295: Hands a bulk move of whole registers between the scratchpad and the lower tile to the chimney controller. -/
  | vxfer (tk : Tok) (a : BitVec 5) (dir kind : BitVec 1) (r n : BitVec 5)
  /-- R301: Requests that a unit be gated, deferring until nothing uses it. -/
  | pgreqOff (tk : Tok) (unit : BitVec 4)
  /-- R302: Wakes a gated unit, or cancels a deferred OFF. -/
  | pgreqOn (tk : Tok) (unit : BitVec 4)
  /-- R299: Sets TIDEPRI, which takes effect at the next multiple of 256 of CYCLE. -/
  | tide (tk : Tok) (v : BitVec 1)
  /-- R50: The last pinned entry that a TLBINV marked reaches a count of zero, and the TLBINV completes. -/
  | tlbinvComplete (core : Nat)
  /-- R40: The control core checks a command word's objects, bounds, rights and pages, captures its operands and pushes it into its engine queue or the repair lane. -/
  | commandPush (core : Nat) (word : BitVec 64)
  /-- R41: A control core stalled on a full queue or a full repair lane resumes its push once the queue has room. -/
  | queueRoomResume (core : Nat)
  /-- R49: A translation stalled because every TLB entry is pinned proceeds once an entry's count falls. -/
  | tlbPinResume (core : Nat)
  /-- R101: A fetch that waits on a pending instruction-memory word executes the new word, or faults FETCH, once the LDO retires. -/
  | pendingFetchRelease (core : Nat)
  /-- R41: An engine starts its queue head once the head's pops and resources are available, and pops its tokens. -/
  | engineCommandStart (core : Nat) (ag : Agent)
  /-- R42: A command's effects become visible, and it pushes its tokens, increments its flag and ORs its floating-point flags. -/
  | commandRetire (core : Nat) (ag : Agent)
  /-- R42: A retirement held at a full token FIFO completes in the clk in which the consumer's pop gives the FIFO room. -/
  | heldPushRelease (core : Nat) (ag : Agent)
  /-- R126: A husk reaches its queue head and only pops, pushes, increments its flag and releases its counts. -/
  | huskRetire (core : Nat) (ag : Agent)
  /-- R205: An admitted row commits its whole effect 132 clk after its admission. -/
  | mxRowCommit (core : Nat)
  /-- R236: A waiting WAITF finds its flag at or past the value and acquires. -/
  | flagWaitSatisfied (core : Nat)
  /-- R237: A waiting TKT.WAIT finds SERVING equal to its ticket and acquires. -/
  | ticketWaitSatisfied (core : Nat)
  /-- R241: An entry reaches an empty result FIFO and a waiting RPOP takes it. -/
  | resultFifoArrival (core : Nat)
  /-- R271: A COMM with remote members completes when the fabric round trip returns. -/
  | commComplete (core : Nat) (code : Nat)
  /-- R274: A handed record starts, arms its counters and walks its nest, emitting one transfer per iteration. -/
  | collRecordStart (rid : Nat)
  /-- R275: A chunk reaches a receiving headland and is written, accumulated or merged, and counted. -/
  | chunkArrival (cid : Nat)
  /-- R277: A record whose transfers have all been applied or dropped retires, increments LFLAG and pushes. -/
  | collRecordRetire (rid : Nat)
  /-- R280: The last handed record on the communicator retires, and the waiting CWAIT acquires at scope 31. -/
  | cwaitSatisfied (core : Nat)
  /-- R287: A member's repartition retires, writes its status block, increments LFLAG and pushes. -/
  | repartRetire (rid : Nat)
  /-- R296: A VXFER's writes complete, and VCNT grows in the clk in which its pushes are made. -/
  | vxferRetire (core : Nat)
  /-- R301: 40 clk after the deferral clears, the unit is gated and the PGREQ retires. -/
  | gateOff (core : Nat) (gate : Nat)
  /-- R302: A gated unit finishes its 1200-clk wake, and stalled accesses proceed. -/
  | unitWakeComplete (core : Nat) (gate : Nat)
  /-- R298: At each 128-clk boundary the right to full rate passes to the other layer, and contests restart. -/
  | tideHalfBoundary
  /-- R307: A host write covering the last word of the launch window pushes the record into the launch FIFO, or sets OVF if the FIFO is full. -/
  | launchWindowWrite (page : Nat) (off : Nat) (bytes : List (BitVec 8))
  /-- R24: The registrar pops a lesson record, checks it, and accepts it with a lesson number or rejects it. -/
  | lessonRecordCheck (page : Nat)
  /-- R29: The registrar reserves a slot on each seat of a placement, then commits all of them or releases them and backs off. -/
  | reservationAttempt (contended : Option (Nat × Nat))
  /-- R29: A lesson's back-off after a failed attempt ends, and it may be attempted again. -/
  | backoffExpiry (ctx : Nat) (num : Nat)
  /-- R33: A sequencer whose copies have all retired reports residency to the registrar. -/
  | residencyReport (hl : Nat) (ctx : Nat) (num : Nat)
  /-- R33: Once every sequencer has reported, the registrar starts the class's seats and the lesson runs. -/
  | lessonStart (ctx : Nat) (num : Nat)
  /-- R34: A faulting start copy abandons the lesson, releases its seats and retires it faulted. -/
  | lessonCopyFault (hl : Nat) (ctx : Nat) (num : Nat)
  /-- R38: A drained lesson retires, discards its tokens, releases its slots and lease, and pushes a completion record. -/
  | lessonRetire (ctx : Nat) (num : Nat)
  /-- R308: A host read of CHEAD1 pops the oldest completion record and lets a held completion in. -/
  | completionPop (page : Nat)
  /-- R306: A host write of 1 clears the OVF bit of a context page. -/
  | ovfClear (page : Nat)
  /-- R4: A write to a device register that has no row of its own updates its writable fields. -/
  | registerWrite (reg : DevReg) (value : BitVec 64)
  /-- R31: PREEMPT reaches zero on a seat, the slice ends for the class, TIMER is raised where due, and PREEMPT reloads. -/
  | timeSliceExpiry (core : Nat)
  /-- R144: A sequencer finishes streaming a context to or from its save area and checks the CRC. -/
  | contextStreamComplete (core : Nat) (store : Nat) (crcOk : Bool)
  /-- R20: The standby registrar on H4 takes over at the next admission attempt and releases every reservation. -/
  | registrarTakeover
  /-- R136: At an instruction boundary the control core takes the first pending cause and enters the handler or the supervisor. -/
  | trapEntry (core : Nat)
  /-- R45: A wait that has lasted more than WDOG clk and can no longer be supplied raises WAITSTUCK. -/
  | waitstuck (core : Nat) (ag : Agent)
  /-- R151: A service-port stop request freezes the core at consistent cuts. -/
  | stopRequest (core : Nat)
  /-- R152: A breakpoint register matches a control-core index or a queue head and stops the core. -/
  | breakpointHit (core : Nat)
  /-- R151: A stop completes when the longest started command has retired. -/
  | stopComplete (core : Nat)
  /-- R151: A stopped core is resumed through the service port and continues from its cuts. -/
  | stopResume (core : Nat)
  /-- R156: FREEZE stops every logic-die clock within 3 clk, and only reset leaves it. -/
  | freeze
  /-- R314: Reset brings the device up, verifying and loading the signed images in order. -/
  | deviceReset
  /-- R304: Every 10 ms Precision Time Measurement refreshes TIME against the host. -/
  | ptmRefresh (hostNs : Nat)
  /-- R317: A tile crossing 105 °C throttles its engines until it falls below 100 °C, and above 115 °C asserts FREEZE. -/
  | thermalThrottle (core : Nat) (tileTemp : Nat) (dieTemp : Nat)
  /-- R309: The sequencer reads TAIL at least every 1024 clk and performs the new slots in order. -/
  | ringPoll (hl : Nat)
  /-- R310: Creates an object-table entry, allocating a tensor-store extent for KIND 01. -/
  | ocreate (hl : Nat)
  /-- R310: Waits for the entry's in-flight count to reach zero, then empties it and frees its extent. -/
  | odestroy (hl : Nat)
  /-- R310: Rewrites an object's lifetime and deadline. -/
  | olife (hl : Nat)
  /-- R310: Reads and corrects a stack byte range and returns the corrected count. -/
  | scrub (hl : Nat)
  /-- R310: Remaps a DRAM row or bank to a spare. -/
  | spare (hl : Nat)
  /-- R310: Returns the usable bytes of a stack. -/
  | caprep (hl : Nat)
  /-- R310: Returns the hottest die temperature of a stack. -/
  | therm (hl : Nat)
  /-- R310: Returns the shortest retention time of a stack. -/
  | reten (hl : Nat)
  /-- R99: Scans a physical page's 512 words and returns the scan result word. -/
  | scan (hl : Nat)
  /-- R310: Sets the base and size of the trace ring. -/
  | trace (hl : Nat)
  /-- R310: Binds or unbinds a context page to a context. -/
  | bind (hl : Nat)
  /-- R318: Marks a core for retirement so that no further class is placed on it. -/
  | retire (hl : Nat)
  /-- R318: When a retired core's slots are empty, a spare tile is mapped under its ID. -/
  | coreSpareMap (core : Nat)
  /-- R319: Turns off an unmapped tier-2 site or port. -/
  | t2off (hl : Nat)
  /-- R319: Makes a replaced tier-2 module usable and returns its capacity. -/
  | t2on (hl : Nat)
  /-- R316: Requests a switch of a unit to its verified other firmware image. -/
  | fwsw (hl : Nat)
  /-- R316: A unit switches images at its allowed moment and writes a black-box record. -/
  | firmwareSwitch (hl : Nat)
  /-- R315: A service request with a nonce returns a report signed by the device identity key. -/
  | attestationRequest (nonce : BitVec 256)
  /-- R312: A Zurix flit whose CRC fails is replayed by the link. -/
  | flitCrcFail (link : Nat)
  /-- R313: A failed Zurix lane makes the link retrain onto the spare, or run at half width after a second failure. -/
  | laneFailure (link : Nat)
  /-- R320: A third corrected error in a row within an hour makes the prefect spare the row. -/
  | rowAutoSpare (stack : Nat) (bank : Nat) (row : Nat)
  /-- R26: The supervisor ends a running or pre-empted lesson after a fault, and the lesson retires faulted. -/
  | supervisorLessonEnd (ctx : Nat) (num : Nat) (cause : Nat)
  /-- R118: A store held in the control core's 16-entry store path is performed at its target, which frees room for a stalled store and lets a waiting FENCE.REL proceed. -/
  | storePerformed (core : Nat)
  /-- R118: The value of a load from another window, tier-2 or host memory returns, and the stalled control core resumes. -/
  | remoteLoadReturn (core : Nat)
  /-- R313: A Zurix link finishes retraining onto its spare lane within 10 µs, and the traffic held meanwhile is replayed. -/
  | laneRetrainComplete (link : Nat)
  /-- R304: The host link goes down or trains to a lower width or speed, and a black-box record of kind 0x14 is written. -/
  | hostLinkTraining (lanes : Nat) (rate : Nat)
  /-- R157: The removal of package power loses every headland's black box. -/
  | powerRemoval
  /-- R157: A power rail or power-gate fault writes a black-box record of kind 0x15. -/
  | powerRailFault (hl : Nat) (railUnit : Nat)
  /-- R64: A stored word, element or slot cell takes a soft error that later accesses find correctable or uncorrectable. -/
  | memorySoftError (loc : SoftLoc) (hard : Bool)
deriving DecidableEq, Repr

end Sys2Proof
end

