-- ==== Sys2Proof/Machine/State.lean ====
section
/-! DEFINITION. The state of the device, as plain data: everything the manual gives it, from the package down to a command
in a queue, and `State.reset`. Unless a field says otherwise a number stands for what its rule gives. -/

namespace Sys2Proof.Machine

/-- Why the machine stops: closed, one name for each. -/
inductive Fault where
  /-- Raised by `step` when the word fetched decodes to nothing. Safe: R103 says that no illegal word is ever decoded, so
  only a state that no run reaches stops so. -/
  | undecodable
deriving DecidableEq, Repr

/-- Why an instruction has no meaning: closed. -/
inductive Refusal where
  /-- Raised by an arm of `exec` that has no meaning yet. Safe: the machine stops where the device goes on. -/
  | notModelled (mnemonic : String)
deriving DecidableEq, Repr

/-- Where a byte is: a window offset of a core as a context sees it (R51, R149), tier-2 by physical address, host memory,
or an extent of the tensor store (R58). -/
inductive Place where
  | win (core ctx off : Nat)
  | tier2 (pa : Nat)
  | host (pa : Nat)
  | tier1 (stack handle off : Nat)
deriving DecidableEq, Repr

/-- An object-table entry (R58); kind 0 is empty. -/
structure ObjEntry where
  kind : Nat := 0
  fmt : Nat := 0
  rank : Nat := 0
  rd : Bool := false
  wr : Bool := false
  ov : Bool := false
  emir : Bool := false
  eval : Bool := false
  life : Nat := 0
  qaxis : Nat := 0
  owner : Nat := 0
  home : Nat := 0
  dims : List Nat := []
  strides : List Nat := []
  blen : Nat := 0
  zobj : Nat := 0
  sobj : Nat := 0
  deadline : Nat := 0
deriving DecidableEq, Repr

/-- A stream register as a command captured it (R60), with the entries it names as they stood at the push (R59); shift is what
a nest adds to its origin along each dimension (R219). -/
structure RStream where
  raw : BitVec 256 := 0
  shift : List Int := []
  ctx : Nat := 0
  obj : ObjEntry := {}
  sobj : ObjEntry := {}
  zobj : ObjEntry := {}
deriving DecidableEq, Repr

/-- A cause that waits to be taken, with the record of R140: the fields of TREC0 to TREC3, the clk it arose, and the queue
whose stop it is, or, with lane, the repair lane. -/
structure Pend where
  cause : Nat := 0
  agent : Nat := 0
  opc : Nat := 0
  sub : Nat := 0
  gen : Nat := 0
  seq : Nat := 0
  addr : Nat := 0
  detail : Nat := 0
  clk : Nat := 0
  queue : Option Agent := none
  lane : Bool := false
deriving DecidableEq, Repr

/-- Where a command stands: in its queue, started, or with every effect made and unretired (R42, R171, R205, R329). -/
inductive Phase where
  | queued | started | applied
deriving DecidableEq, Repr

/-- One row that a matrix command admits (R209, R218): its number, its iteration, its tile row, tag and predicate, and the
fetched operand elements a and (MXGRAD) b. -/
structure MxRow where
  i : Nat
  iter : Nat
  accRow : Nat
  tag : Nat
  pred : Bool
  a : List Num
  b : List Num
deriving DecidableEq, Repr

/-- What the control core waits for (R140's wait kinds 1 to 8; the others raise no WAITSTUCK). -/
inductive WaitKind where
  | token | flag | ticket | resultFifo | tlbPin | pendingFetch | chimney | collective
  | queueRoom | remoteLoad | storeRoom | fence | tlbinv | shadow | heldGroup | gate | chimneyOps | handed | mark
deriving DecidableEq, Repr

/-- A command in an engine queue or the repair lane (R40, R60, R125, R49, R138). -/
structure Cmd where
  instr : Instr
  /-- Sequence number and generation (R125). -/
  seq : Nat := 0
  gen : W32 := 0
  /-- General registers captured at the push, in the order the entry names them. -/
  gv : List W64 := []
  /-- Source (or x), destination (or dY, qt of MXRUN) and tag streams. -/
  sa : Option RStream := none
  sb : Option RStream := none
  st : Option RStream := none
  /-- MSHAPE as captured (R245). -/
  mshape : W64 := 0
  /-- TLB entries pinned (R49) and object indices counted (R59), with the context. -/
  pins : List Nat := []
  objs : List Nat := []
  /-- Bank groups and accumulator tiles of the executing core that its footprint or its names reach (R57). -/
  groups : List Nat := []
  tiles : List Nat := []
  phase : Phase := .queued
  popped : Bool := false
  husk : Bool := false
  /-- Suspended by an MXPAR of an earlier command (R329). -/
  suspended : Bool := false
  /-- The stop at the queue head, if it is stopped (R138). -/
  stop : Option Pend := none
  /-- Since which clk it waits at its queue head (R45), and what it was last seen to wait for there (R155). -/
  since : Nat := 0
  awaited : Option (WaitKind × Nat) := none
  /-- Whether an MXRES has resumed it, which takes effect once the repair lane is empty (R212, R213). -/
  resuming : Bool := false
  /-- Whether an MXRES has ended its stop: the commands behind it wait until it has retired (R212); and whether a QDROP has made it a
  husk, which takes effect once the repair lane is empty (R126, R212). -/
  resumed : Bool := false
  dropping : Bool := false
  /-- The flags raised so far (R77). -/
  fl : Flags := 0
  /-- The index list as read at the start (R165). -/
  idx : List Nat := []
  /-- Rows of MXRUN, MXGO and MXGRAD with their fetched operands, how many are admitted and committed, and the slot each
  admitted row found (R209, R211). -/
  rows : List MxRow := []
  admitted : Nat := 0
  committed : Nat := 0
  slots : List Nat := []
  /-- The fetched source of a PLOAD (R207). -/
  data : List Num := []
  /-- The nest that an MXGO runs: count and deltas of each level (R219, R220). -/
  nest : List (List Int) := []
deriving DecidableEq, Repr

/-- A plane-directory entry (R201), LIVE apart, which the rows in flight give. -/
structure DirEntry where
  tag : BitVec 16 := 0
  role : Bool := false
  /-- 0 EMPTY, 1 VALID, 2 BAD. -/
  st : Nat := 0
  quad : Bool := false
  fmt : Nat := 0x11
deriving DecidableEq, Repr

/-- A TLB entry (R49, R50): context, page base and size, target (0 tier-2, 1 host), physical base, rights, count. -/
structure TlbEntry where
  id : Nat
  ctx : Nat
  va : Nat
  size : Nat
  tgt : Nat
  pa : Nat
  usr : Bool
  x : Bool
  w : Bool
  r : Bool
  shr : Nat
  count : Nat
  dying : Bool
deriving DecidableEq, Repr

/-- A pair of the mean unit's table bank (R246): entry and exit tables of 257 F32 points and the attribute word. -/
structure MeanPair where
  entry : List W32
  exit : List W32
  attr : W64
deriving DecidableEq, Repr

/-- The state of an instruction-memory word (R101). -/
inductive WordState where
  | exec | nonexec | pending
deriving DecidableEq, Repr

/-- A word of instruction memory. -/
structure ImWord where
  w : W64 := 0
  st : WordState := .nonexec
deriving DecidableEq, Repr

/-- A wait of the control core: what for, the awaited object as R140 names it, and since which clk. -/
structure Wait where
  kind : WaitKind
  obj : Nat
  since : Nat
deriving DecidableEq, Repr

/-- A store in the store path that is not yet performed (R118). -/
structure PathStore where
  place : Place
  bytes : List Byte
deriving DecidableEq, Repr

/-- A breakpoint register (R152). -/
inductive Bp where
  | pc (idx : Nat)
  | queue (ag : Agent) (seq : Nat)
deriving DecidableEq, Repr

/-- A context as R142 lists it, with its instruction image (R148): live on its core, in a shadow store or in a save area. -/
structure Ctx where
  /-- Context ID and lesson number. -/
  id : Nat := 0
  lesson : Nat := 0
  pc : W64 := 0
  /-- G1 to G31 (R12); G0 is read as zero. -/
  g : SMap W64 := []
  /-- System registers by number (R119). -/
  sys : SMap W64 := [(0x035, 8), (0x042, Config.wdogCfg)]
  /-- Q0 to Q15 (R60). -/
  q : SMap (BitVec 256) := []
  /-- F0 to F63 (R12), and who last wrote each: core * 8 + agent + 1 (R155). -/
  f : SMap W32 := []
  flagBy : SMap Nat := []
  /-- Token counts by FIFO number (R42, R52); and what an abandoned instruction has still to give back to a FIFO that has filled
  since, which it does once the FIFO has room again (R108; log 29). -/
  tokens : SMap Nat := []
  owed : SMap Nat := []
  /-- V0 to V31: n * 1024 + 64 i + j (R175). -/
  v : SMap W32 := []
  /-- M1 to M7 (R175). -/
  m : SMap (BitVec 1024) := []
  /-- A0 to A3: n * 4096 + 64 i + j (R52). -/
  acc : SMap (BitVec 40) := []
  /-- Plane slots: s * 16384 + 64 k + c, exact values (R200). -/
  planes : SMap Num := []
  /-- Elements whose parity is bad (R64, R211): of V, of M, of A, and cells s * 4096 + 64 r + c of the slots. -/
  badV : List Nat := []
  badM : List Nat := []
  badA : List Nat := []
  badSlot : List Nat := []
  /-- The plane directory (R201). -/
  dir : SMap DirEntry := []
  /-- Shadow and active loop nests, by level: count and the four deltas (R219); and the control core's copy of the shadow
  nest as pushed (R208). -/
  shadowNest : SMap (List Int) := []
  activeNest : SMap (List Int) := []
  pushedNest : SMap (List Int) := []
  pushedActive : SMap (List Int) := []
  /-- Mean pairs written by VMTLD; the others are the standard pairs (R246, R248). -/
  bank : SMap MeanPair := []
  /-- The four queues and the repair lane (R39, R212). -/
  ld : List Cmd := []
  st : List Cmd := []
  vx : List Cmd := []
  mx : List Cmd := []
  lane : List Cmd := []
  /-- Next sequence numbers of LD, ST, VX, MX and the lane (R125). -/
  seqs : SMap Nat := []
  /-- Result FIFOs (R198, R223). -/
  vxFifo : List W64 := []
  mxFifo : List W64 := []
  /-- Chimney entries, each 64 16-bit elements, and DONE (R291). -/
  chimney : List (List (BitVec 16)) := []
  chDone : W32 := 0
  /-- TLB and the number of its next entry (R49). -/
  tlb : List TlbEntry := []
  tlbNext : Nat := 0
  /-- Instruction image (R101, R148). -/
  words : SMap ImWord := []
  /-- The agents that last released a TLB count, that last changed the chimney, and beside the matrix engine that last left a bank group
or tile, for the wait logs (R155). -/
  pinBy : Nat := 0
  chimBy : Nat := 0
  touchBy : Nat := 0
  /-- The wait of the control core, and an instruction held at retirement: the pc it goes on to, and its push mask. -/
  wait : Option Wait := none
  held : Option (W64 × BitVec 4) := none
  /-- While an instruction waits that has started: the FIFOs it has popped (R42); its word, where an LDO has since marked it
  pending or the supervisor image has been switched (R102, R316); and that it has passed the check of R51 on its window or core, with the scope
entry that it has read if it has read one (R240). -/
  ccPop : BitVec 4 := 0
  latch : Option W64 := none
  waitEntry : Option (Option (BitVec 2048)) := none
  /-- The entries that a waiting TLBINV has marked, each by the save-area key of its context state and its number there (R50, R131). -/
  invs : List (Nat × Nat) := []
  /-- The trap that a held TRAP or BRK takes once its pushes are made. -/
  heldTrap : Option Pend := none
  /-- Stores not yet performed (R118). -/
  path : List PathStore := []
  /-- Scope of the last FENCE.REL and FENCE.ACQ (R234). -/
  relScope : Option (BitVec 5) := none
  acqScope : Option (BitVec 5) := none
  /-- Causes that wait to be taken (R138, R141). -/
  pend : List Pend := []
  /-- The seat has exited (R38); the control core has halted on a double fault (R136). -/
  exited : Bool := false
  halted : Bool := false
  /-- It has exited and runs no handler, so it fetches nothing (R38). -/
  parked : Bool := false
  /-- The seat is committed and not started (R33). -/
  waitStart : Bool := false
  /-- Where the core was resumed: the breakpoints that matched there, and whether it is the stop of a BRK; they do not stop it again there
(R123, R151, R152). -/
  passed : List Bp := []
  brkPassed : Bool := false
  /-- Whether a handler of a COLLPAGE is running, whose ERET retries parked chunks (R279). -/
  collHandler : Bool := false
  /-- Free-running commands of the copy unit: whether the ST head is to start next (R13). -/
  stNext : Bool := false
deriving DecidableEq, Repr

/-- State of a shadow store (R143). -/
inductive ShadowState where
  | empty | resident | streamIn | streamOut
deriving DecidableEq, Repr

/-- A shadow store. -/
structure Shadow where
  st : ShadowState := .empty
  ctx : Ctx := {}
deriving DecidableEq, Repr

/-- What a seat slot holds (R27): context, lesson number, priority and lease of a lesson. -/
structure SlotHold where
  ctx : Nat
  num : Nat
  pri : Nat
  lease : Nat
deriving DecidableEq, Repr

/-- An operation with the chimney controller (R295, R300): VXFER or PGREQ, G[a], the context and lesson that handed it; done
when its effect is made and it is held at retirement. -/
structure ChimOp where
  instr : Instr
  ga : W64
  ctx : Nat
  lesson : Nat
  done : Bool := false
deriving DecidableEq, Repr

/-- One core (R12). -/
structure Core where
  slot0 : Option SlotHold := none
  slot1 : Option SlotHold := none
  /-- Whether a context is active, and the live state. -/
  active : Bool := false
  live : Ctx := {}
  sh0 : Shadow := {}
  sh1 : Shadow := {}
  /-- Scratchpad bytes and the 8-byte words found uncorrectable (R52, R64). -/
  scratch : Mem := []
  badWords : List Nat := []
  /-- Scratchpad words with a correctable error that no access has met yet (R64). -/
  softWords : List Nat := []
  /-- Breakpoint registers; whether kndbg holds the core; a stop requested and completed (R151, R152). -/
  bps : SMap Bp := []
  debugHold : Bool := false
  stopReq : Bool := false
  stopped : Bool := false
  /-- Whether the stop is that of a BRK, which retires once the core is resumed (R123). -/
  brkStop : Bool := false
  /-- A TIMER is to be raised once the other slot's context has streamed in (R146). -/
  timerDue : Bool := false
  /-- The store that an evicted RESIDENT context is leaving, into which the incoming context is to stream (R146). -/
  inStore : Option Nat := none
  /-- Gated units and units that wake (R301, R302). -/
  gated : List Nat := []
  waking : List Nat := []
  /-- Operations with the chimney controller (R295). -/
  ops : List ChimOp := []
  /-- TIDEPRI in effect (R298, R299). -/
  tideNow : Bool := false
  /-- Engines throttled (R317). -/
  throttled : Bool := false
  /-- Marked for retirement; permanently unavailable; the spare tile mapped in, none for the configured one (R318, R9). -/
  retiring : Bool := false
  unavailable : Bool := false
  tile : Option Nat := none
deriving DecidableEq, Repr

/-- Lesson states (R26). -/
inductive LessonState where
  | queued | reserving | admitted | running | preempted | draining | retired
deriving DecidableEq, Repr

/-- A seat of a class (R27, R29, R36). -/
structure Seat where
  core : Nat
  slot : Nat
  x : Nat
  y : Nat
  ord : Nat
  idx : Nat
deriving DecidableEq, Repr

/-- A lesson (R22 to R38). -/
structure Lesson where
  ctx : Nat
  num : Nat
  rcd : BitVec 1024
  /-- Prefetch entries then plane entries, as the registrar read them (R23, R24). -/
  entries : List (BitVec 128) := []
  st : LessonState := .queued
  /-- The state a pre-empted lesson was evicted from is draining (R26). -/
  wasDraining : Bool := false
  /-- Failed attempts and the clk until which it is withheld (R29). -/
  k : Nat := 0
  backoff : Option Nat := none
  /-- The seats it holds, or, pre-empted, its claim (R32). -/
  seats : List Seat := []
  /-- Headlands whose sequencer has reported (R33). -/
  reported : List Nat := []
  /-- PREEMPT reload value (R31). -/
  slice : Nat := 1200000
deriving DecidableEq, Repr

/-- A save area (R144): the context saved there. -/
structure Save where
  ctx : Ctx
deriving DecidableEq, Repr

/-- A receive counter (R276): its count, and EXP and FLAG while it is armed. -/
structure Counter where
  count : Nat := 0
  armed : Option (Nat × Nat) := none
deriving DecidableEq, Repr

/-- A communicator (R270): receive slots, chunk size, priority, members (node, core), receive counters at core * 4 + k,
and per member core the retired count and the error cause (R280). -/
structure Comm where
  rslot : Nat
  chunk : Nat
  pri : Nat
  members : List (Nat × Nat)
  counters : SMap Counter := []
  done : SMap Nat := []
  err : SMap Nat := []
deriving DecidableEq, Repr

/-- What the device keeps for a context. -/
structure Context where
  /-- Object table and in-flight counts (R58, R59). -/
  objs : SMap ObjEntry := []
  counts : SMap Nat := []
  /-- Next lesson number (R24). -/
  nextNum : Nat := 0
  comms : SMap Comm := []
  ptbase : W64 := 0
  scopebase : W64 := 0
  wdog : Option W64 := none
  slice : Option Nat := none
  /-- Completions that wait for a page to be bound (R25, R308). -/
  compHeld : List (W64 × W64) := []
deriving DecidableEq, Repr

/-- A handed COLL or REPART record (R269). -/
structure Rec where
  rid : Nat
  core : Nat
  ctx : Nat
  lesson : Nat
  instr : Instr
  comm : Nat
  raw : BitVec 1024
  mshape : W64
  /-- Handed over by supervisor code, which no lease binds (R330). -/
  sup : Bool := false
  started : Bool := false
  /-- Iterations walked, and bytes of the current transfer emitted. -/
  iter : Nat := 0
  sent : Nat := 0
  walked : Bool := false
  /-- Walker paused on a page that is not valid (R279). -/
  paused : Bool := false
  /-- CWAIT cause of an error, 0 for none (R280). -/
  err : Nat := 0
  /-- Effects made, held at retirement (R89). -/
  done : Bool := false
  /-- Bytes of the current MEAN transfer that earlier chunks have taken (log 22). -/
  gathered : List Byte := []
  /-- REPART: scratchpad offsets and bytes of POBJ, ROBJ and the status block as they stood at the hand-over (R288); the bytes of the
  breakwater as they stood then, and those that its rows have brought since; the free values that stand in their places until the
  retirement; and whether a program has written one of them, which leaves the contents of all unspecified. -/
  saved : List (Nat × List Byte) := []
  bwOld : List (Place × Byte) := []
  bwNew : List (Place × Byte) := []
  veiled : List (Place × Byte) := []
  touched : Bool := false
  /-- REPART: whether the operation has been computed, and what its retirement writes: scratchpad offsets, bytes and
  how many of them are new, and the breakwater's virtual addresses and bytes (R284 to R287). -/
  ready : Bool := false
  out : List (Nat × List Byte × Nat) := []
  spill : List (Nat × List Byte) := []
deriving DecidableEq, Repr

/-- A chunk of a transfer (R272, R275). -/
structure Chunk where
  cid : Nat
  rid : Nat
  ctx : Nat
  comm : Nat
  /-- Iteration of the transfer, and its length (R274). -/
  iter : Nat := 0
  len : Nat := 0
  src : Nat
  /-- Fabric node (0xFFF this package) and core of the receiver. -/
  node : Nat := 0xFFF
  dst : Nat
  /-- Destination offset or virtual address, and DKIND. -/
  addr : Nat
  virt : Bool
  /-- The bytes to apply; none in the chunks of a MEAN transfer but its last, which applies the whole transfer (log 22). -/
  bytes : List Byte
  op : Nat
  ty : Nat
  rm : Nat
  cnt : Bool
  tidx : Nat
  mshape : W64
deriving DecidableEq, Repr

/-- A record of the trace ring or of the black box (R154, R157). -/
structure TraceRec where
  time : Nat
  kind : Nat
  agent : Nat := 0
  core : Nat := 0
  ctx : Nat := 0
  code : Nat := 0
  value : Nat := 0
  word3 : Nat := 0
deriving DecidableEq, Repr

/-- A host context page (R306 to R308). -/
structure Page where
  bound : Option Nat := none
  window : Mem := []
  launch : List (BitVec 1024) := []
  ovf : Bool := false
  ien : Bool := false
  comp : List (W64 × W64) := []
  /-- Completions that wait for room (R308). -/
  waiting : List (W64 × W64) := []
deriving DecidableEq, Repr

/-- One headland with its DRAM stack. -/
structure Headland where
  /-- TAIL as last read (R309). -/
  tail : Nat := 0
  /-- Trace ring: base, size, records written, records lost (R154). -/
  traceBase : Nat := 0
  traceSize : Nat := 0
  traceCount : Nat := 0
  traceLost : Nat := 0
  /-- Wait-log threshold (R155). -/
  waitThreshold : Nat := 65536
  /-- Black box, newest first, 4096 records (R157). -/
  blackBox : List TraceRec := []
  /-- Kinds of black-box record that assert FREEZE (R156). -/
  trigger : List Nat := []
  /-- Parked chunks (R279); the communicator last served at each priority, as 1 + context * 16 + communicator (R272); slot memory
  in use (R271). -/
  park : List Chunk := []
  served : SMap Nat := []
  slotUsed : Nat := 0
  /-- Prefect: next handle, spared rows (bank * 2^24 + row), spared banks, corrected errors (row, time) (R310, R320). -/
  nextHandle : Nat := 1
  sparedRows : List Nat := []
  sparedBanks : List Nat := []
  corrected : List (Nat × Nat) := []
  /-- Corrected soft errors by unit: in all (R317), since the unit's last black-box record, and the time of that record
  (R157). A unit is a core, 4096 + n for stack n, 8192 + n for tier-2 site or port n. -/
  corrCount : SMap Nat := []
  corrSince : SMap Nat := []
  corrLogged : SMap Nat := []
  /-- Spare tiles left (R9, R318). -/
  spares : Nat := 16
  /-- Firmware switches asked for, by image kind (R316); whether the headland stays in reset, which it reports through the
  service port, with the image kinds that did not verify, 32 the configuration image (R314). -/
  fwPending : List Nat := []
  down : Bool := false
  failed : List Nat := []
deriving DecidableEq, Repr

/-- A Zurix link (R312, R313): failed lanes, retraining, half width, flits replayed, and the traffic held while it retrains. -/
structure Link where
  failed : Nat := 0
  retraining : Bool := false
  half : Bool := false
  replays : Nat := 0
  held : List (Nat × Chunk) := []
deriving DecidableEq, Repr

/-- The state of the package. The model's own fields, which the manual does not name: cur (the core whose control core
moves), turn (whether the engines and units move next), agenda (the events to come, each with the clk that pass before it)
and freeCtr (the counter of free values). -/
structure State where
  cur : Nat := 0
  turn : Bool := false
  agenda : List (Nat × Instr) := []
  freeCtr : Nat := 0
  /-- CYCLE, TIME in sixths of a ns, and the correction still to be slewed in sixths (R119, R153). -/
  cycle : Nat := 0
  time6 : Nat := 0
  timeAdj : Int := 0
  /-- Thousandths of a sixth of a ns by which TIME may be slewed besides (R153). -/
  slewRem : Nat := 0
  /-- The tide half, set at its boundary: ebb, in which the upper layer holds the right to full rate; and the number of that
  half since reset (R298). -/
  ebb : Bool := false
  tideHalf : Nat := 0
  cores : SMap Core := []
  contexts : SMap Context := []
  /-- Save areas at (core * 65536 + context) * 2^32 + lesson number (R32, R144). -/
  saves : SMap Save := []
  /-- Bank groups streamed with a context (R147), at the key of the save area * 4 + group, as offsets within the group. -/
  bankSaves : SMap Mem := []
  lessons : List Lesson := []
  /-- Context last admitted (R30); whether the standby registrar serves (R20). -/
  lastAdmitted : Option Nat := none
  standby : Bool := false
  /-- Resets and takeovers, after each of which the phase of the registrar's counter is another (R29). -/
  phase : Nat := 0
  heads : SMap Headland := []
  pages : SMap Page := []
  /-- Tier-2 and host bytes; tensor-store extents at stack * 2^32 + handle; uncorrectable bursts (R64). -/
  tier2 : Mem := []
  host : Mem := []
  tier1 : SMap Mem := []
  badTier2 : List Nat := []
  badHost : List Nat := []
  badTier1 : List (Nat × Nat) := []
  /-- Words of tier-1 with a correctable error that nothing has read yet (R64, R310). -/
  softTier1 : List (Nat × Nat) := []
  /-- Whether the SKU letter is C (R1, R16), the bytes installed at a site or port where they differ from 512 GB, and the
  sites or ports that are off (R48, R319). -/
  skuC : Bool := false
  t2cap : SMap Nat := []
  t2off : List Nat := []
  /-- Who last incremented a ticket (R155): core + 1 by tier-2 address or window address. -/
  ticketBy : SMap Nat := []
  recs : List Rec := []
  nextRid : Nat := 0
  chunks : List Chunk := []
  nextCid : Nat := 0
  /-- Flits sent to other packages: node and chunk (R312). -/
  fabricOut : List (Nat × Chunk) := []
  links : SMap Link := []
  hostUp : Bool := true
  hostLanes : Nat := 16
  hostRate : Nat := 64
  /-- MSI-X vectors sent (R306). -/
  msi : List Nat := []
  /-- FREEZE (R156). -/
  frozen : Bool := false
  /-- Image of each unit, at headland * 4 + kind: 0 A, 1 B; kind 0 prefect, 1 registrar, 2 sequencer, 3 supervisor (R314,
  R316; log 24). -/
  images : SMap Nat := []
  /-- The last attestation report (R315). -/
  report : Option (BitVec 256 × W64 × List (BitVec 384) × BitVec 768) := none
deriving DecidableEq, Repr

/-- The machine right after reset: every field at the value its declaration gives. -/
def State.reset : State := {}

end Sys2Proof.Machine
end

