-- ==== Sys2Proof/Machine/Ops.lean ====
section
/-! DEFINITION. The named operations over the state: registers, tokens, clocks, records, the windows' bytes, the end of a
lesson, taking a trap and returning from one, and the retirement of a control-core instruction. -/

namespace Sys2Proof.Machine

/-! ## Bits -/

/-- Bits [hi:lo] of a number. -/
def bits (n hi lo : Nat) : Nat := n / 2 ^ lo % 2 ^ (hi + 1 - lo)

/-- Byte i of a bit vector, least significant first. -/
def byteOf {w : Nat} (x : BitVec w) (i : Nat) : Byte := (x >>> (8 * i)).setWidth 8

/-- A bit vector with byte i replaced. -/
def setByte {w : Nat} (x : BitVec w) (i : Nat) (b : Byte) : BitVec w :=
  (x &&& ~~~((255#8).setWidth w <<< (8 * i))) ||| (b.setWidth w <<< (8 * i))

/-- The little-endian number of bytes (R3). -/
def leNat : List Byte → Nat
  | [] => 0
  | b :: r => b.toNat + 256 * leNat r

/-- The n little-endian bytes of a number (R3). -/
def natLe (n v : Nat) : List Byte := (List.range n).map fun i => BitVec.ofNat 8 (v / 256 ^ i)

/-- A sign-extended field as a 64-bit word. -/
def sx {k : Nat} (v : BitVec k) : W64 := v.signExtend 64

/-! ## Agents and FIFOs -/

/-- The place of an agent in peer order (R13). -/
def agentNum : Agent → Nat
  | .cc => 0
  | .ld => 1
  | .st => 2
  | .vx => 3
  | .mx => 4

/-- The agent at a place in peer order. -/
def agentOf : Nat → Agent
  | 0 => .cc
  | 1 => .ld
  | 2 => .st
  | 3 => .vx
  | _ => .mx

/-- The number of the FIFO from p to c: producer then consumer, each in peer order (R52). -/
def fifo (p c : Agent) : Nat := agentNum p * 4 + (if agentNum c < agentNum p then agentNum c else agentNum c - 1)

/-- The peer of an agent that mask bit 3 − i names (R88). -/
def peer (a : Agent) (i : Nat) : Agent := agentOf (if i < agentNum a then i else i + 1)

/-- The peers a mask names. -/
def peersOf (a : Agent) (mask : BitVec 4) : List Agent :=
  ((List.range 4).filter fun i => mask.getLsbD (3 - i)).map (peer a)

/-- The FIFOs that a wait byte pops (R88). -/
def popFifos (a : Agent) (mask : BitVec 4) : List Nat := (peersOf a mask).map fun p => fifo p a
/-- The FIFOs that a signal byte pushes (R88). -/
def pushFifos (a : Agent) (mask : BitVec 4) : List Nat := (peersOf a mask).map fun p => fifo a p

/-! ## Cores, contexts, headlands -/

/-- A core, as reset until something is written (R12). -/
def State.core (s : State) (c : Nat) : Core := s.cores.get {} c
/-- The state with a core replaced. -/
def State.setCore (s : State) (c : Nat) (k : Core) : State := { s with cores := s.cores.put c k }
/-- The live context of a core. -/
def State.live (s : State) (c : Nat) : Ctx := (s.core c).live
/-- The state with a core's live context replaced. -/
def State.setLive (s : State) (c : Nat) (x : Ctx) : State := s.setCore c { s.core c with live := x }
/-- The live context of the core whose control core moves. -/
def State.ctx (s : State) : Ctx := s.live s.cur
/-- The state with that context replaced. -/
def State.setCtx (s : State) (x : Ctx) : State := s.setLive s.cur x
/-- What the device keeps for a context ID. -/
def State.context (s : State) (c : Nat) : Context := s.contexts.get {} c
def State.setContext (s : State) (c : Nat) (x : Context) : State := { s with contexts := s.contexts.put c x }
/-- A headland. -/
def State.head (s : State) (h : Nat) : Headland := s.heads.get {} h
def State.setHead (s : State) (h : Nat) (x : Headland) : State := { s with heads := s.heads.put h x }
/-- A host context page. -/
def State.page (s : State) (p : Nat) : Page := s.pages.get {} p
def State.setPage (s : State) (p : Nat) (x : Page) : State := { s with pages := s.pages.put p x }

/-- The headland of a core ID (R10). -/
def hlOf (core : Nat) : Nat := core / 256
/-- Whether an 11-bit number is a core ID (R10). -/
def coreId (n : Nat) : Bool := decide (n < 2048 ∧ n % 256 < 192)

/-- The device time in ns (R153). -/
def State.time (s : State) : Nat := s.time6 / 6

/-! ## Registers -/

/-- Read a general register: g0 reads zero (R95). -/
def Ctx.rg (x : Ctx) (r : BitVec 5) : W64 := if r = 0 then 0 else x.g.get 0 r.toNat
/-- Write a general register: a write to g0 is discarded (R107). -/
def Ctx.setG (x : Ctx) (r : BitVec 5) (v : W64) : Ctx := if r = 0 then x else { x with g := x.g.put r.toNat v }
/-- Read and write a system register's storage (R119). -/
def Ctx.sr (x : Ctx) (n : Nat) : W64 := x.sys.get 0 n
def Ctx.setSr (x : Ctx) (n : Nat) (v : W64) : Ctx := { x with sys := x.sys.put n v }

/-- System register numbers (R119). -/
def snSTATUS : Nat := 0x000
def snTVEC : Nat := 0x001
def snTCAUSE : Nat := 0x002
def snTPC : Nat := 0x003
def snTVAL : Nat := 0x004
def snTREC0 : Nat := 0x008
def snCORE : Nat := 0x010
def snSEAT : Nat := 0x011
def snCLASSSZ : Nat := 0x012
def snLVL0 : Nat := 0x018
def snLC0 : Nat := 0x020
def snGEN : Nat := 0x024
def snFPSTICKY : Nat := 0x030
def snSKIPCNT : Nat := 0x031
def snDOMCNT : Nat := 0x032
def snMSHAPE : Nat := 0x033
def snVCNT : Nat := 0x034
def snCHFREE : Nat := 0x035
def snTIDEPRI : Nat := 0x036
def snTIME : Nat := 0x040
def snCYCLE : Nat := 0x041
def snWDOG : Nat := 0x042
def snSCOPEBASE : Nat := 0x048
def snPTBASE : Nat := 0x049
def snPREEMPT : Nat := 0x04A

/-- STATUS bits (R120). -/
def Ctx.sup (x : Ctx) : Bool := (x.sr snSTATUS).getLsbD 0
def Ctx.psup (x : Ctx) : Bool := (x.sr snSTATUS).getLsbD 1
def Ctx.svc (x : Ctx) : Bool := (x.sr snSTATUS).getLsbD 2
def Ctx.te (x : Ctx) : Bool := (x.sr snSTATUS).getLsbD 3
def Ctx.inh (x : Ctx) : Bool := (x.sr snSTATUS).getLsbD 4

/-- A STATUS value from its fields (R120); the reserved bits are zero. -/
def statusOf (sup psup svc te inh : Bool) : W64 :=
  (BitVec.ofBool inh ++ BitVec.ofBool te ++ BitVec.ofBool svc ++ BitVec.ofBool psup ++ BitVec.ofBool sup).setWidth 64

/-- Mask register n; M0 reads all ones (R175). -/
def Ctx.mask (x : Ctx) (n : Nat) : BitVec 1024 := if n = 0 then BitVec.allOnes 1024 else x.m.get 0 n
/-- Write a mask register; writes to M0 are ignored (R175). -/
def Ctx.setMask (x : Ctx) (n : Nat) (v : BitVec 1024) : Ctx := if n = 0 then x else { x with m := x.m.put n v }
/-- Element [i][j] of Vn (R175). -/
def vIdx (n i j : Nat) : Nat := n * 1024 + 64 * i + j
def Ctx.ve (x : Ctx) (n i j : Nat) : W32 := x.v.get 0 (vIdx n i j)
/-- Element [i][j] of An (R52). -/
def aIdx (n i j : Nat) : Nat := n * 4096 + 64 * i + j
/-- The F register n. -/
def Ctx.flag (x : Ctx) (n : Nat) : W32 := x.f.get 0 n
/-- OR flags into FPSTICKY (R77). -/
def Ctx.orSticky (x : Ctx) (fl : Flags) : Ctx := x.setSr snFPSTICKY (x.sr snFPSTICKY ||| fl.setWidth 64)

/-- An instruction-memory word of the context (R101). -/
def Ctx.word (x : Ctx) (i : Nat) : ImWord := x.words.get {} i

/-! ## Queues -/

/-- The queue of an engine (R39). -/
def Ctx.queue (x : Ctx) : Agent → List Cmd
  | .cc => []
  | .ld => x.ld
  | .st => x.st
  | .vx => x.vx
  | .mx => x.mx
/-- The context with an engine's queue replaced. -/
def Ctx.setQueue (x : Ctx) (a : Agent) (q : List Cmd) : Ctx :=
  match a with
  | .cc => x
  | .ld => { x with ld := q }
  | .st => { x with st := q }
  | .vx => { x with vx := q }
  | .mx => { x with mx := q }
/-- Entries of a queue (R39). -/
def queueCap : Agent → Nat
  | .cc => 0
  | .ld => 32
  | .st => 32
  | .vx => 32
  | .mx => 16

/-- Slots that started CHPUSH commands have claimed (R291). -/
def Ctx.chClaims (x : Ctx) : Nat :=
  (x.vx.map fun c => match c.instr with
    | .chpush _ _ _ _ _ n => if c.phase = .started ∧ ¬ c.husk then n.toNat + 1 else 0
    | _ => 0).sum
/-- FREE of the chimney (R291). -/
def Ctx.chFree (x : Ctx) : Nat := 8 - x.chimney.length - x.chClaims

/-! ## Tokens (R42) -/

/-- Whether every FIFO of a list holds a token. -/
def Ctx.hasTokens (x : Ctx) (l : List Nat) : Bool := l.all fun n => decide (0 < x.tokens.get 0 n)
/-- Whether every FIFO of a list has room: at most 15 tokens. -/
def Ctx.hasRoom (x : Ctx) (l : List Nat) : Bool := l.all fun n => decide (x.tokens.get 0 n < 15)
/-- Pop one token from each FIFO of a list. -/
def Ctx.popTokens (x : Ctx) (l : List Nat) : Ctx :=
  { x with tokens := l.foldl (fun t n => t.put n (t.get 0 n - 1)) x.tokens }
/-- Push one token into each FIFO of a list. -/
def Ctx.pushTokens (x : Ctx) (l : List Nat) : Ctx :=
  { x with tokens := l.foldl (fun t n => t.put n (t.get 0 n + 1)) x.tokens }
/-- Give back one token to each FIFO of a list, or owe it where the FIFO holds 15 (R42, R108). -/
def Ctx.backTokens (x : Ctx) (l : List Nat) : Ctx :=
  { x.pushTokens (l.filter fun n => decide (x.tokens.get 0 n < 15)) with
    owed := (l.filter fun n => !decide (x.tokens.get 0 n < 15)).foldl (fun t n => t.put n (t.get 0 n + 1)) x.owed }
/-- The tokens still owed given back to the FIFOs that have room (R42, R108; log 29). -/
def Ctx.refill (x : Ctx) : Ctx :=
  if x.owed = [] then x
  else x.owed.foldl (fun x e =>
    let m := min e.2 (15 - x.tokens.get 0 e.1)
    { x with tokens := x.tokens.put e.1 (x.tokens.get 0 e.1 + m)
             owed := if e.2 ≤ m then x.owed.erase e.1 else x.owed.put e.1 (e.2 - m) }) x

/-! ## Clocks (R119, R153) -/

/-- The correction of a clock bound to cap (R153). -/
def slew (adj : Int) (cap : Nat) : Int := max (-(cap : Int)) (min (cap : Int) adj)

/-- The clocks dt clk later: CYCLE, TIME and the PREEMPT of every core whose context is active (R119, R146, R153). 5/6 ns pass
in a clk, and a correction takes at most one ns in every 1000, whatever the steps by which the clock advances. -/
def State.advance (s : State) (dt : Nat) : State :=
  let due := if s.timeAdj = 0 then 0 else s.slewRem + 5 * dt
  let a := slew s.timeAdj (due / 1000)
  { s with
    cycle := s.cycle + dt
    time6 := s.time6 + (5 * (dt : Int) + a).toNat
    timeAdj := s.timeAdj - a
    slewRem := due % 1000
    cores := s.cores.map fun c =>
      if c.2.active then
        let p := (c.2.live.sr snPREEMPT).toNat
        (c.1, { c.2 with live := c.2.live.setSr snPREEMPT (BitVec.ofNat 64 (p - dt)) })
      else c }

/-! ## Records -/

/-- The four words of a trace record (R154). -/
def TraceRec.bytes (r : TraceRec) : List Byte :=
  natLe 8 r.time ++
  natLe 8 (r.kind * 2 ^ 56 + r.agent % 8 * 2 ^ 44 + r.core % 2048 * 2 ^ 32 + r.ctx % 65536 * 2 ^ 16 + r.code % 65536) ++
  natLe 8 r.value ++ natLe 8 r.word3

/-- Write bytes of a memory from an address on. -/
def Mem.write (m : Mem) (a : Nat) : List Byte → Mem
  | [] => m
  | b :: r => Mem.write (SMap.set 0 m a b) (a + 1) r
/-- Read n bytes of a memory from an address on. -/
def Mem.read (m : Mem) (a n : Nat) : List Byte := (List.range n).map fun i => SMap.get 0 m (a + i)

/-- A record written to a headland's trace ring, whose words it makes good (R64): lost and counted when the ring is full, and preceded by a record of the
count when records were lost before (R154). Before a TRACE has set a ring its size is zero, so that every record is lost and counted, and
a TRACE leaves the count of lost records (DESIGN CHOICE, log 66). -/
def State.trace (s : State) (hl : Nat) (r : TraceRec) : State :=
  let h := s.head hl
  let recs := if h.traceLost = 0 then [r] else [{ time := r.time, kind := 0x07, core := r.core, ctx := r.ctx, value := h.traceLost }, r]
  if h.traceSize / 32 < h.traceCount + recs.length then s.setHead hl { h with traceLost := h.traceLost + 1 }
  else
    let base := h.traceBase + 32 * h.traceCount
    let s := { s with
      tier2 := Mem.write s.tier2 base (recs.flatMap TraceRec.bytes)
      badTier2 := s.badTier2.filter fun w => !decide (base ≤ 8 * w ∧ 8 * w + 8 ≤ base + 32 * recs.length) }
    s.setHead hl { h with traceCount := h.traceCount + recs.length, traceLost := 0 }

/-- FREEZE asserted: the clocks stop and the links are seen to go down (R156). -/
def State.freeze (s : State) : State := { s with frozen := true, hostUp := false }

/-- A black-box record: the newest 4096 stay (R157). A record of a kind that the supervisor has made a trigger asserts FREEZE
(R156). -/
def State.blackBox (s : State) (hl : Nat) (r : TraceRec) : State :=
  let h := s.head hl
  let s := s.setHead hl { h with blackBox := (r :: h.blackBox).take 4096 }
  if h.trigger.contains r.kind then s.freeze else s

/-- The black-box record of an uncorrectable error that an agent of a core meets (R64, R157). -/
def State.eccBox (s : State) (core agent ctx addr : Nat) : State :=
  s.blackBox (hlOf core) { time := s.time, kind := 0x11, agent := agent, core := core, ctx := ctx, code := 0x0B, value := addr }

/-- A corrected error of a unit counted, with the core (or 0) and the address it names; a black-box record where the unit has had
none for a millisecond, with the count since its last; the errors after it wait for the first one a millisecond or more later, since R157
only bounds the rate (DESIGN CHOICE, log 67; R157, R317). -/
def State.corrected (s : State) (hl unit core addr : Nat) : State :=
  let h := s.head hl
  let n := h.corrSince.get 0 unit + 1
  let h : Headland := { h with corrCount := h.corrCount.put unit (h.corrCount.get 0 unit + 1) }
  let due : Bool := match h.corrLogged.find? (·.1 = unit) with | none => true | some e => decide (e.2 + 1000000 ≤ s.time)
  match due with
  | true =>
    (s.setHead hl { h with corrSince := h.corrSince.put unit 0, corrLogged := h.corrLogged.put unit s.time }).blackBox hl
      { time := s.time, kind := 0x12, core := core, code := 0x0B, value := addr, word3 := n }
  | false => s.setHead hl { h with corrSince := h.corrSince.put unit n }

/-- Words of a tier-1 extent that a read meets: those with a correctable error are corrected and counted, for the unit and for
the row they stand in (R64, R310, R320). The key is stack * 2^32 + handle. -/
def State.correctTier1 (s : State) (key : Nat) (words : List Nat) : State :=
  (s.softTier1.filter fun e => e.1 == key && words.contains e.2).foldl (fun s e =>
    let st := key / 2 ^ 32
    let d := s.head st
    let s := s.setHead st { d with corrected := d.corrected ++ [(Config.rowOf st (key % 2 ^ 32) (8 * e.2), s.time)] }
    ({ s with softTier1 := s.softTier1.filter (· != e) }).corrected st (4096 + st) 0 (8 * e.2)) s

/-- Scratchpad words of a core that an access meets: those with a correctable error are corrected, written back and counted (R64). -/
def State.correctPad (s : State) (core : Nat) (words : List Nat) : State :=
  ((s.core core).softWords.filter words.contains).foldl (fun s w =>
    let k := s.core core
    (s.setCore core { k with softWords := k.softWords.filter (· != w) }).corrected (hlOf core) core core
      (0xF000000000000000 + core * 0x800000 + 8 * w)) s

/-- The page bound to a context (R306). -/
def State.pageOf (s : State) (ctx : Nat) : Option Nat := ((s.pages.find? fun p => p.2.bound = some ctx).map (·.1))

/-- A completion record put into the FIFO of a page, held back while that is full; an MSI-X message follows if IEN is set
(R306, R308). -/
def State.pushComp (s : State) (p : Nat) (r : W64 × W64) : State :=
  let pg := s.page p
  if pg.comp.length < 256 then
    let s := s.setPage p { pg with comp := pg.comp ++ [r] }
    if pg.ien then { s with msi := s.msi ++ [p] } else s
  else s.setPage p { pg with waiting := pg.waiting ++ [r] }

/-- A completion record pushed for a context; the registrar holds it while no page is bound to the context (R25, R308). -/
def State.complete (s : State) (ctx : Nat) (num : Nat) (outcome reason : Nat) : State :=
  let w0 : W64 := BitVec.ofNat 64 (reason * 2 ^ 40 + outcome * 2 ^ 32 + num % 2 ^ 32)
  let r := (w0, BitVec.ofNat 64 s.time)
  match s.pageOf ctx with
  | none => s.setContext ctx { s.context ctx with compHeld := (s.context ctx).compHeld ++ [r] }
  | some p => s.pushComp p r

/-! ## The bytes of a window (R52) -/

/-- A byte of a core's window as a context's state shows it. -/
def winByte (k : Core) (x : Ctx) (off : Nat) : Byte :=
  if off < 0x200000 then SMap.get 0 k.scratch off
  else if off < 0x220000 then byteOf (x.v.get 0 ((off - 0x200000) / 4)) (off % 4)
  else if off < 0x220400 then byteOf (x.mask ((off - 0x220000) / 128)) (off % 128)
  else if off < 0x240000 then 0
  else if off < 0x260000 then byteOf (x.acc.get 0 ((off - 0x240000) / 8)) (off % 8)
  else if off < 0x260100 then byteOf (x.rg (BitVec.ofNat 5 ((off - 0x260000) / 8))) (off % 8)
  else if off < 0x261000 then 0
  else if off < 0x261100 then byteOf (x.flag ((off - 0x261000) / 4)) (off % 4)
  else if off < 0x262000 then 0
  else if off < 0x262050 then byteOf (BitVec.ofNat 32 (x.tokens.get 0 ((off - 0x262000) / 4))) (off % 4)
  else if off < 0x263000 then 0
  else if off < 0x263004 then byteOf (BitVec.ofNat 32 x.chFree) (off % 4)
  else if off < 0x263008 then byteOf x.chDone (off % 4)
  else 0

/-- A byte of a context's registers written through the window; read-only regions and M0 keep their values, and bits
[63:40] of an accumulator element are ignored (R52). -/
def winCtxSet (x : Ctx) (off : Nat) (b : Byte) : Ctx :=
  if off < 0x200000 then x
  else if off < 0x220000 then
    let e := (off - 0x200000) / 4
    { x with v := SMap.set 0 x.v e (setByte (x.v.get 0 e) (off % 4) b) }
  else if off < 0x220400 then
    let n := (off - 0x220000) / 128
    x.setMask n (setByte (x.mask n) (off % 128) b)
  else if off < 0x240000 then x
  else if off < 0x260000 then
    let e := (off - 0x240000) / 8
    if off % 8 < 5 then { x with acc := SMap.set 0 x.acc e (setByte (x.acc.get 0 e) (off % 8) b) } else x
  else if off < 0x261000 then x
  else if off < 0x261100 then
    let n := (off - 0x261000) / 4
    { x with f := x.f.put n (setByte (x.flag n) (off % 4) b) }
  else x

/-- Where a context's state stands at a core (R149): 0 live, 1 and 2 the shadow stores; none while it streams or is saved. -/
def Core.whereCtx (k : Core) (ctx : Nat) : Option Nat :=
  if k.active ∧ k.live.id = ctx then some 0
  else if k.sh0.st = .resident ∧ k.sh0.ctx.id = ctx then some 1
  else if k.sh1.st = .resident ∧ k.sh1.ctx.id = ctx then some 2
  else none
/-- The context state at one of those places. -/
def Core.ctxAt (k : Core) : Nat → Ctx
  | 0 => k.live
  | 1 => k.sh0.ctx
  | _ => k.sh1.ctx
/-- The core with the context state at one of those places replaced. -/
def Core.setCtxAt (k : Core) (w : Nat) (x : Ctx) : Core :=
  match w with
  | 0 => { k with live := x }
  | 1 => { k with sh0 := { k.sh0 with ctx := x } }
  | _ => { k with sh1 := { k.sh1 with ctx := x } }

/-- A place further on by n bytes. -/
def Place.add : Place → Nat → Place
  | .win c x o, n => .win c x (o + n)
  | .tier2 a, n => .tier2 (a + n)
  | .host a, n => .host (a + n)
  | .tier1 st h o, n => .tier1 st h (o + n)

/-- The byte at a place. -/
def State.byte (s : State) : Place → Byte
  | .win c x off =>
    let k := s.core c
    winByte k (match k.whereCtx x with | some w => k.ctxAt w | none => {}) off
  | .tier2 a => SMap.get 0 s.tier2 a
  | .host a => SMap.get 0 s.host a
  | .tier1 st h o => SMap.get 0 (s.tier1.get [] (st * 2 ^ 32 + h)) o

/-- The state with the byte at a place written. -/
def State.setByteAt (s : State) (p : Place) (b : Byte) : State :=
  match p with
  | .win c x off =>
    let k := s.core c
    if off < 0x200000 then s.setCore c { k with scratch := SMap.set 0 k.scratch off b }
    else match k.whereCtx x with
      | some w => s.setCore c (k.setCtxAt w (winCtxSet (k.ctxAt w) off b))
      | none => s
  | .tier2 a => { s with tier2 := SMap.set 0 s.tier2 a b }
  | .host a => { s with host := SMap.set 0 s.host a b }
  | .tier1 st h o =>
    let key := st * 2 ^ 32 + h
    { s with tier1 := s.tier1.put key (SMap.set 0 (s.tier1.get [] key) o b) }

/-- n bytes from a place on. -/
def State.bytes (s : State) (p : Place) (n : Nat) : List Byte := (List.range n).map fun i => s.byte (p.add i)

/-! ## Errors (R64) -/

/-- The protected unit a byte belongs to: its first byte and its size (scratchpad words, elements, paged words). -/
def Place.unit : Place → Place × Nat
  | .win c x off =>
    let n := if off < 0x200000 then 8 else if off < 0x240000 then 4 else if off < 0x260000 then 8 else 4
    (.win c x (off / n * n), n)
  | .tier2 a => (.tier2 (a / 8 * 8), 8)
  | .host a => (.host (a / 8 * 8), 8)
  | .tier1 st h o => (.tier1 st h (o / 8 * 8), 8)

/-- The address that a record gives for a place (R140, R278). -/
def Place.faultAddr : Place → Nat
  | .win c _ off => (0xF000000000000000 + c * 0x800000 + off) / 8 * 8
  | .tier2 a => a / 8 * 8
  | .host a => a / 8 * 8
  | .tier1 _ _ o => o / 8 * 8

/-- The sub-code of ECC at a place: scratchpad, registers, tier-1, tier-2, host (R140). -/
def Place.eccSub : Place → Nat
  | .win _ _ off => if off < 0x200000 then 0 else 1
  | .tier1 .. => 2
  | .tier2 _ => 3
  | .host _ => 4

/-- Whether the unit of a byte is uncorrectable. -/
def State.badUnit (s : State) : Place → Bool
  | .win c x off =>
    let k := s.core c
    let y := match k.whereCtx x with | some w => k.ctxAt w | none => {}
    if off < 0x200000 then k.badWords.contains (off / 8)
    else if off < 0x220000 then y.badV.contains ((off - 0x200000) / 4)
    else if off < 0x220400 then y.badM.contains ((off - 0x220000) / 4)
    else if off < 0x240000 then false
    else if off < 0x260000 then y.badA.contains ((off - 0x240000) / 8)
    else false
  | .tier2 a => s.badTier2.contains (a / 8)
  | .host a => s.badHost.contains (a / 8)
  | .tier1 st h o => s.badTier1.contains (st * 2 ^ 32 + h, o / 8)

/-- Whether a read of a byte meets an uncorrectable unit; on tier-1, tier-2 and host data the unit of the fault is the
64-byte burst (R64). -/
def State.badRead (s : State) (p : Place) : Bool :=
  match p with
  | .win .. => s.badUnit p
  | .tier2 a => (List.range 8).any fun i => s.badTier2.contains (a / 64 * 8 + i)
  | .host a => (List.range 8).any fun i => s.badHost.contains (a / 64 * 8 + i)
  | .tier1 st h o => (List.range 8).any fun i => s.badTier1.contains (st * 2 ^ 32 + h, o / 64 * 8 + i)

/-- The state with the unit of a byte good again: a full write has replaced it (R64). -/
def State.heal (s : State) (p : Place) : State :=
  match p with
  | .win c x off =>
    let k := s.core c
    if off < 0x200000 then s.setCore c { k with badWords := k.badWords.filter (· != off / 8), softWords := k.softWords.filter (· != off / 8) }
    else match k.whereCtx x with
      | none => s
      | some w =>
        let y := k.ctxAt w
        let y' := if off < 0x220000 then { y with badV := y.badV.filter (· != (off - 0x200000) / 4) }
          else if off < 0x240000 then { y with badM := y.badM.filter (· != (off - 0x220000) / 4) }
          else { y with badA := y.badA.filter (· != (off - 0x240000) / 8) }
        s.setCore c (k.setCtxAt w y')
  | .tier2 a => { s with badTier2 := s.badTier2.filter (· != a / 8) }
  | .host a => { s with badHost := s.badHost.filter (· != a / 8) }
  | .tier1 st h o => { s with badTier1 := s.badTier1.filter (· != (st * 2 ^ 32 + h, o / 8)) }

/-- Whether a set of writes covers the whole unit of a byte. -/
def coversUnit (l : List (Place × Byte)) (p : Place) : Bool :=
  let (u, n) := p.unit
  (List.range n).all fun i => l.any fun w => decide (w.1 = u.add i)

/-- The first write of a set that must read an uncorrectable unit because the set covers it only in part (R64). -/
def State.partialBad (s : State) (l : List (Place × Byte)) : Option Place :=
  (l.find? fun w => s.badUnit w.1 && !coversUnit l w.1).map (·.1)

/-- Whether the scratchpad word of a byte has a correctable error that nothing has met (R64). -/
def State.softUnit (s : State) : Place → Bool
  | .win c _ off => decide (off < 0x200000) && (s.core c).softWords.contains (off / 8)
  | _ => false

/-- Places that a read meets: a correctable error of a scratchpad word is corrected, written back and counted (R64). -/
def State.meet (s : State) (l : List Place) : State :=
  (l.filter s.softUnit).foldl (fun s p => match p with | .win c _ off => s.correctPad c [off / 8] | _ => s) s

/-- A set of writes performed in order; units it covers wholly are good again, and a word that it covers in part is read first, so
that its correctable error is met (R64). -/
def State.writeSet (s : State) (l : List (Place × Byte)) : State :=
  let s' := l.foldl (fun s w => s.setByteAt w.1 w.2) s
  let s' := (l.filter fun w => s.badUnit w.1 && coversUnit l w.1).foldl (fun s w => s.heal w.1) s'
  (l.filter fun w => s.softUnit w.1).foldl (fun s w => if coversUnit l w.1 then s.heal w.1 else s.meet [w.1]) s'

/-- The places and bytes of a run of bytes. -/
def placeRun (p : Place) (bs : List Byte) : List (Place × Byte) := (List.range bs.length).zipWith (fun i b => (p.add i, b)) bs

/-- A run of bytes written at a place. -/
def State.store (s : State) (p : Place) (bs : List Byte) : State := s.writeSet (placeRun p bs)

/-! ## Flag increments (R170, R226) -/

/-- A context state with F[n] rewritten and the writer noted (R155). -/
def Ctx.putFlag (x : Ctx) (n : Nat) (v : W32) (byAgent : Nat) : Ctx :=
  { x with f := x.f.put n v, flagBy := x.flagBy.put n (byAgent + 1) }

/-- The key of the save area of a lesson's context on a core (R144), and whether a key is one of a context on a core. R32 provides one
area per context and seat, and does not say what two pre-empted lessons of one context on one seat do: each lesson has its own here
(DESIGN CHOICE, log 86). -/
def saveKey (core ctx num : Nat) : Nat := (core * 65536 + ctx) * 2 ^ 32 + num
def keyOf (core ctx key : Nat) : Bool := key / 2 ^ 32 == core * 65536 + ctx

/-- The contexts of a core that stand frozen: in its stores and in save areas (R143 to R145). -/
def State.frozenCtx (s : State) (core : Nat) : List Ctx :=
  let k := s.core core
  (if k.sh0.st != .empty then [k.sh0.ctx] else []) ++ (if k.sh1.st != .empty then [k.sh1.ctx] else [])
    ++ ((s.saves.filter fun e => e.1 / 2 ^ 48 == core).map fun e => e.2.ctx)
/-- Every context state that stands somewhere, saved ones too, with its core. -/
def State.everyCtx (s : State) : List (Nat × Ctx) :=
  (s.cores.flatMap fun e =>
    (if e.2.active then [(e.1, e.2.live)] else []) ++ (if e.2.sh0.st != .empty then [(e.1, e.2.sh0.ctx)] else [])
      ++ (if e.2.sh1.st != .empty then [(e.1, e.2.sh1.ctx)] else [])) ++ (s.saves.map fun e => (e.1 / 2 ^ 48, e.2.ctx))

/-- Change every context state of a core, wherever it is: live, in a store or saved. -/
def State.modAll (s : State) (core : Nat) (f : Ctx → Ctx) : State :=
  let k := s.core core
  let t := s.setCore core
    { k with live := f k.live, sh0 := { k.sh0 with ctx := f k.sh0.ctx }, sh1 := { k.sh1 with ctx := f k.sh1.ctx } }
  { t with saves := t.saves.map fun e => if e.1 / 2 ^ 48 == core then (e.1, { e.2 with ctx := f e.2.ctx }) else e }

/-- Change F[n] of a core, as a context sees it, wherever the context is: live, in a store in any state, or saved (R149,
R170). -/
def State.modFlag (s : State) (core ctx n : Nat) (f : W32 → W32) (byAgent : Nat) : State :=
  let k := s.core core
  let upd (x : Ctx) : Ctx := x.putFlag n (f (x.flag n)) byAgent
  if k.active ∧ k.live.id = ctx then s.setCore core { k with live := upd k.live }
  else if k.sh0.st ≠ .empty ∧ k.sh0.ctx.id = ctx then s.setCore core { k with sh0 := { k.sh0 with ctx := upd k.sh0.ctx } }
  else if k.sh1.st ≠ .empty ∧ k.sh1.ctx.id = ctx then s.setCore core { k with sh1 := { k.sh1 with ctx := upd k.sh1.ctx } }
  else
    match s.saves.find? fun e => keyOf core ctx e.1 with
    | none => s
    | some sv => { s with saves := s.saves.put sv.1 { sv.2 with ctx := upd sv.2.ctx } }

/-- Add to F[n] of a core, as a context sees it, and note who did (R155, R170). -/
def State.addFlag (s : State) (core ctx n : Nat) (v : W32) (byAgent : Nat) : State :=
  s.modFlag core ctx n (· + v) byAgent

/-- Note the writer of a flag that a scalar store has reached (R155). -/
def State.noteFlag (s : State) (p : Place) (byAgent : Nat) : State :=
  match p with
  | .win core ctx off => if 0x261000 ≤ off ∧ off < 0x261100 then s.modFlag core ctx ((off - 0x261000) / 4) id byAgent else s
  | _ => s

/-! ## The context of a seat, wherever it is -/

/-- The context state of a lesson on a core, wherever it is. -/
def State.seatCtx (s : State) (core ctx num : Nat) : Option Ctx :=
  let k := s.core core
  let is (x : Ctx) : Bool := decide (x.id = ctx ∧ x.lesson = num)
  if k.active && is k.live then some k.live
  else if k.sh0.st != .empty && is k.sh0.ctx then some k.sh0.ctx
  else if k.sh1.st != .empty && is k.sh1.ctx then some k.sh1.ctx
  else match s.saves.find? (·.1 = saveKey core ctx num) with
    | some e => if is e.2.ctx then some e.2.ctx else none
    | none => none

/-- The state with it rewritten. -/
def State.modSeat (s : State) (core ctx num : Nat) (f : Ctx → Ctx) : State :=
  let k := s.core core
  let is (x : Ctx) : Bool := decide (x.id = ctx ∧ x.lesson = num)
  if k.active && is k.live then s.setCore core { k with live := f k.live }
  else if k.sh0.st != .empty && is k.sh0.ctx then s.setCore core { k with sh0 := { k.sh0 with ctx := f k.sh0.ctx } }
  else if k.sh1.st != .empty && is k.sh1.ctx then s.setCore core { k with sh1 := { k.sh1 with ctx := f k.sh1.ctx } }
  else match s.saves.find? (·.1 = saveKey core ctx num) with
    | some e => if is e.2.ctx then { s with saves := s.saves.put e.1 { e.2 with ctx := f e.2.ctx } } else s
    | none => s

/-- A cause left pending on a seat: one record for each cause and address. -/
def State.pendSeat (s : State) (core ctx num : Nat) (p : Pend) : State :=
  s.modSeat core ctx num fun x =>
    if x.pend.any fun q => q.cause == p.cause && q.addr == p.addr && q.agent == p.agent then x
    else { x with pend := x.pend ++ [{ p with clk := s.cycle }] }

/-! ## Lessons: release and end (R26, R38) -/

/-- A slot of a core (R27). -/
def Core.slot (k : Core) (n : Nat) : Option SlotHold := if n = 0 then k.slot0 else k.slot1
def Core.setSlot (k : Core) (n : Nat) (h : Option SlotHold) : Core :=
  if n = 0 then { k with slot0 := h } else { k with slot1 := h }

/-- Whether a context state belongs to a lesson. -/
def Ctx.isOf (x : Ctx) (ctx num : Nat) : Bool := decide (x.id = ctx ∧ x.lesson = num)

/-- The core with every trace of a lesson's context gone, its stop at a BRK too (R123). -/
def Core.dropLesson (k : Core) (ctx num : Nat) : Core :=
  let k := if k.sh0.st ≠ .empty ∧ k.sh0.ctx.isOf ctx num then { k with sh0 := {} } else k
  let k := if k.sh1.st ≠ .empty ∧ k.sh1.ctx.isOf ctx num then { k with sh1 := {} } else k
  if k.active ∧ k.live.isOf ctx num then { k with active := false, live := {}, brkStop := false } else k

/-- The lesson of a context and number. -/
def State.lesson (s : State) (ctx num : Nat) : Option Lesson := s.lessons.find? fun l => decide (l.ctx = ctx ∧ l.num = num)

/-- The state with a lesson rewritten. -/
def State.modLesson (s : State) (ctx num : Nat) (f : Lesson → Lesson) : State :=
  { s with lessons := s.lessons.map fun l => if l.ctx = ctx ∧ l.num = num then f l else l }

/-- LEASE and PRI of a lesson's record (R22). -/
def Lesson.lease (l : Lesson) : Nat := (l.rcd.extractLsb' 42 4).toNat
def Lesson.pri (l : Lesson) : Nat := (l.rcd.extractLsb' 46 2).toNat

/-- The leases that a context's slots hold on a core together (R330). -/
def Core.leaseOf (k : Core) (ctx : Nat) : Nat :=
  let f := fun h : Option SlotHold => match h with | some h => if h.ctx = ctx then h.lease else 0 | none => 0
  f k.slot0 ||| f k.slot1
/-- Whether a context holds a slot of a core. -/
def Core.holdsSlot (k : Core) (ctx : Nat) : Bool :=
  (match k.slot0 with | some h => decide (h.ctx = ctx) | none => false)
  || (match k.slot1 with | some h => decide (h.ctx = ctx) | none => false)

/-- The bank groups that a context state leases on a core: its lesson's, pre-empted or not (R147). -/
def State.ctxLease (s : State) (core : Nat) (x : Ctx) : Nat :=
  match s.lesson x.id x.lesson with | some l => l.lease | none => (s.core core).leaseOf x.id

/-! ## Save areas and bank groups (R144, R147) -/

/-- The context states that stand at a core: active, in a store, saved. -/
def State.ctxsOn (s : State) (core : Nat) : List Ctx :=
  let k := s.core core
  (if k.active then [k.live] else []) ++ (if k.sh0.st ≠ .empty then [k.sh0.ctx] else []) ++ (if k.sh1.st ≠ .empty then [k.sh1.ctx] else [])
    ++ (s.saves.filter fun e => e.1 / 2 ^ 48 == core).map fun e => e.2.ctx

/-- Whether the save area of a context keeps its bank group g of a core. -/
def State.bankKept (s : State) (core : Nat) (x : Ctx) (g : Nat) : Bool :=
  s.bankSaves.any fun e => e.1 == saveKey core x.id x.lesson * 4 + g

/-- The contexts at a core but one whose bytes stand in its bank group g: they lease it, and no save area keeps it (R147). -/
def State.bankOwners (s : State) (core : Nat) (x : Ctx) (g : Nat) : List Ctx :=
  (s.ctxsOn core).filter fun y => !(y.id == x.id && y.lesson == x.lesson) && (s.ctxLease core y).testBit g && !s.bankKept core y g

/-- Bank group g of a core kept in the save area of a context. Data carries no poison mark, so the bytes of an uncorrectable word go out
as free values and are reported by nobody (R64; DESIGN CHOICE, log 90). -/
def State.bankOut (s : State) (core : Nat) (x : Ctx) (g : Nat) : State :=
  let base := g * 0x80000
  let s := s.correctPad core ((s.core core).softWords.filter fun w => 8 * w / 0x80000 == g)
  let mine := (SMap.between (s.core core).scratch base (base + 0x80000)).map fun c => (c.1 - base, c.2)
  let bad := (s.core core).badWords.filter fun w => 8 * w / 0x80000 == g
  let mine := bad.foldl (fun m w => SMap.fill 0 m (8 * w - base) 8 fun i => Config.freeLost s.freeCtr (8 * w + i)) mine
  { s with
    bankSaves := s.bankSaves.put (saveKey core x.id x.lesson * 4 + g) mine
    freeCtr := if bad = [] then s.freeCtr else s.freeCtr + 1 }

/-- The groups of a context that its save area keeps, back in the scratchpad, every word of them good again (R64, R147). -/
def State.bankIn (s : State) (core : Nat) (x : Ctx) : State :=
  (List.range 4).foldl (fun s g =>
    let key := saveKey core x.id x.lesson * 4 + g
    match s.bankSaves.find? (·.1 = key) with
    | none => s
    | some e =>
      let k := s.core core
      let base := g * 0x80000
      let pad := (k.scratch.filter fun c => decide (c.1 < base)) ++ ((SMap.between e.2 0 0x80000).map fun c => (c.1 + base, c.2)) ++
        (k.scratch.filter fun c => decide (base + 0x80000 ≤ c.1))
      let left (w : Nat) : Bool := 8 * w / 0x80000 != g
      { s.setCore core { k with scratch := pad, badWords := k.badWords.filter left, softWords := k.softWords.filter left } with bankSaves := s.bankSaves.erase key }) s

/-- The bank groups streamed when a context becomes active: those it leases go to the save area of each context whose bytes
stand in them, and its own come from its own (R147). -/
def State.swapBanks (s : State) (core : Nat) (inn : Ctx) : State :=
  (((List.range 4).filter (s.ctxLease core inn).testBit).foldl
    (fun s g => (s.bankOwners core inn g).foldl (fun s y => s.bankOut core y g) s) s).bankIn core inn

/-! ## Wait logs (R155) -/

/-- The number of a wait kind in records, 0 for waits that have none (R140). -/
def WaitKind.code : WaitKind → Nat
  | .token => 1
  | .flag => 2
  | .ticket => 3
  | .resultFifo => 4
  | .tlbPin => 5
  | .tlbinv => 5
  | .pendingFetch => 6
  | .chimney => 7
  | .collective => 8
  | _ => 0
/-- The waits for which R140 gives no kind, numbered for the free code of their wait logs. -/
def WaitKind.rank : WaitKind → Nat
  | .queueRoom => 1
  | .remoteLoad => 2
  | .storeRoom => 3
  | .fence => 4
  | .shadow => 5
  | .heldGroup => 6
  | .gate => 7
  | .chimneyOps => 8
  | .handed => 9
  | .mark => 10
  | _ => 0

/-- The address by which a ticket is known, whichever window form names it. -/
def ticketKey (c a : Nat) : Nat := if 2 ^ 63 ≤ a ∧ a < 2 ^ 63 + 0x800000 then 0xF000000000000000 + c * 0x800000 + (a - 2 ^ 63) else a

/-- The core and agent that ended a wait (R155): core * 8 + agent. -/
def State.satisfier (s : State) (c agent : Nat) (w : Wait) : Nat :=
  let x := s.live c
  match w.kind with
  | .token => c * 8 + w.obj / 4
  | .flag => x.flagBy.get 1 (w.obj % 0x1000 / 4) - 1
  | .ticket => s.ticketBy.get 1 (ticketKey c w.obj) - 1
  | .resultFifo => if agent = 0 then c * 8 + 3 + w.obj else c * 8
  | .collective => c * 8 + 5
  | .chimney => c * 8 + x.chimBy
  | .chimneyOps => c * 8 + 6
  | .pendingFetch => c * 8 + 1
  | .tlbPin => c * 8 + x.pinBy
  | .tlbinv => c * 8 + x.pinBy
  | .queueRoom => c * 8 + w.obj
  | .mark => c * 8 + w.obj
  | .heldGroup => if agent ≠ 0 then c * 8 + x.touchBy else if w.obj < 2048 then w.obj * 8 else if w.obj < 0xF000000000000000 then c * 8 + 4
    else (w.obj - 0xF000000000000000) / 0x800000 * 8 + 4
  | _ => c * 8

/-- A wait that ends: a wait-log record if it lasted longer than the headland's threshold (R155). -/
def State.logWait (s : State) (c : Nat) (agent : Nat) (w : Wait) : State :=
  let waited := s.cycle - w.since
  let th := (s.head (hlOf c)).waitThreshold
  if th = 0 ∨ waited ≤ th then s
  else
    let sat := s.satisfier c agent w
    let code := if w.kind.code = 0 then (Config.eventCode 0x04 w.kind.rank).toNat else w.kind.code
    s.trace (hlOf c)
      { time := s.time, kind := 0x04, agent := agent, core := c, ctx := (s.live c).id, code := code, value := w.obj,
        word3 := min waited (2 ^ 32 - 1) * 2 ^ 32 + sat / 8 % 2048 * 2 ^ 18 + sat % 8 * 2 ^ 15 }

/-- A wait-log record for the wait of the control core, where it waits (R155). -/
def State.logCC (s : State) (c : Nat) : State := match (s.live c).wait with | none => s | some w => s.logWait c 0 w

/-! ## Which context a core runs (R31, R32, R146) -/

/-- Whether a slot of a core holds a lesson. -/
def Core.holdsLesson (k : Core) (ctx num : Nat) : Bool :=
  let is (h : Option SlotHold) : Bool := match h with | some h => decide (h.ctx = ctx ∧ h.num = num) | none => false
  is k.slot0 || is k.slot1

/-- The store that holds a context RESIDENT. -/
def Core.storeOf (k : Core) (ctx num : Nat) : Option Nat :=
  if k.sh0.st = .resident ∧ k.sh0.ctx.isOf ctx num then some 0
  else if k.sh1.st = .resident ∧ k.sh1.ctx.isOf ctx num then some 1
  else none
/-- A store and the core with a store replaced. -/
def Core.store (k : Core) (n : Nat) : Shadow := if n = 0 then k.sh0 else k.sh1
def Core.setStore (k : Core) (n : Nat) (sh : Shadow) : Core := if n = 0 then { k with sh0 := sh } else { k with sh1 := sh }

/-- The lesson whose context is to be a seat's active one (R31): that of higher priority; among equals the active one, or one
that is RESIDENT. -/
def Core.wanted (k : Core) : Option SlotHold :=
  match k.slot0, k.slot1 with
  | none, o => o
  | o, none => o
  | some a, some b =>
    if a.pri < b.pri then some b
    else if b.pri < a.pri then some a
    else if k.active ∧ k.live.isOf b.ctx b.num then some b
    else if k.active ∧ k.live.isOf a.ctx a.num then some a
    else if (k.storeOf a.ctx a.num).isNone ∧ (k.storeOf b.ctx b.num).isSome then some b
    else some a

/-- Whether the context of a lesson stands in a store, in whatever state. -/
def Core.inStores (k : Core) (ctx num : Nat) : Bool :=
  (k.sh0.st != .empty && k.sh0.ctx.isOf ctx num) || (k.sh1.st != .empty && k.sh1.ctx.isOf ctx num)

/-- The store that a context may stream into: the one that an evicted RESIDENT context is leaving, once it is EMPTY, else one
that is EMPTY (R146). -/
def Core.freeStore (k : Core) : Option Nat :=
  match k.inStore with
  | some n => if (k.store n).st = .empty then some n
    else if (k.store n).st = .streamOut then none
    else if (k.store (1 - n)).st = .empty then some (1 - n) else none
  | none => if k.sh0.st = .empty then some 0 else if k.sh1.st = .empty then some 1 else none

/-- A context that starts to stream from its save area into a store (R146); nothing when no store is free for it, or it is
not saved. -/
def State.streamIn (s : State) (core ctx num : Nat) : State :=
  let k := s.core core
  match s.saves.find? (·.1 = saveKey core ctx num), k.freeStore with
  | some e, some n =>
    if k.inStores ctx num then s
    else s.setCore core { k.setStore n ⟨.streamIn, e.2.ctx⟩ with inStore := none }
  | _, _ => s

/-- A context with PREEMPT pending, naming a store, in place of any earlier PREEMPT. -/
def Ctx.setPreempt (x : Ctx) (n : Option Nat) (clk : Nat) : Ctx :=
  let rest := x.pend.filter fun p => p.cause != 0x12
  { x with pend := match n with | none => rest | some n => rest ++ [{ cause := 0x12, addr := n, clk := clk }] }

/-- A wait of an instruction given up without effect: its pops are undone (R108, R137). -/
def Ctx.abandon (x : Ctx) : Ctx :=
  { (if x.ccPop = 0 then x else x.backTokens (popFifos .cc x.ccPop)) with wait := none, ccPop := 0, latch := none, waitEntry := none, invs := [] }

/-- The active context of a core moved to its save area with its bank groups, where no other context is to run (log 23): its wait is
given up and logged (R155), and a stop of the core at its BRK is no longer one at a BRK of the context that runs next (R123). -/
def State.saveLive (s : State) (core : Nat) : State :=
  let s := s.logCC core
  let x := (s.live core).abandon
  let s := ((List.range 4).filter fun g => (s.ctxLease core x).testBit g && !s.bankKept core x g).foldl (fun s g => s.bankOut core x g) s
  let s := s.setCore core { s.core core with active := false, live := {}, brkStop := false }
  { s with saves := s.saves.put (saveKey core x.id x.lesson) ⟨x⟩ }

/-- The context of a slot brought to a core that has none: from the store that holds it, else it streams into one first
(R32, R144, R146; log 18). The copy unit starts with the LD head after the switch (R13). R154 does not say whether a context that becomes
active without a CTXSW writes a record of KIND 0x05; here it writes none (DESIGN CHOICE, log 67). -/
def State.activate (s : State) (core : Nat) (h : SlotHold) : State :=
  let k := s.core core
  match k.storeOf h.ctx h.num with
  | some n =>
    let x := (k.store n).ctx
    (s.setCore core { k.setStore n {} with active := true, live := { x with stNext := false } }).swapBanks core x
  | none => s.streamIn core h.ctx h.num

/-- Whether the context of a slot has started, where it stands in a store. -/
def Core.startedIn (k : Core) (n : Nat) : Bool := !(k.store n).ctx.waitStart

/-- Whether a context state is that of a pre-empted lesson. -/
def State.evicted (s : State) (x : Ctx) : Bool := match s.lesson x.id x.lesson with | some l => l.st == .preempted | none => false

/-- The core with a pending TIMER that names a store which no longer holds the other slot's context dropped, to be raised again
once that context has streamed in (R146). -/
def Core.checkTimer (k : Core) : Core :=
  let stale (p : Pend) : Bool := p.cause == 0x11 && ((k.store p.addr).st != .resident || !k.holdsLesson (k.store p.addr).ctx.id (k.store p.addr).ctx.lesson)
  if k.live.pend.any stale then { k with timerDue := true, live := { k.live with pend := k.live.pend.filter fun p => !stale p } } else k

/-- The context of a core's other slot brought back into a store (R146). -/
def State.bringOther (s : State) (core : Nat) (h : SlotHold) : State :=
  let k := s.core core
  match (if k.slot0 = some h then k.slot1 else k.slot0) with
  | none => s
  | some o => if (k.storeOf o.ctx o.num).isSome then s else s.streamIn core o.ctx o.num

/-- What the registrar directs on a core after a change of its slots or stores (R32, R146): pre-empted contexts stream
out; the context to be active is brought into a store, and PREEMPT is raised for it, or, where the active one has not started and so
can take no trap, they change over at once (R31, log 18); else the other slot's context is brought back. -/
def State.arrange (s : State) (core : Nat) : State :=
  let k := s.core core
  let gone (sh : Shadow) : Bool := sh.st == .resident && s.evicted sh.ctx
  let out (sh : Shadow) : Shadow := if gone sh then { sh with st := .streamOut } else sh
  let k := { k with inStore := if gone k.sh0 then some 0 else if gone k.sh1 then some 1 else k.inStore
                    sh0 := out k.sh0, sh1 := out k.sh1, live := k.live.setPreempt none s.cycle }.checkTimer
  let s := s.setCore core k
  match k.wanted with
  | none => if k.active ∧ s.evicted k.live then s.saveLive core else s
  | some h =>
    if !k.active then s.activate core h
    else if k.live.isOf h.ctx h.num then s.bringOther core h
    else
      match k.storeOf h.ctx h.num with
      | some n =>
        let other := k.store (1 - n)
        if k.live.waitStart then ((s.saveLive core).activate core h).bringOther core h
        else if other.st = .resident then s.setCore core (k.setStore (1 - n) { other with st := .streamOut }).checkTimer
        else if (other.st = .empty ∨ other.st = .streamOut) ∧ k.startedIn n then
          s.setCore core { k with live := k.live.setPreempt (some n) s.cycle }
        else s
      | none =>
        let away (sh : Shadow) : Shadow := if sh.st = .resident then { sh with st := .streamOut } else sh
        (s.setCore core { k with sh0 := away k.sh0, sh1 := away k.sh1 }.checkTimer).streamIn core h.ctx h.num

/-- In-flight counts of objects changed by a command (R59), which gives them no width and no stall: they have no bound here (DESIGN
CHOICE, log 87). -/
def State.countObjs (s : State) (ctx : Nat) (l : List Nat) (up : Bool) : State :=
  if l.isEmpty then s
  else
    let c := s.context ctx
    s.setContext ctx { c with counts := l.foldl (fun m i => m.put i (if up then m.get 0 i + 1 else m.get 0 i - 1)) c.counts }

/-- A seat released: its slot is empty, a lesson's context on the core is gone with its commands and counts, its control core's wait ends
with its record (R155), and the core runs what is left (R38, R59). -/
def State.releaseSeat (s : State) (ctx num : Nat) (se : Seat) : State :=
  let s := if (s.core se.core).active && (s.live se.core).isOf ctx num then s.logCC se.core else s
  let s := match s.seatCtx se.core ctx num with
    | some x => s.countObjs ctx ((x.ld ++ x.st ++ x.vx ++ x.mx ++ x.lane).flatMap fun (q : Cmd) => q.objs) false
    | none => s
  let k := s.core se.core
  let holds := match k.slot se.slot with | some h => decide (h.ctx = ctx ∧ h.num = num) | none => false
  let k := if holds then k.setSlot se.slot none else k
  let s := s.setCore se.core (k.dropLesson ctx num)
  let key := saveKey se.core ctx num
  let s := { s with saves := s.saves.erase key, bankSaves := s.bankSaves.filter fun (b : Nat × Mem) => b.1 / 4 != key }
  s.arrange se.core

/-- A core whose gates are all open, every unit awake (R37, R300): what asked for a unit to wake is done. -/
def Core.openGates (k : Core) : Core :=
  { k with gated := [], waking := [], ops := k.ops.map fun (o : ChimOp) =>
      match o.instr with | .pgreqOn .. => { o with done := true } | _ => o }

/-- The end of a lesson with an outcome of R25: its records emit nothing more if it faulted, its seats are released, its
gates open, and a completion record is pushed (R25, R38, R269, R300). -/
def State.endLesson (s : State) (ctx num outcome reason : Nat) : State :=
  match s.lesson ctx num with
  | none => s
  | some l =>
    if l.st = .retired then s
    else
      let s := s.modLesson ctx num fun l => { l with st := .retired, seats := [] }
      let s := l.seats.foldl (fun s se =>
        let k := s.core se.core
        let s := s.setCore se.core { k.openGates with
          ops := k.openGates.ops.filter fun (o : ChimOp) => !decide (o.ctx = ctx ∧ o.lesson = num) }
        s.releaseSeat ctx num se) s
      let s := { s with recs := s.recs.map fun (r : Rec) =>
        if outcome = 3 ∧ r.ctx = ctx ∧ r.lesson = num then { r with walked := true, started := true } else r }
      s.complete ctx num outcome reason

/-! ## Traps (R134 to R141) -/

/-- Cause codes (R134). -/
def cFETCH : Nat := 0x01
def cPAGE : Nat := 0x02
def cACCESS : Nat := 0x03
def cALIGN : Nat := 0x04
def cOBJ : Nat := 0x05
def cBANK : Nat := 0x06
def cSELMISS : Nat := 0x07
def cMXPAR : Nat := 0x08
def cDOMAIN : Nat := 0x09
def cEXPIRED : Nat := 0x0A
def cECC : Nat := 0x0B
def cOVERLAY : Nat := 0x0C
def cWAITSTUCK : Nat := 0x0D
def cCOLLPAGE : Nat := 0x0E
def cTRAP : Nat := 0x0F
def cBRK : Nat := 0x10
def cTIMER : Nat := 0x11
def cPREEMPT : Nat := 0x12

/-- Whether a cause always goes to the supervisor (R134). -/
def Pend.toSup (p : Pend) : Bool :=
  [cPAGE, cECC, cCOLLPAGE, cTIMER, cPREEMPT].contains p.cause || (p.cause == cTRAP && decide (0x100 ≤ p.addr))

/-- TREC0 of a record (R140). -/
def Pend.trec0 (p : Pend) (stop : Bool) : W64 :=
  BitVec.ofNat 64 (p.cause % 256 * 2 ^ 56 + p.agent % 8 * 2 ^ 53 + (if stop then 2 ^ 52 else 0) + p.opc % 256 * 2 ^ 40
    + p.sub % 256 * 2 ^ 32 + p.gen % 2 ^ 32)

/-- Whether the queue head whose stop a record is still awaits R139 (STOP of TREC0). -/
def Ctx.stillStopped (x : Ctx) (p : Pend) : Bool :=
  match p.queue with
  | none => false
  | some a => (if p.lane then x.lane else (x.queue a).take 1).any fun c => c.stop.isSome && c.seq == p.seq

/-- The registers after a trap: the record, TVAL, TPC, STATUS and the pc (R136, R140). -/
def Ctx.enterTrap (x : Ctx) (p : Pend) (restart : W64) (entry : W64) : Ctx :=
  let prog := !p.toSup && x.sr snTVEC != 0 && !x.inh && !x.sup && !x.exited
  let x := x.abandon
  let x1 := (((x.setSr snTREC0 (p.trec0 (x.stillStopped p))).setSr (snTREC0 + 1) (BitVec.ofNat 64 p.seq)).setSr (snTREC0 + 2)
    (BitVec.ofNat 64 p.addr)).setSr (snTREC0 + 3) (BitVec.ofNat 64 p.detail)
  let x2 := ((x1.setSr snTCAUSE (BitVec.ofNat 64 p.cause)).setSr snTVAL (BitVec.ofNat 64 p.addr)).setSr snTPC restart
  let x3 := x2.setSr snSTATUS (statusOf (if prog then x.sup else true) x.sup x.svc x.te true)
  { x3 with
    pc := if prog then x.sr snTVEC else entry, parked := false, collHandler := decide (p.cause = cCOLLPAGE)
    passed := x.passed.filter fun b => match b with | .pc _ => false | .queue _ _ => true
    brkPassed := false }

/-- Whether a record is of a precise cause: one the control core raised itself (R134). -/
def Pend.precise (p : Pend) : Bool := p.agent == 0 && !([cCOLLPAGE, cTIMER, cPREEMPT].contains p.cause)

/-- Trap entry on a core (R136): a precise cause while INH and SUP are both set is a double fault, which halts the control
core, writes a black-box record and ends the lesson faulted; every other trap enters the handler or the supervisor. -/
def State.trap (s : State) (c : Nat) (p : Pend) (restart : W64) : State :=
  let x := s.live c
  let note (s : State) : State :=
    s.blackBox (hlOf c) { time := s.time, kind := 0x10, agent := p.agent, core := c, ctx := x.id, code := p.cause, value := p.addr }
  if p.precise && x.inh && x.sup then
    let s := s.setLive c { x.abandon with halted := true }
    let s := if p.cause = cECC then s.eccBox c p.agent x.id p.addr else s
    (note s).endLesson x.id x.lesson 3 p.cause
  else
    let s := s.setLive c (x.enterTrap p restart (BitVec.ofNat 64 Config.supervisorEntry))
    let s := s.trace (hlOf c)
      { time := s.time, kind := 0x02, agent := p.agent, core := c, ctx := x.id, code := p.cause, value := p.addr, word3 := p.seq }
    let s := if p.cause = cECC ∧ p.precise then s.eccBox c p.agent x.id p.addr else s
    if p.toSup then note s else s

/-- A return from a trap (R122): the pc and the status; INH clear is the caller's check. A seat that has exited fetches nothing
after it (R38). -/
def Ctx.eret (x : Ctx) : Ctx :=
  { x.setSr snSTATUS (statusOf x.psup x.psup x.svc x.te false) with pc := x.sr snTPC, collHandler := false, parked := x.exited }

/-! ## Control-core instructions (R42, R107, R108, R137) -/

/-- A word of a core's supervisor instruction store: that of the image its headland has loaded (R135, R316). -/
def State.svWord (s : State) (c i : Nat) : W64 := Config.supervisorWord (s.images.get 0 (hlOf c * 4 + 3)) i

/-- The opcode byte of the word at the pc, for the record of a precise trap (R140). -/
def State.opcAt (s : State) (c : Nat) : Nat :=
  let x := s.live c
  let w := x.latch.getD (if x.sup then s.svWord c x.pc.toNat else (x.word x.pc.toNat).w)
  bits w.toNat 47 40

/-- The control core waits: the clk it began is kept while it waits for the same thing, and while it waits for its tokens, or
for the counts of the entries that it has marked, whichever of them is the first (R45). -/
def State.waitOn (s : State) (c : Nat) (k : WaitKind) (obj : Nat) : State :=
  let x := s.live c
  match x.wait with
  | some w => if w.kind = k ∧ w.obj = obj then s
    else if w.kind = k ∧ (k = .token ∨ k = .tlbinv) then s.setLive c { x with wait := some ⟨k, obj, w.since⟩ }
    else (s.logWait c 0 w).setLive c { ((s.logWait c 0 w).live c) with wait := some ⟨k, obj, s.cycle⟩ }
  | none => s.setLive c { x with wait := some ⟨k, obj, s.cycle⟩ }

/-- A wait of the control core that is over, if it had one: its instruction completes. -/
def State.endWait (s : State) (c : Nat) : State :=
  (s.logCC c).setLive c { ((s.logCC c).live c) with wait := none, ccPop := 0, latch := none, waitEntry := none, invs := [] }

/-- Retirement of a control-core instruction (R42): its pushes are made and the pc goes on; while a named FIFO is full it is
held with its effect made. -/
def State.retireCC (s : State) (c : Nat) (push : BitVec 4) (pc : W64) : State :=
  let x := s.live c
  if x.hasRoom (pushFifos .cc push) then
    s.setLive c { x.pushTokens (pushFifos .cc push) with pc := pc, held := none }
  else s.setLive c { x with held := some (pc, push) }

/-- The first FIFO of a list without a token. -/
def Ctx.missing (x : Ctx) (l : List Nat) : Nat := (l.find? fun n => x.tokens.get 0 n = 0).getD 0

end Sys2Proof.Machine
end

