-- ==== Sys2Proof/Machine/Flags.lean ====
section
/-! DEFINITION. Every flag and condition the manual computes: the comparisons of the control core and of the vector engine,
and what each engine raises in FPSTICKY (R76, R77, R93, R109, R190). -/

namespace Sys2Proof.Machine

/-- The six comparisons of CMP and BR (R93, R109): EQ, NE, LT, GE signed, LTN, GEN unsigned. -/
def cond64 (c : Nat) (a b : W64) : Bool :=
  match c with
  | 0 => a == b
  | 1 => a != b
  | 2 => a.slt b
  | 3 => !a.slt b
  | 4 => a.ult b
  | _ => !a.ult b

/-- The condition of BR (R93, R113): Z and NZ test a alone. -/
def condBr (cc : BitVec 4) (a b : W64) : Bool :=
  match cc.toNat with
  | 6 => a == 0
  | 7 => a != 0
  | n => cond64 n a b

/-- The conditions of VCMP on F32 elements (R190): EQ, NE, LT, LE, GT, GE, UN, ORD. -/
def condF (c : Nat) (x y : Num) : Bool :=
  let un := x = .nan || y = .nan
  let lt (p q : Num) : Bool := p.lt q && !p.eqv q
  match c with
  | 0 => x.eqv y
  | 1 => !x.eqv y
  | 2 => !un && lt x y
  | 3 => !un && (lt x y || x.eqv y)
  | 4 => !un && lt y x
  | 5 => !un && (lt y x || x.eqv y)
  | 6 => un
  | _ => !un

/-- The conditions of VCMP on integer elements (R190). -/
def condI (c : Nat) (x y : Int) : Bool :=
  match c with
  | 0 => x == y
  | 1 => x != y
  | 2 => decide (x < y)
  | 3 => decide (x ≤ y)
  | 4 => decide (y < x)
  | 5 => decide (y ≤ x)
  | _ => false

/-- What a matrix command raises: INVALID and OVERFLOW only (R77). -/
def matrixFlags (fl : Flags) : Flags := fl &&& (fInvalid ||| fOverflow)

end Sys2Proof.Machine
end

