-- ==== Sys2Proof/Machine/Memory.lean ====
section
/-! DEFINITION. Addresses: the address split, page tables and the TLB, windows, scopes, leases and holds, and the checks of
a scalar access in their order (R46 to R57, R117, R227, R330). -/

namespace Sys2Proof.Machine

/-! ## Scopes and classes -/

/-- The cores of the class of a lesson (R27). -/
def State.classCores (s : State) (ctx num : Nat) : List Nat :=
  match s.lesson ctx num with
  | some l => l.seats.map (·.core)
  | none => []

/-- Entry 31: whether a context has a seat on a core, active, resident, saved or on its way (R227). -/
def State.inEntry31 (s : State) (ctx core : Nat) : Bool :=
  (s.core core).holdsSlot ctx || (s.ctxsOn core).any fun y => y.id == ctx

/-! ## Paging (R47, R48) -/

/-- Bytes installed at a site or port (R16, R48), 512 GB where nothing else is said, in powers of 1000 (R3): log 7. -/
def State.installed (s : State) (site : Nat) : Nat :=
  if (if s.skuC then 8 else 16) ≤ site then 0 else s.t2cap.get 512000000000 site

/-- Whether a physical page lies beyond the memory installed, or at a site that is off (R48, R319). -/
def State.pageMissing (s : State) (tgt pa : Nat) : Bool :=
  tgt = 0 && (decide (s.installed (bits pa 43 40) ≤ bits pa 39 0) || s.t2off.contains (bits pa 43 40) || decide (2 ^ 44 ≤ pa))

/-- The place of a physical address under a target (R47). -/
def physPlace (tgt pa : Nat) : Place := if tgt = 0 then .tier2 pa else .host pa

/-- What a walk meets: a page, PAGE, or a table word that is uncorrectable (R64). -/
inductive WalkResult where
  | page (e : TlbEntry)
  | fault
  | ecc (p : Place)
deriving DecidableEq, Repr

/-- The TLB entry of a leaf: the page of va of that size, with the rights its entry gives (R47). -/
def pageOfPte (ctx va p size : Nat) : TlbEntry :=
  { id := 0
    ctx := ctx
    va := va / size * size
    size := size
    tgt := bits p 62 61
    pa := bits p 51 12 * 4096
    usr := decide (bits p 4 4 = 1)
    x := decide (bits p 3 3 = 1)
    w := decide (bits p 2 2 = 1)
    r := decide (bits p 1 1 = 1)
    shr := bits p 11 10
    count := 0
    dying := false }

/-- What one level of the walk meets (R47, R48, R64): PAGE, an uncorrectable word, a page, or the next table. -/
inductive PteResult where
  | fault
  | ecc (p : Place)
  | page (e : TlbEntry)
  | table (tgt pa : Nat)
deriving DecidableEq, Repr

/-- One level of the walk; n is the level, 3 outermost (R47, R48). -/
def State.pte (s : State) (ctx va tgt table n : Nat) : PteResult :=
  let at_ := physPlace tgt (table + 8 * bits va (12 + 9 * n + 8) (12 + 9 * n))
  let p := leNat (s.bytes at_ 8)
  let pa := bits p 51 12 * 4096
  let size := 2 ^ (12 + 9 * n)
  if s.badRead at_ then .ecc at_
  else if bits p 0 0 = 0 ∨ bits p 63 63 ≠ 0 ∨ bits p 60 52 ≠ 0 ∨ bits p 9 6 ≠ 0 ∨ 2 ≤ bits p 62 61 then .fault
  else if bits p 5 5 = 1 then
    if n = 3 ∨ pa % size ≠ 0 ∨ s.pageMissing (bits p 62 61) pa then .fault else .page (pageOfPte ctx va p size)
  else if n = 0 ∨ s.pageMissing (bits p 62 61) pa then .fault
  else .table (bits p 62 61) pa

/-- The walk from a table of level n (R47). -/
def State.walkFrom (s : State) (ctx va tgt table : Nat) : Nat → WalkResult
  | 0 => match s.pte ctx va tgt table 0 with
    | .page e => .page e
    | .ecc p => .ecc p
    | _ => .fault
  | n + 1 => match s.pte ctx va tgt table (n + 1) with
    | .page e => .page e
    | .table t p => s.walkFrom ctx va t p n
    | .ecc p => .ecc p
    | .fault => .fault

/-- The walk from a root register value (R47); the root table, too, is PAGE where its target is reserved, or it lies beyond the
memory installed or at a site that is off (R48, R319). -/
def State.walk (s : State) (ctx : Nat) (root : W64) (va : Nat) : WalkResult :=
  let tgt := bits root.toNat 62 61
  let pa := bits root.toNat 51 12 * 4096
  if 2 ≤ tgt ∨ s.pageMissing tgt pa then .fault else s.walkFrom ctx va tgt pa 3

/-- The place of a virtual address through the tables alone, with no check of rights. -/
def State.vaPlace (s : State) (ctx : Nat) (root : W64) (va : Nat) : Option Place :=
  match s.walk ctx root va with
  | .page e => some (physPlace e.tgt (e.pa + (va - e.va)))
  | _ => none

/-- The page base of the root register: PTBASE of a context state (R47). -/
def Ctx.root (x : Ctx) : W64 := x.sr snPTBASE

/-- A cause that a translation meets, with the address and sub-code of its record (R140). -/
structure TrBad where
  cause : Nat
  addr : Nat
  sub : Nat
deriving DecidableEq, Repr

/-- ECC of a place as a translation reports it (R64, R140). -/
def Place.trEcc (p : Place) : TrBad := ⟨cECC, p.faultAddr, p.eccSub⟩

/-- What a translation comes to: the context with its TLB and the entry used, a cause, or a stall on pinned entries. -/
inductive Tr where
  | ok (x : Ctx) (e : TlbEntry)
  | fault (b : TrBad)
  | stall

/-- The TLB entry that serves an address: of the context, not dying (R49, R50). -/
def Ctx.tlbFind (x : Ctx) (ctx va : Nat) : Option TlbEntry :=
  x.tlb.find? fun e => decide (e.ctx = ctx ∧ ¬ e.dying ∧ e.va ≤ va ∧ va < e.va + e.size)

/-- A new entry: the oldest entry with a count of zero makes room (log 17); none if all 64 are pinned (R49). -/
def Ctx.tlbAdd (x : Ctx) (e : TlbEntry) : Option Ctx :=
  let e := { e with id := x.tlbNext }
  if x.tlb.length < 64 then some { x with tlb := x.tlb ++ [e], tlbNext := x.tlbNext + 1 }
  else match x.tlb.find? (·.count = 0) with
    | none => none
    | some v => some { x with tlb := (x.tlb.filter (·.id ≠ v.id)) ++ [e], tlbNext := x.tlbNext + 1 }

/-- The page that serves an address, from the TLB or by a walk, and whether the TLB holds it; PAGE before ACCESS (R48, R49). -/
def State.lookup (s : State) (x : Ctx) (va : Nat) (write user : Bool) : Except TrBad (TlbEntry × Bool) :=
  let check (e : TlbEntry) (held : Bool) : Except TrBad (TlbEntry × Bool) :=
    if s.pageMissing e.tgt (e.pa + (va - e.va)) then .error ⟨cPAGE, va, 0⟩
    else if (write && !e.w) || (!write && !e.r) || (user && !e.usr) then .error ⟨cACCESS, va, 0⟩ else .ok (e, held)
  match x.tlbFind x.id va with
  | some e => check e true
  | none =>
    match s.walk x.id x.root va with
    | .fault => .error ⟨cPAGE, va, 0⟩
    | .ecc p => .error p.trEcc
    | .page e => check e false

/-- The target of an address, tier-2 or host memory, where its page can be found. -/
def State.targetOf (s : State) (x : Ctx) (va : Nat) : Option Nat :=
  match x.tlbFind x.id va with
  | some e => some e.tgt
  | none => match s.walk x.id x.root va with
    | .page e => some e.tgt
    | _ => none

/-- The address of the page that an access to an address waits for, where every TLB entry is pinned, or its entry has no count left
(R49, R140): the page of the address, of the size that its entry or the tables give it (DESIGN CHOICE where all 64 entries are pinned by
other pages, log 91). -/
def State.pageBase (s : State) (x : Ctx) (va : Nat) : Nat :=
  match x.tlbFind x.id va with
  | some e => e.va
  | none => match s.walk x.id x.root va with
    | .page e => e.va
    | _ => va

/-- Translation of a virtual address for an access: a page that the TLB lacks enters it, or stalls (R49). -/
def State.translate (s : State) (x : Ctx) (va : Nat) (write user : Bool) : Tr :=
  match s.lookup x va write user with
  | .error b => .fault b
  | .ok (e, true) => .ok x e
  | .ok (e, false) =>
    match x.tlbAdd e with
    | none => .stall
    | some x => .ok x { e with id := x.tlbNext - 1 }

/-! ## Windows -/

/-- The core and offset of an on-chip address, if it lies in one of the two ranges of R51. -/
def onChip (c a : Nat) : Option (Nat × Nat) :=
  if a < 2 ^ 63 then none
  else if a - 2 ^ 63 < 0x800000 then some (c, a - 2 ^ 63)
  else if a < 0xF000000000000000 then none
  else
    let id := (a - 0xF000000000000000) / 0x800000
    if coreId id then some (id, (a - 0xF000000000000000) % 0x800000) else none

/-- The region of an offset: sizes a scalar access may have, and whether it may be written (R52, R53); none outside. -/
inductive Region where
  | scratch | vec | mask | acc | greg | flags | tokens | chimney
deriving DecidableEq, Repr
def regionOf (off : Nat) : Option Region :=
  if off < 0x200000 then some .scratch
  else if off < 0x220000 then some .vec
  else if off < 0x220400 then some .mask
  else if off < 0x240000 then none
  else if off < 0x260000 then some .acc
  else if off < 0x260100 then some .greg
  else if off < 0x261000 then none
  else if off < 0x261100 then some .flags
  else if off < 0x262000 then none
  else if off < 0x262050 then some .tokens
  else if off < 0x263000 then none
  else if off < 0x263008 then some .chimney
  else none
/-- Sizes a scalar access may have (R53). R53 names none for G0 to G31, which only supervisor code may read: the model allows
the 8 bytes of a register (DESIGN CHOICE, log 71). -/
def regionSizes : Region → List Nat
  | .scratch => [1, 2, 4, 8]
  | .acc => [8]
  | .greg => [8]
  | .chimney => [8]
  | _ => [4]
/-- Whether a store to the region is performed: a read-only region ignores it (R4, R117), and so do G0 to G31, of which R52 gives
supervisor code a read (DESIGN CHOICE, log 71). -/
def regionWritable : Region → Bool
  | .tokens => false
  | .chimney => false
  | .greg => false
  | _ => true

/-! ## Scope table (R227) -/

/-- The place of a byte of the scope table, whose address SCOPEBASE gives, under R46: ACCESS for an address that R46 forbids or the
on-chip map lacks, ECC of a table word; none where no page maps it (log 43). -/
def State.scopePlace (s : State) (c : Nat) (x : Ctx) (va : Nat) : Except TrBad (Option Place) :=
  if 2 ^ 63 ≤ va then
    match onChip c va with
    | some (core, off) => if (regionOf off).isSome then .ok (some (.win core x.id off)) else .error ⟨cACCESS, va, 0⟩
    | none => .error ⟨cACCESS, va, 0⟩
  else if bits va 62 48 ≠ 0 then .error ⟨cACCESS, va, 0⟩
  else match s.walk x.id x.root va with
    | .page e => .ok (some (physPlace e.tgt (e.pa + (va - e.va))))
    | .ecc p => .error p.trEcc
    | .fault => .ok none
/-- The address of byte i of an entry of the scope table. -/
def Ctx.scopeAddr (x : Ctx) (entry i : Nat) : Nat := ((x.sr snSCOPEBASE).toNat + 256 * entry + i) % 2 ^ 64
/-- A byte of an entry 2 to 30, zero where no page maps it; ECC where a word that the read meets is uncorrectable (R64). -/
def State.scopeByte (s : State) (c : Nat) (x : Ctx) (entry i : Nat) : Except TrBad Byte :=
  match s.scopePlace c x (x.scopeAddr entry i) with
  | .error b => .error b
  | .ok none => .ok 0
  | .ok (some p) => if s.badRead p then .error p.trEcc else .ok (s.byte p)
/-- Bit of an entry 2 to 30 for a core, read from the table at SCOPEBASE on behalf of core c. -/
def State.scopeRead (s : State) (c : Nat) (x : Ctx) (entry core : Nat) : Except TrBad Bool :=
  match s.scopeByte c x entry (core / 8) with
  | .error b => .error b
  | .ok v => .ok (v.getLsbD (core % 8))
/-- That bit, no core where it cannot be read. -/
def State.scopeBit (s : State) (c : Nat) (x : Ctx) (entry core : Nat) : Bool :=
  match s.scopeRead c x entry core with | .ok b => b | .error _ => false
/-- An entry 2 to 30 as a bitmap of cores, or what its first byte that cannot be read meets. -/
def State.scopeMap (s : State) (c : Nat) (x : Ctx) (entry : Nat) : Except TrBad (BitVec 2048) :=
  match (List.range 256).mapM fun i => s.scopeByte c x entry i with
  | .error b => .error b
  | .ok bs => .ok (BitVec.ofNat 2048 (leNat bs))
/-- What an instruction reads of the entry that it names: nothing of the entries that the hardware computes (R227). -/
def State.entryAt (s : State) (c : Nat) (x : Ctx) (entry : Nat) : Except TrBad (BitVec 2048) :=
  if entry = 0 ∨ entry = 1 ∨ entry = 31 then .ok 0 else s.scopeMap c x entry

/-- Whether a scope entry contains a core, for the executing core c (R227). -/
def State.inScope (s : State) (c : Nat) (x : Ctx) (entry core : Nat) : Bool :=
  if entry = 0 then core = c
  else if entry = 1 then core = c || (s.classCores x.id x.lesson).contains core
  else if entry = 31 then s.inEntry31 x.id core
  else s.scopeBit c x entry core

/-- Whether a lesson may use the window of a core (R51): its own, one of its class, or one in entries 2 to 30. -/
def State.mayUse (s : State) (c : Nat) (x : Ctx) (core : Nat) : Bool :=
  core = c || (s.classCores x.id x.lesson).contains core || (List.range 29).any fun i => s.scopeBit c x (i + 2) core

/-- What the reads of the scope table meet, entry after entry up to the first that names the core: ACCESS or ECC (R46, R51, R64). -/
def State.mayUseEcc (s : State) (c : Nat) (x : Ctx) (core : Nat) : Option TrBad :=
  if core = c ∨ (s.classCores x.id x.lesson).contains core then none
  else (List.range 29).foldr (fun i r => match s.scopeRead c x (i + 2) core with
    | .ok true => none
    | .ok false => r
    | .error b => some b) none
/-- The ACCESS or ECC that a read of a scope entry meets (R46, R64). -/
def State.scopeEcc (s : State) (c : Nat) (x : Ctx) (entry core : Nat) : Option TrBad :=
  if entry = 0 ∨ entry = 1 ∨ entry = 31 then none else match s.scopeRead c x entry core with | .ok _ => none | .error b => some b

/-! ## Leases (R330, R147) -/

/-- Bank group of a scratchpad offset (R52). -/
def bankOf (off : Nat) : Nat := off / 0x80000

/-- Whether the accessor's leases on a core cover a scratchpad offset (R330). -/
def State.leased (s : State) (ctx core off : Nat) : Bool := ((s.core core).leaseOf ctx).testBit (bankOf off)

/-- Whether the group of an offset is overlapped by another context's lease on a core while that other context is the
active one: the access waits (R330, R147). -/
def State.overlapped (s : State) (ctx core off : Nat) : Bool :=
  let k := s.core core
  let other := fun h : Option SlotHold => match h with
    | some h => decide (h.ctx ≠ ctx) && h.lease.testBit (bankOf off)
    | none => false
  decide (k.active ∧ k.live.id ≠ ctx) && (other k.slot0 || other k.slot1)

/-! ## Holds (R57) -/

/-- Whether an instruction is a matrix command (R204). -/
def isMatrix : Instr → Bool
  | .pdir .. => true
  | .pload .. => true
  | .pstore .. => true
  | .pclr .. => true
  | .mxnest .. => true
  | .mxgo .. => true
  | .mxrun .. => true
  | .mxgrad .. => true
  | .mxres .. => true
  | .mxacl .. => true
  | .mxacr .. => true
  | .mxstat .. => true
  | _ => false

/-- Whether a command holds what it names: started, stopped at its head, or about to run again after QRES, and not a husk (R57,
R138). -/
def Cmd.holding (c : Cmd) : Bool := decide ((c.phase ≠ .queued ∨ c.popped) ∧ ¬ c.husk)
/-- Bank groups that started matrix commands hold. -/
def Ctx.heldGroups (x : Ctx) : List Nat := ((x.mx ++ x.lane).filter Cmd.holding).flatMap (·.groups)
/-- Accumulator tiles that started matrix commands hold. -/
def Ctx.heldTiles (x : Ctx) : List Nat := ((x.mx ++ x.lane).filter Cmd.holding).flatMap (·.tiles)

/-- Whether a bank group of a core is held: by the active context's commands, or by those frozen with a context in a store or a save
area whose bytes stand in it (R57, R145, R147). -/
def State.heldBank (s : State) (core g : Nat) : Bool :=
  (s.live core).heldGroups.contains g || (s.frozenCtx core).any fun x => x.heldGroups.contains g && !s.bankKept core x g
/-- Whether an offset of a core's window lies in a held group, or in a held tile of the active context. -/
def State.heldOff (s : State) (core off : Nat) : Bool :=
  if off < 0x200000 then s.heldBank core (bankOf off)
  else if 0x240000 ≤ off ∧ off < 0x260000 then (s.live core).heldTiles.contains ((off - 0x240000) / 0x8000)
  else false
/-- Whether an offset of a core's window lies in a group or tile that is held for an access of a context from outside the core (R53,
R57). A tile is that of the context. -/
def State.heldFor (s : State) (core ctx off : Nat) : Bool :=
  let k := s.core core
  if off < 0x200000 then s.heldBank core (bankOf off)
  else if 0x240000 ≤ off ∧ off < 0x260000 then
    match k.whereCtx ctx with
    | some w => (k.ctxAt w).heldTiles.contains ((off - 0x240000) / 0x8000)
    | none => false
  else false
/-- The mask of bank groups, bit n for BGn (R140). -/
def groupMask (l : List Nat) : Nat := l.foldl (fun m g => m ||| 2 ^ g) 0

/-- The power-gated unit an offset belongs to: BG0 to BG3, 4 VX, 5 MX (R300). -/
def unitOf (off : Nat) : Nat := if off < 0x200000 then bankOf off else if off < 0x240000 then 4 else if off < 0x260000 then 5 else 6
/-- Whether a core's unit is gated (R302). -/
def State.gated (s : State) (core unit : Nat) : Bool := (s.core core).gated.contains unit
/-- A gated unit that an access wakes (R302). -/
def State.wake (s : State) (core unit : Nat) : State :=
  let k := s.core core
  if k.gated.contains unit && !k.waking.contains unit then s.setCore core { k with waking := k.waking ++ [unit] } else s

/-! ## The store path (R118) -/

/-- Whether a place can be written now: a held group or tile of another core, and registers of a context that is not there, or the
scratchpad while it streams or is saved, make the access wait (R57, R149). -/
def State.blocked (s : State) (c : Nat) (p : Place) : Bool :=
  match p with
  | .win core ctx off => core != c && (s.heldFor core ctx off || s.overlapped ctx core off
      || ((s.core core).whereCtx ctx = none && (decide (0x200000 ≤ off) || s.inEntry31 ctx core)))
  | _ => false

/-- The gated unit of a place, if its unit is gated (R302). -/
def State.gateAt (s : State) (p : Place) : Option (Nat × Nat) :=
  match p with
  | .win core _ off => if s.gated core (unitOf off) then some (core, unitOf off) else none
  | _ => none

/-- Whether the stores of a core's path cannot all be performed now. -/
def State.pathBlocked (s : State) (c : Nat) : Bool := (s.live c).path.any fun w => s.blocked c w.place || (s.gateAt w.place).isSome

/-- The oldest store of a core's path performed at its target (R118). -/
def State.performStore (s : State) (c : Nat) : State :=
  let x := s.live c
  match x.path with
  | [] => s
  | w :: r => if s.blocked c w.place || (s.gateAt w.place).isSome then s else ((s.setLive c { x with path := r }).store w.place w.bytes).noteFlag w.place (c * 8)

/-- Every store of a core's path performed, oldest first. -/
def State.drain (s : State) (c : Nat) : State :=
  let x := s.live c
  if x.path = [] then s
  else x.path.foldl (fun s w => (s.store w.place w.bytes).noteFlag w.place (c * 8)) (s.setLive c { x with path := [] })

/-! ## Scalar accesses (R117) -/

/-- What the checks of a scalar access come to. -/
inductive Acc where
  | place (s : State) (p : Place) (own : Bool) (wr : Bool)
  | trap (cause addr : Nat) (sub : Nat)
  | wait (k : WaitKind) (obj : Nat)

/-- Whether the instruction at the pc waits for a place in a window that it has found itself allowed to use: it keeps what it read of
the scope table (R240). -/
def Ctx.passedScope (x : Ctx) : Bool :=
  x.waitEntry.isSome || (match x.wait with | some w => w.kind == .remoteLoad | none => false)

/-- The checks of an access by core c to n bytes at a, in the order of R117, but for the last, ECC; only the scratchpad of a window
when `spOnly` (R239), which also forbids host memory. A store to another core's held group or absent context enters the store path,
where it waits (R118). A wait for the TLB names the page (State.pageBase; log 91). -/
def State.reach (s : State) (c a n : Nat) (write spOnly : Bool) (align : Nat) : Acc :=
  let x := s.live c
  if a < 2 ^ 63 then
    if bits a 62 48 ≠ 0 ∨ (spOnly ∧ s.targetOf x a = some 1) then .trap cACCESS a 0
    else if a % align ≠ 0 then .trap cALIGN a 0
    else match s.translate x a write (!x.sup) with
      | .fault b => .trap b.cause b.addr b.sub
      | .stall => .wait .tlbPin (s.pageBase x a)
      | .ok x' e => .place (s.setLive c x') (physPlace e.tgt (e.pa + (a - e.va))) false true
  else match onChip c a with
    | none => .trap cACCESS a 0
    | some (core, off) =>
      match regionOf off with
      | none => .trap cACCESS a 0
      | some r =>
        match (if x.sup || x.passedScope then none else s.mayUseEcc c x core) with
        | some b => .trap b.cause b.addr b.sub
        | none =>
          if (!x.sup && (!(x.passedScope || s.mayUse c x core) || r = .greg || (r = .scratch && !s.leased x.id core off)))
              || (spOnly && r != .scratch) then .trap cACCESS a 0
          else if a % align ≠ 0 ∨ ¬ (regionSizes r).contains (if spOnly then 8 else n) then .trap cALIGN a 0
          else if s.heldOff core off ∧ core = c then .trap cBANK a (if off < 0x200000 then groupMask [bankOf off] else 0)
          else
            let p := Place.win core x.id off
            let path := write && !spOnly && core != c
            if !path && s.blocked c p then .wait .heldGroup a
            else if !path && s.gated core (unitOf off) then .wait .gate (core * 8 + unitOf off)
            else .place s p (core = c) (regionWritable r)

/-- Whether an access to n bytes of a place meets an uncorrectable unit: a read, or a write that covers it only in part (R64). -/
def State.eccMet (s : State) (p : Place) (n : Nat) (write : Bool) : Bool :=
  if write then s.badUnit p && decide (n < p.unit.2) else (List.range n).any fun i => s.badRead (p.add i)

/-- The checks of an access in the order of R117, with ECC as the earlier stores of the core leave its target (R118). -/
def State.access (s : State) (c a n : Nat) (write spOnly : Bool) (align : Nat) : Acc :=
  match s.reach c a n write spOnly align with
  | .place s' p own wr => if (s.drain c).eccMet p n write then .trap cECC a p.eccSub
    else .place (if write then s' else s'.meet ((List.range n).map p.add)) p own wr
  | r => r

end Sys2Proof.Machine
end

