-- ==== Sys2Proof/Machine/Run.lean ====
section
/-! DEFINITION. How a control-core instruction runs: its pops, its body, and its retirement, trap or wait (R42, R107,
R108, R137). -/

namespace Sys2Proof.Machine

/-- What the body of a control-core instruction comes to. -/
inductive Act where
  /-- It completes and goes on at a pc. -/
  | done (s : State) (pc : W64)
  /-- It traps with no effect (R137). -/
  | trap (p : Pend)
  /-- It completes and its effect is a trap with that restart index (R121, R123). -/
  | trapAfter (s : State) (p : Pend) (restart : W64)
  /-- It waits with no effect (R108). -/
  | wait (k : WaitKind) (obj : Nat)
  /-- It waits, with marks that executing again makes again (R131). -/
  | waitIn (s : State) (k : WaitKind) (obj : Nat)
  /-- It completes and has made its own retirement (R130). -/
  | final (s : State)

/-- Whether an instruction can start: its pops are made already, as it waits, or every FIFO it pops holds a token (R42). -/
def Ctx.canPop (x : Ctx) (m : BitVec 4) : Bool := x.ccPop != 0 || x.hasTokens (popFifos .cc m)
/-- The FIFOs that an instruction pops now: none where its pops are made already. -/
def Ctx.pops (x : Ctx) (m : BitVec 4) : List Nat := if x.ccPop = 0 then popFifos .cc m else []
/-- The context with the pops of its instruction made, once. -/
abbrev Ctx.startPops (x : Ctx) (m : BitVec 4) : Ctx := x.popTokens (x.pops m)
/-- The context whose instruction has started and waits: which pops it has made is kept, to be undone if it is abandoned
(R42, R108). -/
def Ctx.begun (x : Ctx) (m : BitVec 4) : Ctx := { x.startPops m with ccPop := if x.ccPop = 0 then m else x.ccPop }
/-- The same where it waits for a place in a window, of whose use it keeps what it read of the scope table (R240). -/
def Ctx.begunAt (x : Ctx) (m : BitVec 4) (k : WaitKind) : Ctx :=
  if k = .heldGroup ∨ k = .gate then { x.begun m with waitEntry := x.waitEntry.or (some none) } else x.begun m

/-- The retirement of an instruction whose effect is made: a token that it pushes releases the stores of its path, its own among them
(R231), so it stays at retirement while one of them cannot be performed; else its pushes are made as R42 gives. -/
def State.retireRel (s : State) (c : Nat) (push : BitVec 4) (pc : W64) : State :=
  if push != 0 && s.pathBlocked c then s.setLive c { s.live c with held := some (pc, push) }
  else (if push != 0 then s.drain c else s).retireCC c push pc

/-- A control-core instruction on core c. It starts when its pops can be made, and a token it pushes releases the stores of
its path (R231); a trap leaves no effect, its pops included (R137); a wait keeps its pops until it ends or is abandoned (R42,
R108); what completes retires (R42, R107). -/
def State.runCC (s : State) (c : Nat) (tk : Tok) (body : State → Act) : State :=
  let x := s.live c
  if !x.canPop tk.pop then s.waitOn c .token (x.missing (popFifos .cc tk.pop))
  else if tk.push != 0 && s.pathBlocked c then (s.setLive c (x.begun tk.pop)).waitOn c .fence 0
  else match body (s.setLive c (x.startPops tk.pop)) with
    | .done s' pc => (s'.endWait c).retireRel c tk.push pc
    | .trap p => (s.logCC c).trap c { p with opc := s.opcAt c, clk := s.cycle } x.pc
    | .trapAfter s' p restart =>
      let p := { p with opc := s.opcAt c, clk := s.cycle }
      let s' := (if tk.push != 0 then s'.drain c else s').endWait c
      if (s'.live c).hasRoom (pushFifos .cc tk.push) then (s'.retireCC c tk.push restart).trap c p restart
      else s'.setLive c { s'.live c with held := some (restart, tk.push), heldTrap := some p }
    | .wait k obj => ((if k = .gate then s.wake (obj / 8) (obj % 8) else s).setLive c
        (((if k = .gate then s.wake (obj / 8) (obj % 8) else s).live c).begunAt tk.pop k)).waitOn c k obj
    | .waitIn s' k obj => (s'.setLive c { s'.live c with ccPop := if x.ccPop = 0 then tk.pop else x.ccPop }).waitOn c k obj
    | .final s' => s'.endWait c

/-- The outcome of an instruction word on the current core. -/
def ccInstr (tk : Tok) (body : State → Act) (s : State) : Host.Outcome State Fault Refusal :=
  .next (s.runCC s.cur tk body)

/-- A precise trap's record (R140). -/
def fault (cause addr : Nat) (sub : Nat := 0) (detail : Nat := 0) : Act :=
  .trap { cause := cause, addr := addr, sub := sub, detail := detail }

/-- An instruction that only rewrites the context and goes on to the next word. -/
def ctxNext (f : Ctx → Ctx) (s : State) : Act :=
  .done (s.setCtx (f s.ctx)) (s.ctx.pc + 1)

/-- The privilege faults of R119, R122, R130 and R131: ACCESS with the index of the instruction. -/
def privFault (s : State) : Act := fault cACCESS s.ctx.pc.toNat

/-- A run of 8-byte scalar loads on a core's behalf (descriptors, records, bitmaps), in pieces of 8 bytes with the checks of R117; the first failure ends it. -/
def State.readRun (s : State) (c a : Nat) : Nat → Except Act (State × List Byte)
  | 0 => .ok (s, [])
  | k + 1 =>
    match s.access c a 8 false false 8 with
    | .trap cause addr sub => .error (fault cause addr sub)
    | .wait w o => .error (.wait w o)
    | .place s p _ _ =>
      match s.readRun c (a + 8) k with
      | .error e => .error e
      | .ok (s', r) => .ok (s', s.bytes p 8 ++ r)

end Sys2Proof.Machine
end

