-- ==== Sys2Proof/Machine/Alu.lean ====
section
/-! DEFINITION. Class 000: the scalar ALU (R109 to R112). None of these instructions faults. -/

namespace Sys2Proof.Machine

/-- A shift amount: gb[5:0] (R109). -/
def shamt (v : W64) : Nat := v.toNat % 64

/-- Signed quotient (R110): all ones for a zero divisor, the dividend for −2^63 / −1. -/
def divS (a b : W64) : W64 := if b = 0 then BitVec.allOnes 64 else BitVec.ofInt 64 (a.toInt.tdiv b.toInt)
/-- Unsigned quotient (R110). -/
def divU (a b : W64) : W64 := if b = 0 then BitVec.allOnes 64 else BitVec.ofNat 64 (a.toNat / b.toNat)
/-- Signed remainder, with the sign of the dividend (R110). -/
def remS (a b : W64) : W64 := if b = 0 then a else BitVec.ofInt 64 (a.toInt.tmod b.toInt)
/-- Unsigned remainder (R110). -/
def remU (a b : W64) : W64 := if b = 0 then a else BitVec.ofNat 64 (a.toNat % b.toNat)

/-- Leading zero bits, 0 to 64 (R109). -/
def leadingZeros (v : W64) : Nat := if v = 0 then 64 else 63 - Nat.log2 v.toNat
/-- Set bits, 0 to 64 (R109). -/
def onesIn (v : W64) : Nat := ((List.range 64).filter fun i => v.getLsbD i).length

/-- Bits [pos + wid − 1 : pos], zero- or sign-extended (R109); wid is the field's width. -/
def bitField (v : W64) (pos wid : Nat) (sgn : Bool) : W64 :=
  let f := bits v.toNat (pos + wid - 1) pos
  if sgn then BitVec.ofInt 64 (sextNat f wid) else BitVec.ofNat 64 f
/-- A value with bits [pos + wid − 1 : pos] replaced by the low bits of another (R109). -/
def bitInsert (old v : W64) (pos wid : Nat) : W64 :=
  let m : W64 := BitVec.ofNat 64 ((2 ^ wid - 1) * 2 ^ pos)
  (old &&& ~~~m) ||| ((v <<< pos) &&& m)

/-- An instruction that writes one general register from the context and goes on (R107, R112). -/
def aluOp (tk : Tok) (d : BitVec 5) (f : Ctx → W64) (s : State) : Host.Outcome State Fault Refusal :=
  ccInstr tk (ctxNext fun x => x.setG d (f x)) s

/-- ADD (R109). -/
def execAdd (tk : Tok) (d a b : BitVec 5) (s : State) : Host.Outcome State Fault Refusal :=
  aluOp tk d (fun x => x.rg a + x.rg b) s
/-- SUB (R109). -/
def execSub (tk : Tok) (d a b : BitVec 5) (s : State) : Host.Outcome State Fault Refusal :=
  aluOp tk d (fun x => x.rg a - x.rg b) s
/-- AND (R109). -/
def execAnd (tk : Tok) (d a b : BitVec 5) (s : State) : Host.Outcome State Fault Refusal :=
  aluOp tk d (fun x => x.rg a &&& x.rg b) s
/-- OR (R109). -/
def execOr (tk : Tok) (d a b : BitVec 5) (s : State) : Host.Outcome State Fault Refusal :=
  aluOp tk d (fun x => x.rg a ||| x.rg b) s
/-- XOR (R109). -/
def execXor (tk : Tok) (d a b : BitVec 5) (s : State) : Host.Outcome State Fault Refusal :=
  aluOp tk d (fun x => x.rg a ^^^ x.rg b) s
/-- ANDN (R109). -/
def execAndn (tk : Tok) (d a b : BitVec 5) (s : State) : Host.Outcome State Fault Refusal :=
  aluOp tk d (fun x => x.rg a &&& ~~~(x.rg b)) s
/-- SHL (R109: bits [63:6] of gb are ignored). -/
def execShl (tk : Tok) (d a b : BitVec 5) (s : State) : Host.Outcome State Fault Refusal :=
  aluOp tk d (fun x => x.rg a <<< shamt (x.rg b)) s
/-- SHR (R109). -/
def execShr (tk : Tok) (d a b : BitVec 5) (s : State) : Host.Outcome State Fault Refusal :=
  aluOp tk d (fun x => x.rg a >>> shamt (x.rg b)) s
/-- SRA (R109). -/
def execSra (tk : Tok) (d a b : BitVec 5) (s : State) : Host.Outcome State Fault Refusal :=
  aluOp tk d (fun x => (x.rg a).sshiftRight (shamt (x.rg b))) s
/-- ROT (R109). -/
def execRot (tk : Tok) (d a b : BitVec 5) (s : State) : Host.Outcome State Fault Refusal :=
  aluOp tk d (fun x => (x.rg a).rotateLeft (shamt (x.rg b))) s
/-- MUL (R109). -/
def execMul (tk : Tok) (d a b : BitVec 5) (s : State) : Host.Outcome State Fault Refusal :=
  aluOp tk d (fun x => x.rg a * x.rg b) s
/-- MULH (R109: bits [127:64] of the signed product). -/
def execMulh (tk : Tok) (d a b : BitVec 5) (s : State) : Host.Outcome State Fault Refusal :=
  aluOp tk d (fun x => BitVec.ofInt 64 ((x.rg a).toInt * (x.rg b).toInt / 2 ^ 64)) s
/-- MULHN (R109: bits [127:64] of the unsigned product). -/
def execMulhn (tk : Tok) (d a b : BitVec 5) (s : State) : Host.Outcome State Fault Refusal :=
  aluOp tk d (fun x => BitVec.ofNat 64 ((x.rg a).toNat * (x.rg b).toNat / 2 ^ 64)) s
/-- DIV (R110). -/
def execDiv (tk : Tok) (d a b : BitVec 5) (s : State) : Host.Outcome State Fault Refusal :=
  aluOp tk d (fun x => divS (x.rg a) (x.rg b)) s
/-- DIVN (R110). -/
def execDivn (tk : Tok) (d a b : BitVec 5) (s : State) : Host.Outcome State Fault Refusal :=
  aluOp tk d (fun x => divU (x.rg a) (x.rg b)) s
/-- REM (R110). -/
def execRem (tk : Tok) (d a b : BitVec 5) (s : State) : Host.Outcome State Fault Refusal :=
  aluOp tk d (fun x => remS (x.rg a) (x.rg b)) s
/-- REMN (R110). -/
def execRemn (tk : Tok) (d a b : BitVec 5) (s : State) : Host.Outcome State Fault Refusal :=
  aluOp tk d (fun x => remU (x.rg a) (x.rg b)) s
/-- MIN (R109). -/
def execMin (tk : Tok) (d a b : BitVec 5) (s : State) : Host.Outcome State Fault Refusal :=
  aluOp tk d (fun x => if (x.rg b).slt (x.rg a) then x.rg b else x.rg a) s
/-- MAX (R109). -/
def execMax (tk : Tok) (d a b : BitVec 5) (s : State) : Host.Outcome State Fault Refusal :=
  aluOp tk d (fun x => if (x.rg a).slt (x.rg b) then x.rg b else x.rg a) s
/-- MINN (R109). -/
def execMinn (tk : Tok) (d a b : BitVec 5) (s : State) : Host.Outcome State Fault Refusal :=
  aluOp tk d (fun x => if (x.rg b).ult (x.rg a) then x.rg b else x.rg a) s
/-- MAXN (R109). -/
def execMaxn (tk : Tok) (d a b : BitVec 5) (s : State) : Host.Outcome State Fault Refusal :=
  aluOp tk d (fun x => if (x.rg a).ult (x.rg b) then x.rg b else x.rg a) s
/-- CLZ (R109). -/
def execClz (tk : Tok) (d a : BitVec 5) (s : State) : Host.Outcome State Fault Refusal :=
  aluOp tk d (fun x => BitVec.ofNat 64 (leadingZeros (x.rg a))) s
/-- POPC (R109). -/
def execPopc (tk : Tok) (d a : BitVec 5) (s : State) : Host.Outcome State Fault Refusal :=
  aluOp tk d (fun x => BitVec.ofNat 64 (onesIn (x.rg a))) s
/-- CMP.cond (R109). -/
def execCmp (tk : Tok) (d a b : BitVec 5) (cond : BitVec 3) (s : State) : Host.Outcome State Fault Refusal :=
  aluOp tk d (fun x => if cond64 cond.toNat (x.rg a) (x.rg b) then 1 else 0) s
/-- SEL (R109). -/
def execSel (tk : Tok) (d a b c : BitVec 5) (s : State) : Host.Outcome State Fault Refusal :=
  aluOp tk d (fun x => if x.rg c != 0 then x.rg a else x.rg b) s
/-- ADDX (R109). -/
def execAddx (tk : Tok) (d a b : BitVec 5) (sc : BitVec 3) (s : State) : Host.Outcome State Fault Refusal :=
  aluOp tk d (fun x => x.rg a + x.rg b <<< sc.toNat) s
/-- BFX and BFX.S (R109); the field wid holds the width less one. -/
def execBfx (tk : Tok) (d a : BitVec 5) (sx : BitVec 1) (pos wid : BitVec 6) (s : State) : Host.Outcome State Fault Refusal :=
  aluOp tk d (fun x => bitField (x.rg a) pos.toNat (wid.toNat + 1) (sx == 1)) s
/-- BFI (R109): gd is read as well as written. -/
def execBfi (tk : Tok) (d a : BitVec 5) (pos wid : BitVec 6) (s : State) : Host.Outcome State Fault Refusal :=
  aluOp tk d (fun x => bitInsert (x.rg d) (x.rg a) pos.toNat (wid.toNat + 1)) s
/-- ADDI (R111). -/
def execAddi (tk : Tok) (d a : BitVec 5) (imm : BitVec 30) (s : State) : Host.Outcome State Fault Refusal :=
  aluOp tk d (fun x => x.rg a + sx imm) s
/-- ANDI (R111). -/
def execAndi (tk : Tok) (d a : BitVec 5) (imm : BitVec 28) (s : State) : Host.Outcome State Fault Refusal :=
  aluOp tk d (fun x => x.rg a &&& sx imm) s
/-- ORI (R111). -/
def execOri (tk : Tok) (d a : BitVec 5) (imm : BitVec 28) (s : State) : Host.Outcome State Fault Refusal :=
  aluOp tk d (fun x => x.rg a ||| sx imm) s
/-- XORI (R111). -/
def execXori (tk : Tok) (d a : BitVec 5) (imm : BitVec 28) (s : State) : Host.Outcome State Fault Refusal :=
  aluOp tk d (fun x => x.rg a ^^^ sx imm) s
/-- SHLI (R111). -/
def execShli (tk : Tok) (d a : BitVec 5) (sh : BitVec 6) (s : State) : Host.Outcome State Fault Refusal :=
  aluOp tk d (fun x => x.rg a <<< sh.toNat) s
/-- SHRI (R111). -/
def execShri (tk : Tok) (d a : BitVec 5) (sh : BitVec 6) (s : State) : Host.Outcome State Fault Refusal :=
  aluOp tk d (fun x => x.rg a >>> sh.toNat) s
/-- SRAI (R111). -/
def execSrai (tk : Tok) (d a : BitVec 5) (sh : BitVec 6) (s : State) : Host.Outcome State Fault Refusal :=
  aluOp tk d (fun x => (x.rg a).sshiftRight sh.toNat) s
/-- ROTI (R111). -/
def execRoti (tk : Tok) (d a : BitVec 5) (sh : BitVec 6) (s : State) : Host.Outcome State Fault Refusal :=
  aluOp tk d (fun x => (x.rg a).rotateLeft sh.toNat) s
/-- MOVHI (R111). -/
def execMovhi (tk : Tok) (d : BitVec 5) (imm : BitVec 30) (s : State) : Host.Outcome State Fault Refusal :=
  aluOp tk d (fun _ => sx imm <<< 30) s

end Sys2Proof.Machine
end

