-- ==== Sys2Proof/WellFormed.lean ====
section
/-! DEFINITION. The static conditions of R98 on an instruction: `reasonOf` is the scanner's reason code of an
instruction whose unused bits are zero (0 when it is legal), and `Instr.wellFormed` says that it is legal. The codes 1, 2, 3 and
the structural part of code 4 are conditions on the word and stand in `Decode.lean`. -/

namespace Sys2Proof

/-- The lowest code whose condition holds, 0 for none; the list is in ascending order of code (R98). -/
def firstCode : List (Nat × Bool) → Nat
  | [] => 0
  | (c, bad) :: rest => if bad then c else firstCode rest

/-- The system registers that the table of R119 assigns. -/
def sysRegNumbers : List Nat :=
  [0x000, 0x001, 0x002, 0x003, 0x004, 0x008, 0x009, 0x00A, 0x00B, 0x010, 0x011, 0x012, 0x018, 0x019, 0x01A, 0x01B, 0x01C,
   0x01D, 0x020, 0x021, 0x022, 0x023, 0x024, 0x030, 0x031, 0x032, 0x033, 0x034, 0x035, 0x036, 0x040, 0x041, 0x042, 0x048,
   0x049, 0x04A]

/-- A copy's flag fields: fe = 0 requires fl = 0 (R91, code 4). -/
def flagUnused (fl : BitVec 6) (fe : BitVec 1) : Bool := fe = 0 && fl != 0

/-- The conditions of the tile copies (R158): reserved rounding mode 6, no rows 7. -/
def copyReason (fl : BitVec 6) (fe : BitVec 1) (n : BitVec 12) (rm : BitVec 3) : Nat :=
  firstCode [(4, flagUnused fl fe), (6, decide (4 ≤ rm.toNat)), (7, n = 0)]

/-- LDG and SCT further need gw and gw + 1 below g31 (R158). -/
def indexedReason (g : BitVec 5) (fl : BitVec 6) (fe : BitVec 1) (n : BitVec 12) (rm : BitVec 3) : Nat :=
  firstCode [(4, flagUnused fl fe), (6, decide (4 ≤ rm.toNat)), (7, n = 0 || decide (30 ≤ g.toNat))]

/-- The type field of an instruction that selects a type (R93). -/
def badTy (ty : BitVec 3) : Bool := decide (3 ≤ ty.toNat)

/-- The types an atomic allows (R233): AADD I32, I64 and F32; AMIN and AMAX all five; ACAS and ASWP I32 and I64. -/
def atomicReason (allowed : List Nat) (ty : BitVec 3) : Nat :=
  if allowed.contains ty.toNat then 0 else 7

/-- Reductions and scans (R176, R192, R193): rd is used only by F32 SUM. -/
def reduceReason (ty rd op : BitVec 3) : Nat :=
  firstCode [(4, !(ty = 0 && op = 0) && rd != 0), (6, badTy ty || decide (4 ≤ rd.toNat)), (7, decide (3 ≤ op.toNat))]

/-- VMASK (R196): which of a, b, n and ty an operation uses, the mask numbers, and the limits of n. Of the illegal operations 10 to
15 R196 says which of n and ty they use, and not whether a and b (DESIGN CHOICE, log 82: they do). -/
def vmaskReason (d a b ty : BitVec 5) (n : BitVec 11) (op : BitVec 4) : Nat :=
  let o := op.toNat
  firstCode
    [(4, (!(decide (o ≤ 6)) && a != 0 && decide (o ≤ 9)) || (decide (4 ≤ o ∧ o ≤ 9) && b != 0)
        || (o != 6 && ty != 0) || (!(decide (7 ≤ o ∧ o ≤ 9)) && n != 0)),
     (5, (o != 6 && decide (o ≤ 9) && decide (8 ≤ d.toNat)) || ((decide (o ≤ 4) || o = 6) && decide (8 ≤ a.toNat))
        || (decide (o ≤ 3) && decide (8 ≤ b.toNat))),
     (6, o = 6 && decide (3 ≤ ty.toNat)),
     (7, decide (10 ≤ o) || (o = 7 && decide (64 < n.toNat)) || (o = 8 && decide (16 < n.toNat)) || (o = 9 && decide (1024 < n.toNat)))]

/-- The scanner's reason code of an instruction (R98), 0 when every condition of R92, R93, R95 and of its own entry holds. R131 asks
zero of no field but d and x[24:3] of TLBINV: ga and gb may name any register in a mode that does not read them (DESIGN CHOICE,
log 81). VLOGIC operations 0 to 3 with IMM set, and 8 to 15 with sh non-zero, meet the condition of their entry, 7, and no unused
sub-field, 4; so does MXACR with DST and ALL both set (DESIGN CHOICE, log 82). -/
def reasonOf : Instr → Nat
  | .cmp _ _ _ _ cond => firstCode [(7, decide (6 ≤ cond.toNat))]
  | .bfx _ _ _ _ pos wid => firstCode [(7, decide (64 < pos.toNat + wid.toNat + 1))]
  | .bfi _ _ _ pos wid => firstCode [(7, decide (64 < pos.toNat + wid.toNat + 1))]
  | .br _ _ b cc _ => firstCode [(4, (cc = 6 || cc = 7) && b != 0), (6, decide (8 ≤ cc.toNat))]
  | .loop _ lc _ => firstCode [(5, decide (4 ≤ lc.toNat))]
  | .ld _ _ _ _ size _ => firstCode [(7, size = 7)]
  | .st _ _ _ _ size _ => firstCode [(7, decide (4 ≤ size.toNat))]
  | .mfs _ _ sn => firstCode [(5, !(sysRegNumbers.contains sn.toNat))]
  | .mts _ _ sn => firstCode [(5, !(sysRegNumbers.contains sn.toNat))]
  | .qdrop _ _ _ _ qm => firstCode [(7, qm = 0)]
  | .qres _ _ qm => firstCode [(7, qm = 0)]
  | .qstat _ _ qn => firstCode [(7, decide (4 ≤ qn.toNat))]
  | .tlbinv _ _ _ _ mode => firstCode [(7, mode = 3)]
  | .qset _ d _ _ => firstCode [(5, decide (16 ≤ d.toNat))]
  | .qget _ _ a _ => firstCode [(5, decide (16 ≤ a.toNat))]
  | .qclr _ d => firstCode [(5, decide (16 ≤ d.toNat))]
  | .ldt _ _ _ _ fl fe n rm => copyReason fl fe n rm
  | .cpy _ _ _ _ fl fe n rm => copyReason fl fe n rm
  | .stt _ _ _ _ fl fe n rm => copyReason fl fe n rm
  | .cpys _ _ _ _ fl fe n rm => copyReason fl fe n rm
  | .ldg _ _ _ g fl fe n rm => indexedReason g fl fe n rm
  | .sct _ _ _ g fl fe n rm => indexedReason g fl fe n rm
  | .ldo _ _ _ fl fe n => firstCode [(4, flagUnused fl fe), (7, n = 0)]
  | .pref _ _ _ fl fe n => firstCode [(4, flagUnused fl fe), (7, n = 0)]
  | .qmark _ fl fe => firstCode [(4, flagUnused fl fe)]
  | .redSt _ _ _ _ fl fe n rm op =>
    firstCode [(4, flagUnused fl fe), (6, decide (4 ≤ rm.toNat)),
      (7, n = 0 || decide (4 ≤ op.toNat) || (op = 3 && (rm != 0 || decide (1365 < n.toNat))))]
  | .chpop _ _ _ fl fe n => firstCode [(4, flagUnused fl fe), (7, n = 0 || decide (8 < n.toNat))]
  | .vld _ _ _ _ _ mf => firstCode [(7, decide (9 ≤ mf.toNat))]
  | .vst _ _ _ _ _ rd mf =>
    firstCode [(4, !(decide (1 ≤ mf.toNat ∧ mf.toNat ≤ 4)) && rd != 0), (6, decide (4 ≤ rd.toNat)), (7, decide (9 ≤ mf.toNat))]
  | .vbcc _ _ _ _ i => firstCode [(7, decide (16 ≤ i.toNat))]
  | .vrotc _ _ _ _ _ k => firstCode [(7, decide (16 ≤ k.toNat))]
  | .valu _ _ _ b _ ty rd sat op =>
    firstCode [(4, ((op = 5 || op = 6) && b != 0) || (ty != 0 && rd != 0)), (6, badTy ty || decide (4 ≤ rd.toNat)),
      (7, decide (7 ≤ op.toNat) || (sat = 1 && ty = 0))]
  | .vfma _ _ _ _ _ ty rd _ => firstCode [(4, ty != 0 && rd != 0), (6, badTy ty || decide (4 ≤ rd.toNat))]
  | .vlogic _ _ _ b _ sh im op =>
    firstCode [(4, (im = 1 && b != 0) || (op = 4 && (b != 0 || im = 1 || sh != 0)) || (decide (op.toNat ≤ 3) && sh != 0)
        || (decide (5 ≤ op.toNat ∧ op.toNat ≤ 7) && im = 0 && sh != 0)),
      (7, decide (8 ≤ op.toNat) || (im = 1 && decide (op.toNat ≤ 4)))]
  | .vcmp _ d _ _ _ ty cond => firstCode [(5, decide (8 ≤ d.toNat)), (6, badTy ty), (7, decide (6 ≤ cond.toNat) && ty != 0)]
  | .vredr _ _ _ _ ty rd _ op => reduceReason ty rd op
  | .vredc _ _ _ _ ty rd _ op => reduceReason ty rd op
  | .vscan _ _ _ _ ty rd _ _ op => reduceReason ty rd op
  | .vcvt _ _ _ _ ty rd _ code => firstCode [(4, ty != 0 && rd != 0), (6, badTy ty || decide (4 ≤ rd.toNat)), (7, code = 7)]
  | .vrcps _ _ _ _ _ rd => firstCode [(6, decide (4 ≤ rd.toNat))]
  | .vrsqs _ _ _ _ _ rd => firstCode [(6, decide (4 ≤ rd.toNat))]
  | .vmask _ d a b ty n op => vmaskReason d a b (ty.setWidth 5) n op
  | .vpopc _ _ a mode => firstCode [(5, decide (8 ≤ a.toNat)), (7, mode = 3)]
  | .vtog _ a ty src col _ =>
    firstCode [(4, src = 1 && (ty != 0 || col != 0)), (5, src = 1 && decide (8 ≤ a.toNat)), (6, badTy ty)]
  | .vmeanE _ d _ _ => firstCode [(7, decide (30 ≤ d.toNat))]
  | .vmeanM _ d a _ => firstCode [(7, decide (30 ≤ d.toNat) || decide (30 ≤ a.toNat))]
  | .vmeanX _ _ a _ => firstCode [(7, decide (30 ≤ a.toNat))]
  | .vmsh _ d _ _ => firstCode [(7, decide (30 ≤ d.toNat))]
  | .vupd _ d _ b _ ty rd gh =>
    firstCode [(6, badTy ty || decide (4 ≤ rd.toNat)),
      (7, b = 31 || d = b || decide (d.toNat = b.toNat + 1) || decide (28 < gh.toNat) || ty != 0)]
  | .vkey _ d a _ ty _ three k gh =>
    firstCode [(6, badTy ty),
      (7, d = 31 || decide ((if three = 1 then 29 else 30) < a.toNat) || decide (20 < k.toNat) || decide (29 < gh.toNat))]
  | .chpush _ _ rd fmt r c =>
    firstCode [(4, decide (2 ≤ fmt.toNat) && rd != 0), (6, decide (4 ≤ rd.toNat)), (7, decide (16 < r.toNat + c.toNat + 1))]
  | .pstore _ _ _ _ _ rm => firstCode [(6, decide (4 ≤ rm.toNat))]
  | .mxnest _ g level => firstCode [(7, decide (6 ≤ level.toNat) || decide (29 < g.toNat))]
  | .mxgo _ _ _ _ sr _ _ _ => firstCode [(6, decide (5 ≤ sr.toNat))]
  | .mxrun _ _ _ _ sr g _ _ _ p => firstCode [(4, p = 0 && g != 0), (6, decide (5 ≤ sr.toNat))]
  | .mxacl _ _ sr _ => firstCode [(6, decide (5 ≤ sr.toNat))]
  | .mxacr _ qb _ dst vd all quarter _ _ rm =>
    firstCode [(4, (dst = 0 && qb != 0) || (dst = 1 && vd != 0) || ((dst = 1 || all = 1) && quarter != 0)),
      (6, decide (4 ≤ rm.toNat)), (7, (dst = 1 && all = 1) || (all = 1 && decide (28 < vd.toNat)))]
  | .mxstat _ sel => firstCode [(7, sel = 15)]
  | .fence _ _ kind => firstCode [(7, kind = 0)]
  | .setf _ _ a _ rem _ => firstCode [(4, rem = 0 && a != 0)]
  | .addf _ _ a _ rem _ => firstCode [(4, rem = 0 && a != 0)]
  | .aadd _ _ _ _ _ ty _ => atomicReason [0, 1, 2] ty
  | .amin _ _ _ _ _ ty _ => atomicReason [0, 1, 2, 3, 4] ty
  | .amax _ _ _ _ _ ty _ => atomicReason [0, 1, 2, 3, 4] ty
  | .acas _ _ _ _ _ _ ty _ => atomicReason [0, 1] ty
  | .aswp _ _ _ _ _ ty _ => atomicReason [0, 1] ty
  | .scope _ sc _ => firstCode [(7, sc = 0 || sc = 1 || sc = 31)]
  | .rpop _ _ which => firstCode [(7, decide (2 ≤ which.toNat))]
  | .vxfer _ _ _ kind r n =>
    firstCode [(4, kind = 1 && n != 0), (5, kind = 1 && decide (4 ≤ r.toNat)), (7, kind = 0 && decide (32 < r.toNat + n.toNat + 1))]
  | .pgreqOff _ unit => firstCode [(7, decide (6 ≤ unit.toNat))]
  | .pgreqOn _ unit => firstCode [(7, decide (6 ≤ unit.toNat))]
  | _ => 0

/-- A legal instruction (R98). -/
def Instr.wellFormed (i : Instr) : Bool := reasonOf i = 0

end Sys2Proof
end

