-- ==== Sys2Proof/Decode.lean ====
section
/-! DEFINITION. Instruction words (R87 to R98): the fields of a word, the encoder, the scanner's reason code and the
decoder, which accepts exactly the legal words. -/

namespace Sys2Proof

/-- Bits [lo + k - 1 : lo] of a word, as a bit vector. -/
def field (w lo k : Nat) : BitVec k := BitVec.ofNat k (w / 2 ^ lo)

/-- Bits [lo + k - 1 : lo] of a word, as a number. -/
def nfield (w lo k : Nat) : Nat := w / 2 ^ lo % 2 ^ k

/-- Class 000 (R96): the fields of the word w whose function is fn, before any legality check. -/
def rawAlu (tk : Tok) (f : (lo k : Nat) → BitVec k) (fn : Nat) : Option Instr :=
  match fn with
  | 0x00 => some (.add tk (f 35 5) (f 30 5) (f 25 5))
  | 0x01 => some (.sub tk (f 35 5) (f 30 5) (f 25 5))
  | 0x02 => some (.and tk (f 35 5) (f 30 5) (f 25 5))
  | 0x03 => some (.or tk (f 35 5) (f 30 5) (f 25 5))
  | 0x04 => some (.xor tk (f 35 5) (f 30 5) (f 25 5))
  | 0x05 => some (.andn tk (f 35 5) (f 30 5) (f 25 5))
  | 0x06 => some (.shl tk (f 35 5) (f 30 5) (f 25 5))
  | 0x07 => some (.shr tk (f 35 5) (f 30 5) (f 25 5))
  | 0x08 => some (.sra tk (f 35 5) (f 30 5) (f 25 5))
  | 0x09 => some (.rot tk (f 35 5) (f 30 5) (f 25 5))
  | 0x0A => some (.mul tk (f 35 5) (f 30 5) (f 25 5))
  | 0x0B => some (.mulh tk (f 35 5) (f 30 5) (f 25 5))
  | 0x0C => some (.mulhn tk (f 35 5) (f 30 5) (f 25 5))
  | 0x0D => some (.div tk (f 35 5) (f 30 5) (f 25 5))
  | 0x0E => some (.divn tk (f 35 5) (f 30 5) (f 25 5))
  | 0x0F => some (.rem tk (f 35 5) (f 30 5) (f 25 5))
  | 0x10 => some (.remn tk (f 35 5) (f 30 5) (f 25 5))
  | 0x11 => some (.min tk (f 35 5) (f 30 5) (f 25 5))
  | 0x12 => some (.max tk (f 35 5) (f 30 5) (f 25 5))
  | 0x13 => some (.minn tk (f 35 5) (f 30 5) (f 25 5))
  | 0x14 => some (.maxn tk (f 35 5) (f 30 5) (f 25 5))
  | 0x15 => some (.clz tk (f 35 5) (f 30 5))
  | 0x16 => some (.popc tk (f 35 5) (f 30 5))
  | 0x17 => some (.cmp tk (f 35 5) (f 30 5) (f 25 5) (f 0 3))
  | 0x18 => some (.sel tk (f 35 5) (f 30 5) (f 25 5) (f 20 5))
  | 0x19 => some (.addx tk (f 35 5) (f 30 5) (f 25 5) (f 0 3))
  | 0x1A => some (.bfx tk (f 35 5) (f 30 5) (f 12 1) (f 6 6) (f 0 6))
  | 0x1B => some (.bfi tk (f 35 5) (f 30 5) (f 6 6) (f 0 6))
  | 0x1C => some (.addi tk (f 35 5) (f 30 5) (f 0 30))
  | 0x1D => match (f 28 2).toNat with
    | 0 => some (.andi tk (f 35 5) (f 30 5) (f 0 28))
    | 1 => some (.ori tk (f 35 5) (f 30 5) (f 0 28))
    | 2 => some (.xori tk (f 35 5) (f 30 5) (f 0 28))
    | _ => none
  | 0x1E => match (f 28 2).toNat with
    | 0 => some (.shli tk (f 35 5) (f 30 5) (f 0 6))
    | 1 => some (.shri tk (f 35 5) (f 30 5) (f 0 6))
    | 2 => some (.srai tk (f 35 5) (f 30 5) (f 0 6))
    | _ => some (.roti tk (f 35 5) (f 30 5) (f 0 6))
  | 0x1F => some (.movhi tk (f 35 5) (f 0 30))
  | _ => none

/-- Class 001 (R96): the fields of the word w whose function is fn, before any legality check. -/
def rawCtl (tk : Tok) (f : (lo k : Nat) → BitVec k) (fn : Nat) : Option Instr :=
  match fn with
  | 0x00 => some (.br tk (f 35 5) (f 30 5) (f 26 4) (f 0 26))
  | 0x01 => some (.jmp tk (f 0 26))
  | 0x02 => some (.call tk (f 0 26))
  | 0x03 => some (.jr tk (f 35 5) (f 30 5))
  | 0x04 => some (.loop tk (f 35 5) (f 0 26))
  | 0x05 => some (.ld tk (f 35 5) (f 30 5) (f 25 5) (f 22 3) (f 0 16))
  | 0x06 => some (.st tk (f 35 5) (f 30 5) (f 25 5) (f 22 3) (f 0 16))
  | 0x07 => some (.mfs tk (f 35 5) (f 18 12))
  | 0x08 => some (.mts tk (f 30 5) (f 18 12))
  | 0x09 => some (.trap tk (f 0 16))
  | 0x0A => some (.eret tk)
  | 0x0B => some (.brk tk (f 0 16))
  | 0x0C => some (.tmark tk (f 30 5) (f 0 16))
  | 0x0D => some (.qdrop tk (f 35 5) (f 30 5) (f 25 5) (f 0 4))
  | 0x0E => some (.qres tk (f 35 5) (f 0 4))
  | 0x0F => some (.qstat tk (f 35 5) (f 0 3))
  | 0x10 => some (.yield tk)
  | 0x11 => some (.ctxsw tk (f 30 5))
  | 0x12 => some (.tlbinv tk (f 30 5) (f 25 5) (f 2 1) (f 0 2))
  | 0x13 => some (.qset tk (f 35 5) (f 30 5) (f 0 2))
  | 0x14 => some (.qget tk (f 35 5) (f 30 5) (f 0 2))
  | 0x15 => some (.qclr tk (f 35 5))
  | _ => none

/-- Class 010 (R96): the fields of the word w whose function is fn, before any legality check. -/
def rawIn (tk : Tok) (f : (lo k : Nat) → BitVec k) (fn : Nat) : Option Instr :=
  match fn with
  | 0x00 => some (.ldt tk (f 36 4) (f 32 4) (f 27 5) (f 21 6) (f 20 1) (f 8 12) (f 5 3))
  | 0x01 => some (.cpy tk (f 36 4) (f 32 4) (f 27 5) (f 21 6) (f 20 1) (f 8 12) (f 5 3))
  | 0x02 => some (.ldo tk (f 36 4) (f 27 5) (f 21 6) (f 20 1) (f 8 12))
  | 0x03 => some (.pref tk (f 36 4) (f 27 5) (f 21 6) (f 20 1) (f 8 12))
  | 0x04 => some (.ldg tk (f 36 4) (f 32 4) (f 27 5) (f 21 6) (f 20 1) (f 8 12) (f 5 3))
  | 0x05 => some (.qmark tk (f 21 6) (f 20 1))
  | _ => none

/-- Class 011 (R96): the fields of the word w whose function is fn, before any legality check. -/
def rawOut (tk : Tok) (f : (lo k : Nat) → BitVec k) (fn : Nat) : Option Instr :=
  match fn with
  | 0x00 => some (.stt tk (f 36 4) (f 32 4) (f 27 5) (f 21 6) (f 20 1) (f 8 12) (f 5 3))
  | 0x01 => some (.cpys tk (f 36 4) (f 32 4) (f 27 5) (f 21 6) (f 20 1) (f 8 12) (f 5 3))
  | 0x02 => some (.redSt tk (f 36 4) (f 32 4) (f 27 5) (f 21 6) (f 20 1) (f 8 12) (f 5 3) (f 0 3))
  | 0x03 => some (.sct tk (f 36 4) (f 32 4) (f 27 5) (f 21 6) (f 20 1) (f 8 12) (f 5 3))
  | 0x04 => some (.chpop tk (f 32 4) (f 27 5) (f 21 6) (f 20 1) (f 8 12))
  | _ => none

/-- Class 100 (R96): the fields of the word w whose function is fn, before any legality check. -/
def rawVec (tk : Tok) (f : (lo k : Nat) → BitVec k) (fn : Nat) : Option Instr :=
  match fn with
  | 0x00 => some (.vld tk (f 35 5) (f 30 5) (f 25 5) (f 22 3) (f 0 4))
  | 0x01 => some (.vst tk (f 35 5) (f 30 5) (f 25 5) (f 22 3) (f 16 3) (f 0 4))
  | 0x02 => match (f 0 1).toNat with
    | 0 => some (.vmov tk (f 35 5) (f 30 5) (f 22 3))
    | _ => some (.vmovg tk (f 35 5) (f 30 5) (f 22 3))
  | 0x03 => match (f 6 1).toNat with
    | 0 => some (.vbcr tk (f 35 5) (f 30 5) (f 22 3) (f 0 6))
    | _ => some (.vbcc tk (f 35 5) (f 30 5) (f 22 3) (f 0 6))
  | 0x04 => match (f 6 1).toNat with
    | 0 => some (.vrotr tk (f 35 5) (f 30 5) (f 22 3) (f 7 1) (f 0 6))
    | _ => some (.vrotc tk (f 35 5) (f 30 5) (f 22 3) (f 7 1) (f 0 6))
  | 0x05 => some (.valu tk (f 35 5) (f 30 5) (f 25 5) (f 22 3) (f 19 3) (f 16 3) (f 4 1) (f 0 4))
  | 0x06 => some (.vfma tk (f 35 5) (f 30 5) (f 25 5) (f 22 3) (f 19 3) (f 16 3) (f 0 2))
  | 0x07 => some (.vlogic tk (f 35 5) (f 30 5) (f 25 5) (f 22 3) (f 5 5) (f 4 1) (f 0 4))
  | 0x08 => some (.vcmp tk (f 35 5) (f 30 5) (f 25 5) (f 22 3) (f 19 3) (f 0 3))
  | 0x09 => some (.vsel tk (f 35 5) (f 30 5) (f 25 5) (f 22 3))
  | 0x0A => match (f 3 1).toNat with
    | 0 => some (.vredr tk (f 35 5) (f 30 5) (f 22 3) (f 19 3) (f 16 3) (f 4 1) (f 0 3))
    | _ => some (.vredc tk (f 35 5) (f 30 5) (f 22 3) (f 19 3) (f 16 3) (f 4 1) (f 0 3))
  | 0x0B => some (.vscan tk (f 35 5) (f 30 5) (f 22 3) (f 19 3) (f 16 3) (f 4 1) (f 3 1) (f 0 3))
  | 0x0C => some (.vcvt tk (f 35 5) (f 30 5) (f 22 3) (f 19 3) (f 16 3) (f 3 1) (f 0 3))
  | 0x0D => some (.vrcp tk (f 35 5) (f 30 5) (f 22 3))
  | 0x0E => some (.vrsq tk (f 35 5) (f 30 5) (f 22 3))
  | 0x0F => some (.vrcps tk (f 35 5) (f 30 5) (f 25 5) (f 22 3) (f 16 3))
  | 0x10 => some (.vrsqs tk (f 35 5) (f 30 5) (f 25 5) (f 22 3) (f 16 3))
  | 0x11 => some (.vexp2 tk (f 35 5) (f 30 5) (f 22 3))
  | 0x12 => some (.vlog2 tk (f 35 5) (f 30 5) (f 22 3))
  | 0x13 => some (.vmask tk (f 35 5) (f 30 5) (f 25 5) (f 19 3) (f 5 11) (f 0 4))
  | 0x14 => some (.vpopc tk (f 35 5) (f 30 5) (f 0 2))
  | 0x15 => some (.vtog tk (f 30 5) (f 19 3) (f 10 1) (f 4 6) (f 0 4))
  | 0x16 => some (.vmeanE tk (f 35 5) (f 30 5) (f 22 3))
  | 0x17 => some (.vmeanM tk (f 35 5) (f 30 5) (f 22 3))
  | 0x18 => some (.vmeanX tk (f 35 5) (f 30 5) (f 22 3))
  | 0x19 => some (.vmtld tk (f 30 5) (f 0 4))
  | 0x1A => some (.vmsh tk (f 35 5) (f 30 5) (f 22 3))
  | 0x1B => some (.vupd tk (f 35 5) (f 30 5) (f 25 5) (f 22 3) (f 19 3) (f 16 3) (f 0 5))
  | 0x1C => some (.vkey tk (f 35 5) (f 30 5) (f 22 3) (f 19 3) (f 11 1) (f 10 1) (f 5 5) (f 0 5))
  | 0x1D => some (.chpush tk (f 30 5) (f 16 3) (f 8 2) (f 4 4) (f 0 3))
  | _ => none

/-- Class 101 (R96): the fields of the word w whose function is fn, before any legality check. -/
def rawMat (tk : Tok) (f : (lo k : Nat) → BitVec k) (fn : Nat) : Option Instr :=
  match fn with
  | 0x00 => some (.pdir tk (f 22 5) (f 10 3) (f 9 1))
  | 0x01 => some (.pload tk (f 36 4) (f 22 5) (f 13 9) (f 10 3))
  | 0x02 => some (.pstore tk (f 32 4) (f 22 5) (f 13 9) (f 10 3) (f 0 3))
  | 0x03 => some (.pclr tk (f 10 3) (f 9 1))
  | 0x04 => some (.mxnest tk (f 22 5) (f 0 3))
  | 0x05 => some (.mxgo tk (f 36 4) (f 32 4) (f 30 2) (f 27 3) (f 16 6) (f 10 6) (f 4 6))
  | 0x06 => some (.mxrun tk (f 36 4) (f 32 4) (f 30 2) (f 27 3) (f 22 5) (f 16 6) (f 10 6) (f 4 6) (f 3 1))
  | 0x07 => some (.mxgrad tk (f 36 4) (f 32 4) (f 18 4) (f 12 6) (f 6 6) (f 0 6))
  | 0x08 => some (.mxres tk)
  | 0x09 => some (.mxacl tk (f 30 2) (f 27 3) (f 0 1))
  | 0x0A => some (.mxacr tk (f 32 4) (f 30 2) (f 21 1) (f 16 5) (f 15 1) (f 13 2) (f 12 1) (f 8 1) (f 0 3))
  | 0x0B => some (.mxstat tk (f 0 4))
  | _ => none

/-- Class 110 (R96): the fields of the word w whose function is fn, before any legality check. -/
def rawSyn (tk : Tok) (f : (lo k : Nat) → BitVec k) (fn : Nat) : Option Instr :=
  match fn with
  | 0x00 => some (.fence tk (f 35 5) (f 0 2))
  | 0x01 => some (.setf tk (f 35 5) (f 30 5) (f 25 5) (f 6 1) (f 0 6))
  | 0x02 => some (.addf tk (f 35 5) (f 30 5) (f 25 5) (f 6 1) (f 0 6))
  | 0x03 => some (.waitf tk (f 35 5) (f 25 5) (f 0 6))
  | 0x04 => some (.tktTake tk (f 35 5) (f 30 5) (f 20 5))
  | 0x05 => some (.tktWait tk (f 35 5) (f 30 5) (f 25 5))
  | 0x06 => some (.tktDone tk (f 35 5) (f 30 5))
  | 0x07 => some (.aadd tk (f 35 5) (f 30 5) (f 25 5) (f 20 5) (f 12 3) (f 10 2))
  | 0x08 => some (.amin tk (f 35 5) (f 30 5) (f 25 5) (f 20 5) (f 12 3) (f 10 2))
  | 0x09 => some (.amax tk (f 35 5) (f 30 5) (f 25 5) (f 20 5) (f 12 3) (f 10 2))
  | 0x0A => some (.acas tk (f 35 5) (f 30 5) (f 25 5) (f 20 5) (f 15 5) (f 12 3) (f 10 2))
  | 0x0B => some (.aswp tk (f 35 5) (f 30 5) (f 25 5) (f 20 5) (f 12 3) (f 10 2))
  | 0x0C => some (.scope tk (f 35 5) (f 30 5))
  | 0x0D => some (.rpop tk (f 35 5) (f 0 2))
  | 0x0E => match (f 4 1).toNat with
    | 0 => some (.comm tk (f 35 5) (f 30 5) (f 20 5) (f 0 4))
    | _ => some (.commDel tk (f 20 5) (f 0 4))
  | 0x0F => some (.coll tk (f 30 5))
  | 0x10 => some (.cwait tk (f 20 5) (f 4 1) (f 0 4))
  | 0x11 => some (.repart tk (f 30 5))
  | 0x12 => some (.vxfer tk (f 30 5) (f 24 1) (f 23 1) (f 5 5) (f 0 5))
  | 0x13 => match (f 4 1).toNat with
    | 0 => some (.pgreqOff tk (f 0 4))
    | _ => some (.pgreqOn tk (f 0 4))
  | 0x14 => some (.tide tk (f 0 1))
  | _ => none

/-- The fields of a word by its class and function (R90, R96), before any legality check. -/
def rawDecode (w : Nat) : Option Instr :=
  let tk : Tok := ⟨field w 60 4, field w 52 4⟩
  let fn := nfield w 40 5
  match nfield w 45 3 with
  | 0 => rawAlu tk (field w) fn
  | 1 => rawCtl tk (field w) fn
  | 2 => rawIn tk (field w) fn
  | 3 => rawOut tk (field w) fn
  | 4 => rawVec tk (field w) fn
  | 5 => rawMat tk (field w) fn
  | 6 => rawSyn tk (field w) fn
  | _ => none

/-- Fields placed at their low bits: (lo, value). -/
def place : List (Nat × Nat) → Nat
  | [] => 0
  | (lo, v) :: rest => v * 2 ^ lo + place rest

/-- A word: its token bytes, its opcode byte [47:40] and its operand fields (R87). -/
def pack (tk : Tok) (op : Nat) (operands : List (Nat × Nat)) : Nat :=
  tk.pop.toNat * 2 ^ 60 + tk.push.toNat * 2 ^ 52 + op * 2 ^ 40 + place operands

/-- The word of an instruction, from the encoding tables of R109 to R132, R158, R176, R204, R233, R251, R265, R271,
R273, R280, R282, R283, R292, R293, R295, R299 and R300, as a number below 2^64. The steps and events have no word. -/
def encodeNat : Instr → Option Nat
  | .add tk d a b => some (pack tk 0x00 [(35, d.toNat), (30, a.toNat), (25, b.toNat)])
  | .sub tk d a b => some (pack tk 0x01 [(35, d.toNat), (30, a.toNat), (25, b.toNat)])
  | .and tk d a b => some (pack tk 0x02 [(35, d.toNat), (30, a.toNat), (25, b.toNat)])
  | .or tk d a b => some (pack tk 0x03 [(35, d.toNat), (30, a.toNat), (25, b.toNat)])
  | .xor tk d a b => some (pack tk 0x04 [(35, d.toNat), (30, a.toNat), (25, b.toNat)])
  | .andn tk d a b => some (pack tk 0x05 [(35, d.toNat), (30, a.toNat), (25, b.toNat)])
  | .shl tk d a b => some (pack tk 0x06 [(35, d.toNat), (30, a.toNat), (25, b.toNat)])
  | .shr tk d a b => some (pack tk 0x07 [(35, d.toNat), (30, a.toNat), (25, b.toNat)])
  | .sra tk d a b => some (pack tk 0x08 [(35, d.toNat), (30, a.toNat), (25, b.toNat)])
  | .rot tk d a b => some (pack tk 0x09 [(35, d.toNat), (30, a.toNat), (25, b.toNat)])
  | .mul tk d a b => some (pack tk 0x0A [(35, d.toNat), (30, a.toNat), (25, b.toNat)])
  | .mulh tk d a b => some (pack tk 0x0B [(35, d.toNat), (30, a.toNat), (25, b.toNat)])
  | .mulhn tk d a b => some (pack tk 0x0C [(35, d.toNat), (30, a.toNat), (25, b.toNat)])
  | .div tk d a b => some (pack tk 0x0D [(35, d.toNat), (30, a.toNat), (25, b.toNat)])
  | .divn tk d a b => some (pack tk 0x0E [(35, d.toNat), (30, a.toNat), (25, b.toNat)])
  | .rem tk d a b => some (pack tk 0x0F [(35, d.toNat), (30, a.toNat), (25, b.toNat)])
  | .remn tk d a b => some (pack tk 0x10 [(35, d.toNat), (30, a.toNat), (25, b.toNat)])
  | .min tk d a b => some (pack tk 0x11 [(35, d.toNat), (30, a.toNat), (25, b.toNat)])
  | .max tk d a b => some (pack tk 0x12 [(35, d.toNat), (30, a.toNat), (25, b.toNat)])
  | .minn tk d a b => some (pack tk 0x13 [(35, d.toNat), (30, a.toNat), (25, b.toNat)])
  | .maxn tk d a b => some (pack tk 0x14 [(35, d.toNat), (30, a.toNat), (25, b.toNat)])
  | .clz tk d a => some (pack tk 0x15 [(35, d.toNat), (30, a.toNat)])
  | .popc tk d a => some (pack tk 0x16 [(35, d.toNat), (30, a.toNat)])
  | .cmp tk d a b cond => some (pack tk 0x17 [(35, d.toNat), (30, a.toNat), (25, b.toNat), (0, cond.toNat)])
  | .sel tk d a b c => some (pack tk 0x18 [(35, d.toNat), (30, a.toNat), (25, b.toNat), (20, c.toNat)])
  | .addx tk d a b sc => some (pack tk 0x19 [(35, d.toNat), (30, a.toNat), (25, b.toNat), (0, sc.toNat)])
  | .bfx tk d a sx pos wid => some (pack tk 0x1A [(35, d.toNat), (30, a.toNat), (12, sx.toNat), (6, pos.toNat), (0, wid.toNat)])
  | .bfi tk d a pos wid => some (pack tk 0x1B [(35, d.toNat), (30, a.toNat), (6, pos.toNat), (0, wid.toNat)])
  | .addi tk d a imm => some (pack tk 0x1C [(35, d.toNat), (30, a.toNat), (0, imm.toNat)])
  | .andi tk d a imm => some (pack tk 0x1D [(35, d.toNat), (30, a.toNat), (0, imm.toNat)])
  | .ori tk d a imm => some (pack tk 0x1D [(35, d.toNat), (30, a.toNat), (28, 1), (0, imm.toNat)])
  | .xori tk d a imm => some (pack tk 0x1D [(35, d.toNat), (30, a.toNat), (28, 2), (0, imm.toNat)])
  | .shli tk d a sh => some (pack tk 0x1E [(35, d.toNat), (30, a.toNat), (0, sh.toNat)])
  | .shri tk d a sh => some (pack tk 0x1E [(35, d.toNat), (30, a.toNat), (28, 1), (0, sh.toNat)])
  | .srai tk d a sh => some (pack tk 0x1E [(35, d.toNat), (30, a.toNat), (28, 2), (0, sh.toNat)])
  | .roti tk d a sh => some (pack tk 0x1E [(35, d.toNat), (30, a.toNat), (28, 3), (0, sh.toNat)])
  | .movhi tk d imm => some (pack tk 0x1F [(35, d.toNat), (0, imm.toNat)])
  | .br tk a b cc off => some (pack tk 0x20 [(35, a.toNat), (30, b.toNat), (26, cc.toNat), (0, off.toNat)])
  | .jmp tk off => some (pack tk 0x21 [(0, off.toNat)])
  | .call tk off => some (pack tk 0x22 [(0, off.toNat)])
  | .jr tk d a => some (pack tk 0x23 [(35, d.toNat), (30, a.toNat)])
  | .loop tk lc off => some (pack tk 0x24 [(35, lc.toNat), (0, off.toNat)])
  | .ld tk d a b size off => some (pack tk 0x25 [(35, d.toNat), (30, a.toNat), (25, b.toNat), (22, size.toNat), (0, off.toNat)])
  | .st tk d a b size off => some (pack tk 0x26 [(35, d.toNat), (30, a.toNat), (25, b.toNat), (22, size.toNat), (0, off.toNat)])
  | .mfs tk d sn => some (pack tk 0x27 [(35, d.toNat), (18, sn.toNat)])
  | .mts tk a sn => some (pack tk 0x28 [(30, a.toNat), (18, sn.toNat)])
  | .trap tk code => some (pack tk 0x29 [(0, code.toNat)])
  | .eret tk => some (pack tk 0x2A [])
  | .brk tk code => some (pack tk 0x2B [(0, code.toNat)])
  | .tmark tk a code => some (pack tk 0x2C [(30, a.toNat), (0, code.toNat)])
  | .qdrop tk d a b qm => some (pack tk 0x2D [(35, d.toNat), (30, a.toNat), (25, b.toNat), (0, qm.toNat)])
  | .qres tk d qm => some (pack tk 0x2E [(35, d.toNat), (0, qm.toNat)])
  | .qstat tk d qn => some (pack tk 0x2F [(35, d.toNat), (0, qn.toNat)])
  | .yield tk => some (pack tk 0x30 [])
  | .ctxsw tk a => some (pack tk 0x31 [(30, a.toNat)])
  | .tlbinv tk a b bc mode => some (pack tk 0x32 [(30, a.toNat), (25, b.toNat), (2, bc.toNat), (0, mode.toNat)])
  | .qset tk d a w => some (pack tk 0x33 [(35, d.toNat), (30, a.toNat), (0, w.toNat)])
  | .qget tk d a w => some (pack tk 0x34 [(35, d.toNat), (30, a.toNat), (0, w.toNat)])
  | .qclr tk d => some (pack tk 0x35 [(35, d.toNat)])
  | .ldt tk qs qd g fl fe n rm => some (pack tk 0x40 [(36, qs.toNat), (32, qd.toNat), (27, g.toNat), (21, fl.toNat), (20, fe.toNat), (8, n.toNat), (5, rm.toNat)])
  | .cpy tk qs qd g fl fe n rm => some (pack tk 0x41 [(36, qs.toNat), (32, qd.toNat), (27, g.toNat), (21, fl.toNat), (20, fe.toNat), (8, n.toNat), (5, rm.toNat)])
  | .ldo tk qs g fl fe n => some (pack tk 0x42 [(36, qs.toNat), (27, g.toNat), (21, fl.toNat), (20, fe.toNat), (8, n.toNat)])
  | .pref tk qs g fl fe n => some (pack tk 0x43 [(36, qs.toNat), (27, g.toNat), (21, fl.toNat), (20, fe.toNat), (8, n.toNat)])
  | .ldg tk qs qd g fl fe n rm => some (pack tk 0x44 [(36, qs.toNat), (32, qd.toNat), (27, g.toNat), (21, fl.toNat), (20, fe.toNat), (8, n.toNat), (5, rm.toNat)])
  | .qmark tk fl fe => some (pack tk 0x45 [(21, fl.toNat), (20, fe.toNat)])
  | .stt tk qs qd g fl fe n rm => some (pack tk 0x60 [(36, qs.toNat), (32, qd.toNat), (27, g.toNat), (21, fl.toNat), (20, fe.toNat), (8, n.toNat), (5, rm.toNat)])
  | .cpys tk qs qd g fl fe n rm => some (pack tk 0x61 [(36, qs.toNat), (32, qd.toNat), (27, g.toNat), (21, fl.toNat), (20, fe.toNat), (8, n.toNat), (5, rm.toNat)])
  | .redSt tk qs qd g fl fe n rm op => some (pack tk 0x62 [(36, qs.toNat), (32, qd.toNat), (27, g.toNat), (21, fl.toNat), (20, fe.toNat), (8, n.toNat), (5, rm.toNat), (0, op.toNat)])
  | .sct tk qs qd g fl fe n rm => some (pack tk 0x63 [(36, qs.toNat), (32, qd.toNat), (27, g.toNat), (21, fl.toNat), (20, fe.toNat), (8, n.toNat), (5, rm.toNat)])
  | .chpop tk qd g fl fe n => some (pack tk 0x64 [(32, qd.toNat), (27, g.toNat), (21, fl.toNat), (20, fe.toNat), (8, n.toNat)])
  | .vld tk d a b mk mf => some (pack tk 0x80 [(35, d.toNat), (30, a.toNat), (25, b.toNat), (22, mk.toNat), (0, mf.toNat)])
  | .vst tk d a b mk rd mf => some (pack tk 0x81 [(35, d.toNat), (30, a.toNat), (25, b.toNat), (22, mk.toNat), (16, rd.toNat), (0, mf.toNat)])
  | .vmov tk d a mk => some (pack tk 0x82 [(35, d.toNat), (30, a.toNat), (22, mk.toNat)])
  | .vmovg tk d a mk => some (pack tk 0x82 [(35, d.toNat), (30, a.toNat), (22, mk.toNat), (0, 1)])
  | .vbcr tk d a mk i => some (pack tk 0x83 [(35, d.toNat), (30, a.toNat), (22, mk.toNat), (0, i.toNat)])
  | .vbcc tk d a mk i => some (pack tk 0x83 [(35, d.toNat), (30, a.toNat), (22, mk.toNat), (6, 1), (0, i.toNat)])
  | .vrotr tk d a mk z k => some (pack tk 0x84 [(35, d.toNat), (30, a.toNat), (22, mk.toNat), (7, z.toNat), (0, k.toNat)])
  | .vrotc tk d a mk z k => some (pack tk 0x84 [(35, d.toNat), (30, a.toNat), (22, mk.toNat), (7, z.toNat), (6, 1), (0, k.toNat)])
  | .valu tk d a b mk ty rd sat op => some (pack tk 0x85 [(35, d.toNat), (30, a.toNat), (25, b.toNat), (22, mk.toNat), (19, ty.toNat), (16, rd.toNat), (4, sat.toNat), (0, op.toNat)])
  | .vfma tk d a b mk ty rd op => some (pack tk 0x86 [(35, d.toNat), (30, a.toNat), (25, b.toNat), (22, mk.toNat), (19, ty.toNat), (16, rd.toNat), (0, op.toNat)])
  | .vlogic tk d a b mk sh im op => some (pack tk 0x87 [(35, d.toNat), (30, a.toNat), (25, b.toNat), (22, mk.toNat), (5, sh.toNat), (4, im.toNat), (0, op.toNat)])
  | .vcmp tk d a b mk ty cond => some (pack tk 0x88 [(35, d.toNat), (30, a.toNat), (25, b.toNat), (22, mk.toNat), (19, ty.toNat), (0, cond.toNat)])
  | .vsel tk d a b mk => some (pack tk 0x89 [(35, d.toNat), (30, a.toNat), (25, b.toNat), (22, mk.toNat)])
  | .vredr tk d a mk ty rd bc op => some (pack tk 0x8A [(35, d.toNat), (30, a.toNat), (22, mk.toNat), (19, ty.toNat), (16, rd.toNat), (4, bc.toNat), (0, op.toNat)])
  | .vredc tk d a mk ty rd bc op => some (pack tk 0x8A [(35, d.toNat), (30, a.toNat), (22, mk.toNat), (19, ty.toNat), (16, rd.toNat), (4, bc.toNat), (3, 1), (0, op.toNat)])
  | .vscan tk d a mk ty rd ex axis op => some (pack tk 0x8B [(35, d.toNat), (30, a.toNat), (22, mk.toNat), (19, ty.toNat), (16, rd.toNat), (4, ex.toNat), (3, axis.toNat), (0, op.toNat)])
  | .vcvt tk d a mk ty rd dir code => some (pack tk 0x8C [(35, d.toNat), (30, a.toNat), (22, mk.toNat), (19, ty.toNat), (16, rd.toNat), (3, dir.toNat), (0, code.toNat)])
  | .vrcp tk d a mk => some (pack tk 0x8D [(35, d.toNat), (30, a.toNat), (22, mk.toNat)])
  | .vrsq tk d a mk => some (pack tk 0x8E [(35, d.toNat), (30, a.toNat), (22, mk.toNat)])
  | .vrcps tk d a b mk rd => some (pack tk 0x8F [(35, d.toNat), (30, a.toNat), (25, b.toNat), (22, mk.toNat), (16, rd.toNat)])
  | .vrsqs tk d a b mk rd => some (pack tk 0x90 [(35, d.toNat), (30, a.toNat), (25, b.toNat), (22, mk.toNat), (16, rd.toNat)])
  | .vexp2 tk d a mk => some (pack tk 0x91 [(35, d.toNat), (30, a.toNat), (22, mk.toNat)])
  | .vlog2 tk d a mk => some (pack tk 0x92 [(35, d.toNat), (30, a.toNat), (22, mk.toNat)])
  | .vmask tk d a b ty n op => some (pack tk 0x93 [(35, d.toNat), (30, a.toNat), (25, b.toNat), (19, ty.toNat), (5, n.toNat), (0, op.toNat)])
  | .vpopc tk d a mode => some (pack tk 0x94 [(35, d.toNat), (30, a.toNat), (0, mode.toNat)])
  | .vtog tk a ty src col row => some (pack tk 0x95 [(30, a.toNat), (19, ty.toNat), (10, src.toNat), (4, col.toNat), (0, row.toNat)])
  | .vmeanE tk d a mk => some (pack tk 0x96 [(35, d.toNat), (30, a.toNat), (22, mk.toNat)])
  | .vmeanM tk d a mk => some (pack tk 0x97 [(35, d.toNat), (30, a.toNat), (22, mk.toNat)])
  | .vmeanX tk d a mk => some (pack tk 0x98 [(35, d.toNat), (30, a.toNat), (22, mk.toNat)])
  | .vmtld tk a pair => some (pack tk 0x99 [(30, a.toNat), (0, pair.toNat)])
  | .vmsh tk d a mk => some (pack tk 0x9A [(35, d.toNat), (30, a.toNat), (22, mk.toNat)])
  | .vupd tk d a b mk ty rd gh => some (pack tk 0x9B [(35, d.toNat), (30, a.toNat), (25, b.toNat), (22, mk.toNat), (19, ty.toNat), (16, rd.toNat), (0, gh.toNat)])
  | .vkey tk d a mk ty hil three k gh => some (pack tk 0x9C [(35, d.toNat), (30, a.toNat), (22, mk.toNat), (19, ty.toNat), (11, hil.toNat), (10, three.toNat), (5, k.toNat), (0, gh.toNat)])
  | .chpush tk a rd fmt r c => some (pack tk 0x9D [(30, a.toNat), (16, rd.toNat), (8, fmt.toNat), (4, r.toNat), (0, c.toNat)])
  | .pdir tk g slot role => some (pack tk 0xA0 [(22, g.toNat), (10, slot.toNat), (9, role.toNat)])
  | .pload tk qa g rows slot => some (pack tk 0xA1 [(36, qa.toNat), (22, g.toNat), (13, rows.toNat), (10, slot.toNat)])
  | .pstore tk qb g rows slot rm => some (pack tk 0xA2 [(32, qb.toNat), (22, g.toNat), (13, rows.toNat), (10, slot.toNat), (0, rm.toNat)])
  | .pclr tk slot e => some (pack tk 0xA3 [(10, slot.toNat), (9, e.toNat)])
  | .mxnest tk g level => some (pack tk 0xA4 [(22, g.toNat), (0, level.toNat)])
  | .mxgo tk qa qb acc sr base n kc => some (pack tk 0xA5 [(36, qa.toNat), (32, qb.toNat), (30, acc.toNat), (27, sr.toNat), (16, base.toNat), (10, n.toNat), (4, kc.toNat)])
  | .mxrun tk qa qb acc sr g base n kc p => some (pack tk 0xA6 [(36, qa.toNat), (32, qb.toNat), (30, acc.toNat), (27, sr.toNat), (22, g.toNat), (16, base.toNat), (10, n.toNat), (4, kc.toNat), (3, p.toNat)])
  | .mxgrad tk qa qb qt n kx ky => some (pack tk 0xA7 [(36, qa.toNat), (32, qb.toNat), (18, qt.toNat), (12, n.toNat), (6, kx.toNat), (0, ky.toNat)])
  | .mxres tk => some (pack tk 0xA8 [])
  | .mxacl tk acc sr i => some (pack tk 0xA9 [(30, acc.toNat), (27, sr.toNat), (0, i.toNat)])
  | .mxacr tk qb acc dst vd all quarter i z rm => some (pack tk 0xAA [(32, qb.toNat), (30, acc.toNat), (21, dst.toNat), (16, vd.toNat), (15, all.toNat), (13, quarter.toNat), (12, i.toNat), (8, z.toNat), (0, rm.toNat)])
  | .mxstat tk sel => some (pack tk 0xAB [(0, sel.toNat)])
  | .fence tk sc kind => some (pack tk 0xC0 [(35, sc.toNat), (0, kind.toNat)])
  | .setf tk sc a b rem flag => some (pack tk 0xC1 [(35, sc.toNat), (30, a.toNat), (25, b.toNat), (6, rem.toNat), (0, flag.toNat)])
  | .addf tk sc a b rem flag => some (pack tk 0xC2 [(35, sc.toNat), (30, a.toNat), (25, b.toNat), (6, rem.toNat), (0, flag.toNat)])
  | .waitf tk sc b flag => some (pack tk 0xC3 [(35, sc.toNat), (25, b.toNat), (0, flag.toNat)])
  | .tktTake tk sc a d => some (pack tk 0xC4 [(35, sc.toNat), (30, a.toNat), (20, d.toNat)])
  | .tktWait tk sc a b => some (pack tk 0xC5 [(35, sc.toNat), (30, a.toNat), (25, b.toNat)])
  | .tktDone tk sc a => some (pack tk 0xC6 [(35, sc.toNat), (30, a.toNat)])
  | .aadd tk sc a b d ty ord => some (pack tk 0xC7 [(35, sc.toNat), (30, a.toNat), (25, b.toNat), (20, d.toNat), (12, ty.toNat), (10, ord.toNat)])
  | .amin tk sc a b d ty ord => some (pack tk 0xC8 [(35, sc.toNat), (30, a.toNat), (25, b.toNat), (20, d.toNat), (12, ty.toNat), (10, ord.toNat)])
  | .amax tk sc a b d ty ord => some (pack tk 0xC9 [(35, sc.toNat), (30, a.toNat), (25, b.toNat), (20, d.toNat), (12, ty.toNat), (10, ord.toNat)])
  | .acas tk sc a b d c ty ord => some (pack tk 0xCA [(35, sc.toNat), (30, a.toNat), (25, b.toNat), (20, d.toNat), (15, c.toNat), (12, ty.toNat), (10, ord.toNat)])
  | .aswp tk sc a b d ty ord => some (pack tk 0xCB [(35, sc.toNat), (30, a.toNat), (25, b.toNat), (20, d.toNat), (12, ty.toNat), (10, ord.toNat)])
  | .scope tk sc a => some (pack tk 0xCC [(35, sc.toNat), (30, a.toNat)])
  | .rpop tk d which => some (pack tk 0xCD [(35, d.toNat), (0, which.toNat)])
  | .comm tk sc a d c => some (pack tk 0xCE [(35, sc.toNat), (30, a.toNat), (20, d.toNat), (0, c.toNat)])
  | .commDel tk d c => some (pack tk 0xCE [(20, d.toNat), (4, 1), (0, c.toNat)])
  | .coll tk a => some (pack tk 0xCF [(30, a.toNat)])
  | .cwait tk d p c => some (pack tk 0xD0 [(20, d.toNat), (4, p.toNat), (0, c.toNat)])
  | .repart tk a => some (pack tk 0xD1 [(30, a.toNat)])
  | .vxfer tk a dir kind r n => some (pack tk 0xD2 [(30, a.toNat), (24, dir.toNat), (23, kind.toNat), (5, r.toNat), (0, n.toNat)])
  | .pgreqOff tk unit => some (pack tk 0xD3 [(0, unit.toNat)])
  | .pgreqOn tk unit => some (pack tk 0xD3 [(4, 1), (0, unit.toNat)])
  | .tide tk v => some (pack tk 0xD4 [(0, v.toNat)])
  | .tlbinvComplete _ => none
  | .commandPush _ _ => none
  | .queueRoomResume _ => none
  | .tlbPinResume _ => none
  | .pendingFetchRelease _ => none
  | .engineCommandStart _ _ => none
  | .commandRetire _ _ => none
  | .heldPushRelease _ _ => none
  | .huskRetire _ _ => none
  | .mxRowCommit _ => none
  | .flagWaitSatisfied _ => none
  | .ticketWaitSatisfied _ => none
  | .resultFifoArrival _ => none
  | .commComplete _ _ => none
  | .collRecordStart _ => none
  | .chunkArrival _ => none
  | .collRecordRetire _ => none
  | .cwaitSatisfied _ => none
  | .repartRetire _ => none
  | .vxferRetire _ => none
  | .gateOff _ _ => none
  | .unitWakeComplete _ _ => none
  | .tideHalfBoundary => none
  | .launchWindowWrite _ _ _ => none
  | .lessonRecordCheck _ => none
  | .reservationAttempt _ => none
  | .backoffExpiry _ _ => none
  | .residencyReport _ _ _ => none
  | .lessonStart _ _ => none
  | .lessonCopyFault _ _ _ => none
  | .lessonRetire _ _ => none
  | .completionPop _ => none
  | .ovfClear _ => none
  | .registerWrite _ _ => none
  | .timeSliceExpiry _ => none
  | .contextStreamComplete _ _ _ => none
  | .registrarTakeover => none
  | .trapEntry _ => none
  | .waitstuck _ _ => none
  | .stopRequest _ => none
  | .breakpointHit _ => none
  | .stopComplete _ => none
  | .stopResume _ => none
  | .freeze => none
  | .deviceReset => none
  | .ptmRefresh _ => none
  | .thermalThrottle _ _ _ => none
  | .ringPoll _ => none
  | .ocreate _ => none
  | .odestroy _ => none
  | .olife _ => none
  | .scrub _ => none
  | .spare _ => none
  | .caprep _ => none
  | .therm _ => none
  | .reten _ => none
  | .scan _ => none
  | .trace _ => none
  | .bind _ => none
  | .retire _ => none
  | .coreSpareMap _ => none
  | .t2off _ => none
  | .t2on _ => none
  | .fwsw _ => none
  | .firmwareSwitch _ => none
  | .attestationRequest _ => none
  | .flitCrcFail _ => none
  | .laneFailure _ => none
  | .rowAutoSpare _ _ _ => none
  | .supervisorLessonEnd _ _ _ => none
  | .storePerformed _ => none
  | .remoteLoadReturn _ => none
  | .laneRetrainComplete _ => none
  | .hostLinkTraining _ _ => none
  | .powerRemoval => none
  | .powerRailFault _ _ => none
  | .memorySoftError _ _ => none

/-- The reserved functions of R97 and the functions the opcode map of R96 gives, by class. -/
def functionCount (cls : Nat) : Nat :=
  match cls with
  | 0 => 32
  | 1 => 22
  | 2 => 6
  | 3 => 5
  | 4 => 30
  | 5 => 12
  | 6 => 21
  | _ => 0

/-- The scanner (R98): 0 for a legal word, else the lowest reason code whose condition the word meets. A bit outside the
fields of the instruction makes the word differ from its re-encoding, which is code 4. -/
def scanNat (w : Nat) : Nat :=
  if nfield w 45 3 = 7 then 1
  else if functionCount (nfield w 45 3) ≤ nfield w 40 5 then 2
  else if nfield w 56 4 ≠ 0 ∨ nfield w 48 4 ≠ 0 then 3
  else match rawDecode w with
    | none => 7
    | some i => if encodeNat i ≠ some w then 4 else reasonOf i

/-- The decoder on a word as a number: the instruction of a legal word, none for every other word (R98, R103). -/
def decodeNat (w : Nat) : Option Instr :=
  match rawDecode w with
  | none => none
  | some i => if encodeNat i = some w ∧ reasonOf i = 0 then some i else none

/-- The decoder on an instruction word. -/
def decode (w : W64) : Option Instr := decodeNat w.toNat

/-- The scanner on an instruction word. -/
def scan (w : W64) : Nat := scanNat w.toNat

/-- The encoder: the word of an instruction word row, none for a step or an event. -/
def encode (i : Instr) : Option W64 := (encodeNat i).map (BitVec.ofNat 64)

/-- The eight bytes of a word as memory holds it, little-endian (R3, R87). -/
def wordBytes (w : W64) : List Byte := (List.range 8).map fun k => (w >>> (8 * k)).setWidth 8

/-- The word that bytes in ascending addresses hold, little-endian (R3). -/
def bytesNat : List Byte → Nat
  | [] => 0
  | b :: bs => b.toNat + 256 * bytesNat bs

/-- The decoder on bytes in ascending addresses: an instruction and the rest of the bytes, none when fewer than eight
bytes are there or the word is illegal. -/
def decodeBytes (bs : List Byte) : Option (Instr × List Byte) :=
  if bs.length < 8 then none
  else (decodeNat (bytesNat (bs.take 8))).map fun i => (i, bs.drop 8)

/-- The instruction read from a row of the opcode table whose bits are w (bit 0 the least significant bit of the first
byte): the word is laid out little-endian and given to the decoder; bits above nbits are zero. -/
def decodeTableWord (nbits w : Nat) : Option Instr :=
  (decodeBytes (wordBytes (BitVec.ofNat 64 (w % 2 ^ nbits)))).map (·.1)

end Sys2Proof
end

