-- ==== Sys2Proof/Machine/Estimates.lean ====
section
/-! DEFINITION. The estimate functions of the vector engine and the refinement helpers (R81 to R85), on F32 encodings. -/

namespace Sys2Proof.Machine

/-- F32's canonical NaN and infinities (R65). -/
def nan32 : Nat := 0x7FC00000
def inf32 (neg : Bool) : Nat := F32.signed neg F32.infBits

/-- norm(a): sign, fraction f and exponent e of a finite non-zero value, as s·(1 + f/2^23)·2^e; f is a whole number for
every F32 value. -/
def norm32 (q : Rat) : Bool × Nat × Int :=
  let a := if q < 0 then -q else q
  let e := floorLog2 a
  (decide (q < 0), ((a / pow2 e - 1) * pow2 23).floor.toNat, e)

/-- nearest(y) for a positive rational that is not halfway between two integers. -/
def nearestNat (n d : Nat) : Nat := (2 * n + d) / (2 * d)

/-- rcp_est (R81). -/
def rcpEst (bits : Nat) : Nat × Flags :=
  match decodeF F32 bits with
  | .nan => (nan32, 0)
  | .zero s => (inf32 s, fDivZero)
  | .inf s => (F32.signed s 0, 0)
  | .fin q =>
    let (s, f, e) := norm32 q
    let i := f / 2 ^ 15
    let t := nearestNat (2 ^ 21) (513 + 2 * i) - 2048
    let x := -e - 1
    if 127 < x then (inf32 s, fOverflow)
    else
      let v := (1 + mkRat t 2048) * pow2 x
      ((roundTo F32 (.fin (if s then -v else v)) 0).1, 0)

/-- nearest(sqrt(n/d)·c): the whole number next to c·sqrt(n/d), for a value never halfway. -/
def nearestSqrt (n d c : Nat) : Nat :=
  let r := intRoot (c * c * n / d)
  if (2 * r + 1) * (2 * r + 1) * d ≤ 4 * c * c * n then r + 1 else r

/-- rsq_est (R82). -/
def rsqEst (bits : Nat) : Nat × Flags :=
  match decodeF F32 bits with
  | .nan => (nan32, 0)
  | .zero s => (inf32 s, fDivZero)
  | .inf s => if s then (nan32, fInvalid) else (0, 0)
  | .fin q =>
    if q < 0 then (nan32, fInvalid)
    else
      let (_, f, e) := norm32 q
      let p := e % 2
      let j := f / 2 ^ 16
      let t := nearestSqrt 1 (2 ^ p.toNat * (257 + 2 * j)) (2 ^ 16) - 2048
      ((roundTo F32 (.fin ((1 + mkRat t 2048) * pow2 (-((e - p) / 2) - 1))) 0).1, 0)

/-- Points 0 to 63 of lt. -/
def ltPart0 : List Nat :=
  [0, 94364, 188362, 281996, 375270, 468185, 560745, 652952, 744810, 836320, 927485, 1018309,
   1108793, 1198939, 1288752, 1378232, 1467383, 1556207, 1644705, 1732882, 1820738, 1908277, 1995500, 2082410,
   2169009, 2255299, 2341283, 2426963, 2512340, 2597417, 2682196, 2766679, 2850868, 2934766, 3018374, 3101694,
   3184728, 3267478, 3349946, 3432134, 3514044, 3595678, 3677038, 3758124, 3838941, 3919488, 3999768, 4079782,
   4159533, 4239023, 4318251, 4397222, 4475935, 4554394, 4632599, 4710552, 4788255, 4865709, 4942916, 5019878,
   5096595, 5173071, 5249305, 5325300]
/-- Points 64 to 127 of lt. -/
def ltPart1 : List Nat :=
  [5401057, 5476578, 5551864, 5626916, 5701737, 5776327, 5850688, 5924821, 5998727, 6072409, 6145867, 6219103,
   6292118, 6364913, 6437490, 6509850, 6581994, 6653924, 6725641, 6797146, 6868440, 6939525, 7010402, 7081072,
   7151536, 7221795, 7291852, 7361706, 7431359, 7500812, 7570066, 7639123, 7707984, 7776649, 7845119, 7913397,
   7981483, 8049377, 8117082, 8184598, 8251926, 8319067, 8386022, 8452793, 8519380, 8585785, 8652008, 8718050,
   8783912, 8849596, 8915102, 8980431, 9045584, 9110562, 9175366, 9239998, 9304457, 9368745, 9432863, 9496811,
   9560591, 9624203, 9687648, 9750928]
/-- Points 128 to 191 of lt. -/
def ltPart2 : List Nat :=
  [9814042, 9876993, 9939780, 10002404, 10064867, 10127170, 10189312, 10251295, 10313120, 10374787, 10436298, 10497652,
   10558852, 10619897, 10680789, 10741528, 10802114, 10862550, 10922835, 10982970, 11042956, 11102794, 11162484, 11222028,
   11281425, 11340677, 11399784, 11458748, 11517568, 11576245, 11634780, 11693175, 11751428, 11809542, 11867517, 11925353,
   11983051, 12040612, 12098037, 12155325, 12212479, 12269497, 12326382, 12383133, 12439752, 12496238, 12552593, 12608817,
   12664911, 12720875, 12776710, 12832416, 12887994, 12943445, 12998770, 13053968, 13109041, 13163988, 13218811, 13273511,
   13328087, 13382540, 13436871, 13491080]
/-- Points 192 to 255 of lt. -/
def ltPart3 : List Nat :=
  [13545168, 13599135, 13652983, 13706711, 13760320, 13813810, 13867183, 13920438, 13973576, 14026597, 14079503, 14132294,
   14184969, 14237530, 14289978, 14342312, 14394532, 14446641, 14498638, 14550523, 14602297, 14653961, 14705514, 14756958,
   14808293, 14859519, 14910637, 14961648, 15012551, 15063347, 15114037, 15164621, 15215099, 15265473, 15315742, 15365906,
   15415967, 15465925, 15515779, 15565531, 15615181, 15664730, 15714177, 15763523, 15812769, 15861915, 15910962, 15959909,
   16008758, 16057508, 16106160, 16154714, 16203172, 16251532, 16299796, 16347964, 16396036, 16444013, 16491896, 16539683,
   16587377, 16634976, 16682482, 16729896]
/-- Points 256 to 256 of lt. -/
def ltPart4 : List Nat :=
  [16777216]

/-- lt(k) = nearest(2^24·log2(1 + k/256)), k = 0 to 256, tabulated from that closed form (R83). -/
def lt (k : Nat) : Nat := (ltPart0 ++ ltPart1 ++ ltPart2 ++ ltPart3 ++ ltPart4).getD k 0

/-- log2_est (R83). -/
def log2Est (bits : Nat) : Nat × Flags :=
  match decodeF F32 bits with
  | .nan => (nan32, 0)
  | .zero _ => (inf32 true, fDivZero)
  | .inf s => if s then (nan32, fInvalid) else (inf32 false, 0)
  | .fin q =>
    if q < 0 then (nan32, fInvalid)
    else
      let (_, f, e) := norm32 q
      let j := f / 2 ^ 15
      let r := f % 2 ^ 15
      let y : Nat := lt j + (lt (j + 1) - lt j) * r / 2 ^ 15
      ((roundTo F32 (Num.ofRat false ((e : Rat) + mkRat y (2 ^ 24))) 0).1, 0)

/-- Whether 2n − 1 is below 2^24·2^(k/256): the exact form of n ≤ nearest(2^23·2^(k/256)). -/
def xtLe (k n : Nat) : Bool := decide (n = 0 ∨ (2 * n - 1) ^ 256 ≤ 2 ^ (24 * 256 + k))
/-- The greatest n in [lo, lo + 2^b) with xtLe. -/
def xtSearch (k : Nat) : Nat → Nat → Nat
  | 0, lo => lo
  | b + 1, lo => if xtLe k (lo + 2 ^ b) then xtSearch k b (lo + 2 ^ b) else xtSearch k b lo
/-- xt(k) = nearest(2^23·2^(k/256)), k = 0 to 256 (R84). -/
def xt (k : Nat) : Nat := xtSearch k 25 0

/-- exp2_est (R84). -/
def exp2Est (bits : Nat) : Nat × Flags :=
  match decodeF F32 bits with
  | .nan => (nan32, 0)
  | .inf s => if s then (0, 0) else (inf32 false, 0)
  | .zero _ => (0x3F800000, 0)
  | .fin a =>
    if 128 ≤ a then (inf32 false, fOverflow)
    else if a < -150 then (0, fUnderflow)
    else
      let n := a.floor
      let h := ((a - n) * pow2 23).floor.toNat
      let j := h / 2 ^ 15
      let r := h % 2 ^ 15
      let m : Nat := xt j + (xt (j + 1) - xt j) * r / 2 ^ 15
      let (b, fl) := roundTo F32 (.fin ((m : Rat) * pow2 (n - 23))) 0
      (b, fl &&& fUnderflow)

/-- Whether two values are an infinity and a zero (R85). -/
def infTimesZero (a x : Num) : Bool :=
  match a, x with
  | .inf _, .zero _ => true
  | .zero _, .inf _ => true
  | _, _ => false

/-- rcps (R85): 2 − a·x. -/
def rcps (a x rm : Nat) : Nat × Flags :=
  let p := decodeF F32 a
  let q := decodeF F32 x
  if infTimesZero p q then (0x40000000, 0) else ffma F32 p.negate q (.fin 2) rm

/-- rsqs (R85): (3 − a·x·x)/2, exact inside, rounded once. -/
def rsqs (a x rm : Nat) : Nat × Flags :=
  let p := decodeF F32 a
  let q := decodeF F32 x
  if infTimesZero p q then (0x3FC00000, 0)
  else
    let (ax, f1) := p.mul q
    let (axx, f2) := ax.mul q
    let (d, f3) := (Num.fin 3).add rm axx.negate
    let half := match d with | .fin r => .fin (r / 2) | d => d
    rounded F32 (half, f1 ||| f2 ||| f3) rm

end Sys2Proof.Machine
end

