-- ==== Sys2Proof/Machine/Mean.lean ====
section
/-! DEFINITION. The transformed-mean reduction: shapes, pairs, entry and exit functions, rescaling, domain and the element
steps of VMEAN, VMSH, VMTLD and of a merge at a bank controller (R244 to R258). -/

namespace Sys2Proof.Machine

/-! ## Pairs (R246 to R248) -/

/-- The kinds of a pair: 0 power, 1 logarithmic, 2 general, 3 extreme; SYM: 0 none, 1 odd, 2 even (R246). -/
def pairKind (attr : W64) : Nat := bits attr.toNat 1 0
def pairSym (attr : W64) : Nat := bits attr.toNat 3 2

/-- round_rne(F32, (k/256)^q) for a whole q (R248). -/
def powPoint (k q : Nat) : Nat := (roundTo F32 (Num.ofRat false (mkRat k 256 ^ q)) 0).1

/-- Whether t, a whole number, is at most one half above the q-th root of r: 2t − 1 ≤ 2·r^(1/q). -/
def rootLe (r : Rat) (q t : Nat) : Bool := decide (t = 0 ∨ ((2 * t - 1 : Nat) : Rat) ^ q ≤ r * ((2 ^ q : Nat) : Rat))
/-- The greatest t in [lo, lo + 2^b) with rootLe: the whole number next to the root. -/
def rootSearch (r : Rat) (q : Nat) : Nat → Nat → Nat
  | 0, lo => lo
  | b + 1, lo => if rootLe r q (lo + 2 ^ b) then rootSearch r q b (lo + 2 ^ b) else rootSearch r q b lo
/-- round_rne(F32, (k/256)^(1/q)) for a whole q (R248): the significand next to the root in its binade. -/
def rootPoint (k q : Nat) : Nat :=
  if k = 0 then 0
  else
    let x := mkRat k 256
    let e := floorLog2 x / (q : Int)
    let t := rootSearch (x * pow2 ((23 - e) * q)) q 25 0
    (roundTo F32 (.fin ((t : Rat) * pow2 (e - 23))) 0).1

/-- The exponent of a standard power pair as (numerator, denominator): q or 1/q (R248). -/
def stdExp (pair : Nat) : Option (Nat × Nat) :=
  match pair with
  | 0 => some (1, 1)
  | 1 => some (1, 2)
  | 2 => some (1, 4)
  | 3 => some (1, 8)
  | 5 => some (1, 8)
  | 6 => some (1, 4)
  | 7 => some (1, 2)
  | 8 => some (1, 1)
  | 9 => some (2, 1)
  | 10 => some (3, 1)
  | 11 => some (4, 1)
  | 12 => some (6, 1)
  | 13 => some (8, 1)
  | 14 => some (16, 1)
  | _ => none

/-- The attribute of a standard pair (R248). -/
def stdAttr (pair : Nat) : W64 :=
  match pair with
  | 4 => 1
  | 8 => 4
  | 9 => 8
  | 10 => 4
  | 11 => 8
  | 12 => 8
  | 13 => 8
  | 14 => 8
  | 15 => 3
  | _ => 0

/-- Point k of the entry or exit table of a standard pair (R248). -/
def stdPoint (pair k : Nat) (exit : Bool) : Nat :=
  match stdExp pair with
  | none => 0
  | some (a, b) =>
    let (p, r) := if exit then (b, a) else (a, b)
    if r = 1 then powPoint k p else rootPoint k r

/-- A pair as a command uses it: loaded by VMTLD or standard. -/
structure Pair where
  num : Nat
  loaded : Option MeanPair
deriving DecidableEq, Repr
def Ctx.pair (x : Ctx) (n : Nat) : Pair := ⟨n, (x.bank.find? (·.1 = n)).map (·.2)⟩
def Pair.attr (p : Pair) : W64 := match p.loaded with | some m => m.attr | none => stdAttr p.num
def Pair.kind (p : Pair) : Nat := pairKind p.attr
def Pair.sym (p : Pair) : Nat := pairSym p.attr
def Pair.point (p : Pair) (exit : Bool) (k : Nat) : Nat :=
  match p.loaded with
  | some m => ((if exit then m.exit else m.entry).getD k 0).toNat
  | none => stdPoint p.num k exit

/-- eval(T, u) for an exact u in [0, 1], rounded once (R247). -/
def Pair.eval (p : Pair) (exit : Bool) (u : Rat) : Nat :=
  if 1 ≤ u then p.point exit 256
  else
    let j := (256 * u).floor.toNat
    let g := 256 * u - j
    let a := (decodeF F32 (p.point exit j)).toRat
    let b := (decodeF F32 (p.point exit (j + 1))).toRat
    (roundTo F32 (Num.ofRat false (a + (b - a) * g)) 0).1

/-- The encoding with its sign inverted. -/
def flipSign (b : Nat) : Nat := (roundTo F32 (decodeF F32 b).negate 0).1

/-- F(u) (R247): the lookups raise no flag. -/
def Pair.entryF (p : Pair) (u : Rat) : Nat :=
  if p.kind = 1 then (log2Est (roundTo F32 (Num.ofRat false u) 0).1).1
  else if u < 0 then (if p.sym = 1 then flipSign (p.eval false (-u)) else p.eval false (-u))
  else p.eval false u

/-- G(v) of an exact value (R247). -/
def Pair.exitG (p : Pair) (v : Num) : Nat :=
  match v with
  | .nan => nan32
  | v =>
    if p.kind = 1 then (exp2Est (roundTo F32 v 0).1).1
    else
      let q := match v with | .inf n => (if n then -1 else 1) | v => v.toRat
      let q := max (if p.sym = 0 then 0 else -1) (min q 1)
      if q < 0 then (if p.sym = 1 then flipSign (p.eval true (-q)) else p.eval true (-q)) else p.eval true q

/-! ## Shape (R245) -/

def shPair (sh : W64) : Nat := bits sh.toNat 3 0
def shDir (sh : W64) : Bool := sh.getLsbD 4
def shFixed (sh : W64) : Bool := sh.getLsbD 5
def shExclude (sh : W64) : Bool := sh.getLsbD 6
def shMref (sh : W64) : Nat := bits sh.toNat 63 32

/-- A mean state (R244): count, and the encodings of scale and sum. -/
structure MeanState where
  n : Nat
  m : Nat
  s : Nat
deriving DecidableEq, Repr

/-- sat_n(n, 32) of a count (R244). -/
def satCount (n : Nat) : Nat := min n (2 ^ 32 - 1)

/-- The exact quotient of two values as a ratio in R249 and R252: 0 over anything, and 1 for equal infinities. -/
def ratio (a b : Num) : Rat :=
  match a, b with
  | .inf p, .inf q => if p = q then 1 else -1
  | .fin p, .fin q => p / q
  | _, _ => 0

/-- rscl (R249): power pairs multiply by F(r), the logarithmic pair adds n·F(r). -/
def Pair.rescale (p : Pair) (s n : Nat) (r : Rat) : Nat × Flags :=
  let f := p.entryF r
  if p.kind = 1 then
    let v := (Num.ofInt n).mul (decodeF F32 f)
    let t := (decodeF F32 s).add 0 v.1
    rounded F32 (t.1, t.2) 0
  else fmul F32 s f 0

/-- Whether value a is more extreme than b: larger under DIR 0, smaller under DIR 1. -/
def moreExtreme (dir : Bool) (a b : Num) : Bool := !a.eqv b && (if dir then a.lt b else b.lt a)

/-- R250, the tests on the shape: a general pair under running scale; an MREF that is not finite and positive. -/
def shapeBad (p : Pair) (sh : W64) : Bool :=
  p.kind != 3 && (if shFixed sh then
      (match decodeF F32 (shMref sh) with | .fin q => decide (q < 0) | _ => true)
    else p.kind == 2)
/-- R250, the tests on a reference of a non-empty state: NaN, or not MREF under fixed scale. -/
def refBad (p : Pair) (sh : W64) (m : Nat) : Bool :=
  decide (decodeF F32 m = .nan) || (p.kind != 3 && shFixed sh && m != shMref sh)

/-- fmin or fmax of two encodings. -/
def fmm (dir : Bool) (a b : Nat) : Nat :=
  (roundTo F32 (if dir then (decodeF F32 a).fmin (decodeF F32 b) else (decodeF F32 a).fmax (decodeF F32 b)) 0).1

/-- VMEAN.E on one state (R252); none for a domain violation (R250). -/
def meanTake (p : Pair) (sh : W64) (st : MeanState) (x : Nat) : Option (MeanState × Flags) :=
  let dir := shDir sh
  let v := decodeF F32 x
  let neg := v.neg? && !v.isZero
  if v = .nan ∨ (st.n ≠ 0 ∧ refBad p sh st.m) then none
  else if p.kind = 3 then
    some (⟨satCount (st.n + 1), if st.n = 0 then x else fmm dir st.m x, if st.n = 0 then 0 else st.s⟩, 0)
  else if (dir && (neg || v.isZero)) || (p.sym == 0 && neg) || shapeBad p sh
      || (shFixed sh && (if dir then v.abs.lt (decodeF F32 (shMref sh)) && !v.abs.eqv (decodeF F32 (shMref sh))
            else moreExtreme false v.abs (decodeF F32 (shMref sh)))) then none
  else
    let a := (roundTo F32 v.abs 0).1
    let s0 := if st.n = 0 then 0 else st.s
    let (m, s, f1) :=
      if shFixed sh then (shMref sh, s0, (0 : Flags))
      else if st.n = 0 then (a, s0, 0)
      else
        let mo := decodeF F32 st.m
        if moreExtreme dir v.abs mo then
          let (s', f) := p.rescale s0 st.n (if dir then ratio v.abs mo else ratio mo v.abs)
          (a, s', f)
        else (st.m, s0, 0)
    let mv := decodeF F32 m
    let u := if dir then ratio mv v else if mv.isZero then 0 else ratio v mv
    let (s2, f2) := fadd F32 s (p.entryF u) 0
    some (⟨satCount (st.n + 1), m, s2⟩, f1 ||| f2)

/-- VMEAN.M: state b merged into a (R253); none for a domain violation. -/
def meanMerge (p : Pair) (sh : W64) (a b : MeanState) : Option (MeanState × Flags) :=
  let dir := shDir sh
  if b.n = 0 then some (a, 0)
  else if (decide (a.n ≠ 0) && refBad p sh a.m) || refBad p sh b.m || shapeBad p sh then none
  else if a.n = 0 then some (b, 0)
  else if p.kind = 3 then some (⟨satCount (a.n + b.n), fmm dir a.m b.m, a.s⟩, 0)
  else
    let am := decodeF F32 a.m
    let bm := decodeF F32 b.m
    if am.eqv bm then
      let (s, f) := fadd F32 a.s b.s 0
      some (⟨satCount (a.n + b.n), a.m, s⟩, f)
    else if p.kind = 2 then none
    else
      let aHigh := moreExtreme dir am bm
      let r := if aHigh then (if dir then ratio am bm else ratio bm am) else (if dir then ratio bm am else ratio am bm)
      let (l, f1) := if aHigh then p.rescale b.s b.n r else p.rescale a.s a.n r
      let (s, f2) := if aHigh then fadd F32 a.s l 0 else fadd F32 l b.s 0
      some (⟨satCount (a.n + b.n), if aHigh then a.m else b.m, s⟩, f1 ||| f2)

/-- m/g (R254): a positive m over a zero is +∞ and raises DIVZERO. -/
def meanDivide (m g : Num) : Nat × Flags :=
  if g.isZero ∧ Num.lt (.zero false) m then (F32.infBits, fDivZero) else rounded F32 (m.div g) 0

/-- VMEAN.X on one state (R254); none for a domain violation of a non-empty state (R250, log 19). -/
def meanExit (p : Pair) (sh : W64) (st : MeanState) : Option (Nat × Flags) :=
  if st.n = 0 then some (nan32, fInvalid)
  else if refBad p sh st.m || shapeBad p sh then none
  else if p.kind = 3 then some (st.m, 0)
  else
    let q := match decodeF F32 st.s with | .fin r => .fin (r / (st.n : Rat)) | v => v
    let g := p.exitG q
    some (if shDir sh then meanDivide (decodeF F32 st.m) (decodeF F32 g) else fmul F32 st.m g 0)

/-- VMSH on one state (R255); none for a domain violation. -/
def meanShift (p : Pair) (sh : W64) (st : MeanState) (t : Nat) : Option (MeanState × Flags) :=
  let dir := shDir sh
  if st.n = 0 ∨ p.kind = 3 then some (st, 0)
  else
    let v := decodeF F32 t
    let neg := v.neg? && !v.isZero
    let mv := decodeF F32 st.m
    if v = .nan ∨ neg ∨ (dir ∧ v.isZero) ∨ refBad p sh st.m ∨ shapeBad p sh then none
    else if !moreExtreme dir v mv then some (st, 0)
    else if p.kind = 2 then none
    else
      let (s, f) := p.rescale st.s st.n (if dir then ratio v mv else ratio mv v)
      some (⟨st.n, t, s⟩, f)

/-- The merge at a bank controller (R258): one that R250 forbids sums n, keeps the destination's m and leaves s the canonical
NaN. -/
def meanMergeAt (p : Pair) (sh : W64) (a b : MeanState) : MeanState :=
  match meanMerge p sh a b with
  | some (r, _) => r
  | none => ⟨satCount (a.n + b.n), a.m, nan32⟩

/-- VMTLD's pair from the elements of a register, or the first offending element (R256). -/
def loadPair (els : List W32) : Except Nat MeanPair :=
  let e := els.take 257
  let x := (els.drop 257).take 257
  let attr : W32 := els.getD 514 0
  let attrBad := decide (attr.toNat / 16 ≠ 0) || decide (bits attr.toNat 3 2 = 3)
  let tables := bits attr.toNat 1 0 = 0 ∨ bits attr.toNat 1 0 = 2
  let badAt (t : List W32) (base : Nat) : Option Nat :=
    ((List.range 257).find? fun k =>
      let v := decodeF F32 (t.getD k 0).toNat
      v.notFinite || (decide (0 < k) && (let u := decodeF F32 (t.getD (k - 1) 0).toNat; !u.notFinite && v.lt u && !v.eqv u))).map (base + ·)
  let bad := if tables then (badAt e 0).or (badAt x 257) else none
  match bad, attrBad with
  | some k, _ => .error k
  | none, true => .error 514
  | none, false => .ok ⟨e, x, attr.setWidth 64⟩

end Sys2Proof.Machine
end

