-- ==== Sys2Proof/Machine/Control.lean ====
section
/-! DEFINITION. Class 001: branches, scalar loads and stores, system registers, traps, queue control, context switch, TLB
invalidation and stream registers (R113 to R132). -/

namespace Sys2Proof.Machine

/-! ## Branches (R113, R114) -/

/-- The target PC + sext(off, 26) (R94). -/
def Ctx.target (x : Ctx) (off : BitVec 26) : W64 := x.pc + sx off

/-- BR.cond (R113). -/
def execBr (tk : Tok) (a b : BitVec 5) (cc : BitVec 4) (off : BitVec 26) (s : State) : Host.Outcome State Fault Refusal :=
  ccInstr tk (fun s => .done s (if condBr cc (s.ctx.rg a) (s.ctx.rg b) then s.ctx.target off else s.ctx.pc + 1)) s
/-- JMP (R113). -/
def execJmp (tk : Tok) (off : BitVec 26) (s : State) : Host.Outcome State Fault Refusal :=
  ccInstr tk (fun s => .done s (s.ctx.target off)) s
/-- CALL (R113). -/
def execCall (tk : Tok) (off : BitVec 26) (s : State) : Host.Outcome State Fault Refusal :=
  ccInstr tk (fun s => .done (s.setCtx (s.ctx.setG 30 (s.ctx.pc + 1))) (s.ctx.target off)) s
/-- JR (R113): ga is read before gd is written. -/
def execJr (tk : Tok) (d a : BitVec 5) (s : State) : Host.Outcome State Fault Refusal :=
  ccInstr tk (fun s => .done (s.setCtx (s.ctx.setG d (s.ctx.pc + 1))) (s.ctx.rg a)) s
/-- LOOP (R113): a non-zero counter is decremented; the branch is taken while it stays non-zero. -/
def execLoop (tk : Tok) (lc : BitVec 5) (off : BitVec 26) (s : State) : Host.Outcome State Fault Refusal :=
  ccInstr tk (fun s =>
    let x := s.ctx
    let n := snLC0 + lc.toNat % 4
    let v := if x.sr n = 0 then 0 else x.sr n - 1
    .done (s.setCtx (x.setSr n v)) (if v != 0 then x.target off else x.pc + 1)) s

/-! ## Scalar loads and stores (R116 to R118) -/

/-- Bytes of a size code of LD and ST (R116). -/
def sizeOf (size : BitVec 3) : Nat := 2 ^ (size.toNat % 4)
/-- The value a load writes: zero-extended for codes 0 to 3, sign-extended for 4 to 6 (R116). -/
def loadValue (size : BitVec 3) (bs : List Byte) : W64 :=
  if size.toNat < 4 then BitVec.ofNat 64 (leNat bs) else BitVec.ofInt 64 (sextNat (leNat bs) (8 * bs.length))
/-- The address of LD and ST (R116). -/
def Ctx.scalarAddr (x : Ctx) (a b : BitVec 5) (off : BitVec 16) : W64 := x.rg a + x.rg b + sx off

/-- LD: an own-window load completes; the value of any other returns by REMOTE_LOAD_RETURN, which stalls the control core
until then (R116 to R118). -/
def ldBody (d a b : BitVec 5) (size : BitVec 3) (off : BitVec 16) (returned : Bool) (s : State) : Act :=
  let adr := s.ctx.scalarAddr a b off
  match s.access s.cur adr.toNat (sizeOf size) false false (sizeOf size) with
  | .trap cause addr sub => fault cause addr sub
  | .wait k o => .wait k o
  | .place s' p own _ =>
    if own || returned then
      .done (s'.setCtx (s'.ctx.setG d (loadValue size (s'.bytes p (sizeOf size))))) (s'.ctx.pc + 1)
    else .wait .remoteLoad adr.toNat
/-- LD (R116). -/
def execLd (tk : Tok) (d a b : BitVec 5) (size : BitVec 3) (off : BitVec 16) (s : State) :
    Host.Outcome State Fault Refusal :=
  ccInstr tk (ldBody d a b size off false) s

/-- ST: an own-window store is performed at once; any other enters the store path, which holds 16; a read-only region
ignores it (R116 to R118). -/
def stBody (d a b : BitVec 5) (size : BitVec 3) (off : BitVec 16) (s : State) : Act :=
  let adr := s.ctx.scalarAddr a b off
  let bs := (natLe 8 (s.ctx.rg d).toNat).take (sizeOf size)
  match s.access s.cur adr.toNat (sizeOf size) true false (sizeOf size) with
  | .trap cause addr sub => fault cause addr sub
  | .wait k o => .wait k o
  | .place s' p own wr =>
    if !wr then .done s' (s'.ctx.pc + 1)
    else if own then .done ((s'.store p bs).noteFlag p (s.cur * 8)) (s'.ctx.pc + 1)
    else if 16 ≤ s'.ctx.path.length then .wait .storeRoom adr.toNat
    else .done (s'.setCtx { s'.ctx with path := s'.ctx.path ++ [⟨p, bs⟩] }) (s'.ctx.pc + 1)
/-- ST (R116). -/
def execSt (tk : Tok) (d a b : BitVec 5) (size : BitVec 3) (off : BitVec 16) (s : State) :
    Host.Outcome State Fault Refusal :=
  ccInstr tk (stBody d a b size off) s

/-! ## System registers (R119, R120) -/

/-- Registers that user code may not access (R119). -/
def noUser (sn : Nat) : Bool := [snSCOPEBASE, snPTBASE, snPREEMPT].contains sn

/-- The value an MFS returns: CORE, the clocks and CHFREE are computed, the rest is stored (R119). -/
def State.readSys (s : State) (c sn : Nat) : W64 :=
  if sn = snCORE then BitVec.ofNat 64 c
  else if sn = snTIME then BitVec.ofNat 64 s.time
  else if sn = snCYCLE then BitVec.ofNat 64 s.cycle
  else if sn = snCHFREE then BitVec.ofNat 64 (s.live c).chFree
  else (s.live c).sr sn

/-- The bits of a register that an MTS writes: none where it is read-only or user code may only read it (R76, R119, R120,
R125, R245, R250, R267, R299). R119 gives no map of DOMCNT and TIDEPRI: DOMCNT takes [31:0], as far as R250 counts, and TIDEPRI bit 0;
their other bits are ignored on write and read zero (DESIGN CHOICE, log 89). -/
def mtsMask (sup : Bool) (sn : Nat) : W64 :=
  if sn = snSTATUS then (if sup then 0b01110 else 0b01000)
  else if sn = snTVEC ∨ sn = snTPC ∨ (snLC0 ≤ sn ∧ sn ≤ snLC0 + 3) then BitVec.allOnes 64
  else if sn = snGEN ∨ sn = snSKIPCNT ∨ sn = snDOMCNT then 0xFFFFFFFF
  else if sn = snFPSTICKY then 0x1F
  else if sn = snMSHAPE then 0xFFFFFFFF0000007F
  else if sn = snTIDEPRI then (if sup then 1 else 0)
  else if sn = snWDOG ∨ sn = snSCOPEBASE ∨ sn = snPTBASE ∨ sn = snPREEMPT then (if sup then BitVec.allOnes 64 else 0)
  else 0

/-- MFS (R119). -/
def execMfs (tk : Tok) (d : BitVec 5) (sn : BitVec 12) (s : State) : Host.Outcome State Fault Refusal :=
  ccInstr tk (fun s =>
    if noUser sn.toNat && !s.ctx.sup then privFault s
    else .done (s.setCtx (s.ctx.setG d (s.readSys s.cur sn.toNat))) (s.ctx.pc + 1)) s
/-- MTS (R119). -/
def execMts (tk : Tok) (a : BitVec 5) (sn : BitVec 12) (s : State) : Host.Outcome State Fault Refusal :=
  ccInstr tk (fun s =>
    let x := s.ctx
    if noUser sn.toNat && !x.sup then privFault s
    else
      let m := mtsMask x.sup sn.toNat
      if m = 0 then .done s (x.pc + 1)
      else .done (s.setCtx (x.setSr sn.toNat ((x.sr sn.toNat &&& ~~~m) ||| (x.rg a &&& m)))) (x.pc + 1)) s

/-! ## Traps and trace marks (R121 to R124) -/

/-- A running lesson whose last seat has exited is draining; one that is pre-empted by then regains its seats draining (R26). -/
def State.noteExit (s : State) (ctx num : Nat) : State :=
  match s.lesson ctx num with
  | none => s
  | some l =>
    if l.seats.all fun se => match s.seatCtx se.core ctx num with | some x => x.exited | none => false then
      s.modLesson ctx num fun l => if l.st = .running then { l with st := .draining }
        else if l.st = .preempted then { l with wasDraining := true } else l
    else s

/-- TRAP (R121): the exit service for code 0, after which the seat fetches nothing more (R38); a trap otherwise. -/
def execTrap (tk : Tok) (code : BitVec 16) (s : State) : Host.Outcome State Fault Refusal :=
  ccInstr tk (fun s =>
    let x := s.ctx
    if code = 0 then .done ((s.setCtx { x with exited := true, parked := true }).noteExit x.id x.lesson) (x.pc + 1)
    else .trapAfter s { cause := cTRAP, addr := code.toNat } (x.pc + 1)) s

/-- The retry of parked chunks and paused walkers of a context that ends a COLLPAGE (R279). -/
def State.retryPages (s : State) (ctx : Nat) : State :=
  let parked := s.heads.flatMap fun h => h.2.park.filter fun c => c.ctx = ctx
  { s with
    chunks := parked ++ s.chunks
    heads := s.heads.map fun h => (h.1, { h.2 with park := h.2.park.filter fun c => c.ctx ≠ ctx })
    recs := s.recs.map fun r => if r.ctx = ctx then { r with paused := false } else r }

/-- ERET (R122). -/
def execEret (tk : Tok) (s : State) : Host.Outcome State Fault Refusal :=
  ccInstr tk (fun s =>
    let x := s.ctx
    if !x.inh then privFault s
    else
      let s := s.setCtx x.eret
      .done (if x.collHandler then s.retryPages x.id else s) (x.sr snTPC)) s

/-- BRK (R123): under kndbg, once its tokens are there, it asks for the stop of the core before it retires, and retires once the
core is resumed at it; otherwise it traps. -/
def execBrk (tk : Tok) (code : BitVec 16) (s : State) : Host.Outcome State Fault Refusal :=
  let k := s.core s.cur
  if k.debugHold then
    if k.live.brkPassed then ccInstr tk (ctxNext fun x => { x with brkPassed := false }) s
    else if !k.live.canPop tk.pop then .next (s.waitOn s.cur .token (k.live.missing (popFifos .cc tk.pop)))
    else .next ((s.endWait s.cur).setCore s.cur { (s.endWait s.cur).core s.cur with stopReq := true, brkStop := true })
  else ccInstr tk (fun s => .trapAfter s { cause := cBRK, addr := code.toNat } (s.ctx.pc + 1)) s

/-- TMARK (R124): a record under TE, nothing otherwise. -/
def execTmark (tk : Tok) (a : BitVec 5) (code : BitVec 16) (s : State) : Host.Outcome State Fault Refusal :=
  ccInstr tk (fun s =>
    let x := s.ctx
    let s' := if x.te then s.trace (hlOf s.cur)
      { time := s.time, kind := 0x01, core := s.cur, ctx := x.id, code := code.toNat, value := (x.rg a).toNat } else s
    .done s' (x.pc + 1)) s

/-! ## Queue control (R125 to R128) -/

/-- Whether a generation lies in [lo, hi) (R125). -/
def genIn (g lo hi : W32) : Bool := (g - lo).ult (hi - lo)

/-- Whether a command is a QMARK, which is never husked (R126). -/
def Cmd.isMark (c : Cmd) : Bool := match c.instr with | .qmark .. => true | _ => false

/-- The queues a qm mask names: bit 3 LD, 2 ST, 1 VX, 0 MX (R126). -/
def qmAgents (qm : BitVec 4) : List Agent :=
  (if qm.getLsbD 3 then [.ld] else []) ++ (if qm.getLsbD 2 then [.st] else []) ++ (if qm.getLsbD 1 then [.vx] else [])
    ++ (if qm.getLsbD 0 then [.mx] else [])

/-- TLB counts of a command released (R49), by which agent noted (R155). -/
def Ctx.unpin (x : Ctx) (byAgent : Nat) (ids : List Nat) : Ctx :=
  if ids.isEmpty then x
  else { x with pinBy := byAgent, tlb := (x.tlb.map fun e => if ids.contains e.id then { e with count := e.count - 1 } else e).filter fun e =>
    !(e.dying && e.count == 0) }
/-- Whether a command is stopped by SELMISS or MXPAR, which MXRES ends and QRES does not (R127, R213). -/
def Cmd.parStopped (c : Cmd) : Bool := match c.stop with | none => false | some p => p.cause == cSELMISS || p.cause == cMXPAR
/-- Whether QDROP husks a command: not started or stopped by a fault, in the range, not a QMARK and not a husk yet. -/
def Cmd.droppable (c : Cmd) (lo hi : W32) : Bool :=
  genIn c.gen lo hi && !c.isMark && !c.husk && !c.dropping && (c.stop.isSome || c.phase == .queued)

/-- A command turned into a husk: it keeps its effects, its holds end and its counts are released (R49, R126). The wait of one that was
stopped ended with its stop, and what it waits for as a husk it waits for from now on (R155). -/
def Cmd.toHusk (cycle : Nat) (c : Cmd) : Cmd :=
  { c with since := if c.stop.isSome then cycle else c.since, awaited := if c.stop.isSome then none else c.awaited, husk := true, stop := none, suspended := false, dropping := false, resumed := false, pins := [], objs := [], groups := [],
           tiles := [] }

/-- Commands turned into husks: their TLB and object counts are released, one for each (R49, R59, R126). -/
def State.releaseHusks (s : State) (c : Nat) (l : List Cmd) : State :=
  let x := l.foldl (fun (x : Ctx) k => x.unpin 0 k.pins) (s.live c)
  (s.setLive c x).countObjs x.id (l.flatMap (·.objs)) false

/-- QDROP on one queue of core c: the state and the number husked. A stopped command of the repair lane belongs to MX; while the lane
holds commands, the stopped MX head becomes a husk only once they have left, for the lane is empty whenever the head is not stopped
(R212; log 21). -/
def State.dropQueue (s : State) (c : Nat) (a : Agent) (lo hi : W32) : State × Nat :=
  let x := s.live c
  let late (k : Cmd) : Bool := a = .mx && k.stop.isSome && !x.lane.isEmpty
  let hit := (x.queue a).filter fun k => k.droppable lo hi
  let now := hit.filter fun k => !late k
  let free := now.any fun k => k.stop.isSome
  let q := (x.queue a).map fun k =>
    if k.droppable lo hi then (if late k then { k with dropping := true } else k.toHusk s.cycle) else if free then { k with suspended := false } else k
  let laneHit : List Cmd := if a = .mx then x.lane.filter fun k => k.stop.isSome && k.droppable lo hi else []
  let lane := if a = .mx then x.lane.map fun k => if k.stop.isSome && k.droppable lo hi then k.toHusk s.cycle else k else x.lane
  ((s.setLive c ({ x with lane := lane }.setQueue a q)).releaseHusks c (now ++ laneHit), hit.length + laneHit.length)

/-- QDROP (R126). -/
def execQdrop (tk : Tok) (d a b : BitVec 5) (qm : BitVec 4) (s : State) : Host.Outcome State Fault Refusal :=
  ccInstr tk (fun s =>
    let x := s.ctx
    let lo : W32 := (x.rg a).setWidth 32
    let hi : W32 := (x.rg b).setWidth 32
    let r := (qmAgents qm).foldl (fun r ag => let t := r.1.dropQueue s.cur ag lo hi; (t.1, r.2 + t.2)) (s, 0)
    .done (r.1.setCtx (r.1.ctx.setG d (BitVec.ofNat 64 r.2))) (x.pc + 1)) s

/-- Whether QRES resumes the head of a queue: stopped, but an MX head not by SELMISS or MXPAR (R127). -/
def resumable (a : Agent) (q : List Cmd) : Bool :=
  match q.head? with
  | none => false
  | some c => match c.stop with
    | none => false
    | some _ => a != .mx || !c.parStopped

/-- The head to run again from its start; its pops, if made, are not repeated (R139). -/
def rerun (cycle : Nat) : List Cmd → List Cmd
  | [] => []
  | c :: r => { c with stop := none, phase := .queued, since := cycle, rows := [], admitted := 0, committed := 0, slots := [],
                       fl := 0, resumed := false, awaited := none } :: r

/-- QRES (R127): gd is the mask of queues resumed; a command of the repair lane stopped by another cause than SELMISS or MXPAR counts
for MX (log 21). -/
def execQres (tk : Tok) (d : BitVec 5) (qm : BitVec 4) (s : State) : Host.Outcome State Fault Refusal :=
  ccInstr tk (fun s =>
    let x := s.ctx
    let laneStop := qm.getLsbD 0 && resumable .mx x.lane
    let ags := (qmAgents qm).filter fun ag => resumable ag (x.queue ag) || (ag = .mx && laneStop)
    let x' := ags.foldl (fun (x : Ctx) ag =>
      if ag = .mx && laneStop then { x with lane := rerun s.cycle x.lane } else x.setQueue ag (rerun s.cycle (x.queue ag))) x
    let m := (ags.map fun ag => 2 ^ (4 - agentNum ag)).sum
    .done (s.setCtx (x'.setG d (BitVec.ofNat 64 m))) (x.pc + 1)) s

/-- The snapshot of a queue (R128). -/
def Ctx.qstat (x : Ctx) (a : Agent) : W64 :=
  let q := x.queue a
  let seq := match q.head? with | some c => c.seq | none => x.seqs.get 0 (agentNum a)
  let cause := match q.head? with | some c => (match c.stop with | some p => p.cause | none => 0) | none => 0
  let stop := match q.head? with | some c => c.stop.isSome | none => false
  BitVec.ofNat 64 (seq % 2 ^ 32 * 2 ^ 32 + cause * 2 ^ 16 + (q.filter (·.husk)).length * 2 ^ 8
    + (if stop then 128 else 0) + q.length)

/-- QSTAT (R128). -/
def execQstat (tk : Tok) (d : BitVec 5) (qn : BitVec 3) (s : State) : Host.Outcome State Fault Refusal :=
  ccInstr tk (fun s => .done (s.setCtx (s.ctx.setG d (s.ctx.qstat (agentOf (qn.toNat + 1))))) (s.ctx.pc + 1)) s

/-! ## Yield and context switch (R129, R130, R143, R147) -/

/-- The slot hold of a lesson on a core, and the other slot's. -/
def Core.holdOf (k : Core) (ctx num : Nat) : Option SlotHold :=
  match k.slot0, k.slot1 with
  | some h, o => if h.ctx = ctx ∧ h.num = num then some h else o.filter fun h => decide (h.ctx = ctx ∧ h.num = num)
  | none, o => o.filter fun h => decide (h.ctx = ctx ∧ h.num = num)
def Core.otherHold (k : Core) (ctx num : Nat) : Option SlotHold :=
  match k.slot0, k.slot1 with
  | some h, o => if h.ctx = ctx ∧ h.num = num then o else some h
  | none, o => o.filter fun h => decide (¬ (h.ctx = ctx ∧ h.num = num))

/-- The other slot's lesson if its priority equals that of the active lesson (R31). -/
def Core.equalPeer (k : Core) : Option SlotHold :=
  match k.holdOf k.live.id k.live.lesson, k.otherHold k.live.id k.live.lesson with
  | some h, some o => if h.pri = o.pri then some o else none
  | _, _ => none

/-- TIMER raised on a core whose other slot holds a lesson of equal priority, naming the store of its context; a saved context
is streamed in first (R146), and a lesson that is admitted is waited for until it starts (DESIGN CHOICE, log 72). -/
def State.raiseTimer (s : State) (core : Nat) : State :=
  let k := s.core core
  match k.equalPeer with
  | none => s.setCore core { k with timerDue := false }
  | some o =>
    match k.storeOf o.ctx o.num with
    | some n =>
      if !k.startedIn n then s.setCore core { k with timerDue := true }
      else if k.live.pend.any (·.cause = cTIMER) then s.setCore core { k with timerDue := false }
      else s.setCore core { k with timerDue := false
                                   live := { k.live with pend := k.live.pend ++ [{ cause := cTIMER, addr := n, clk := s.cycle }] } }
    | none => (s.setCore core { k with timerDue := true }).streamIn core o.ctx o.num

/-- The time slice of a lesson's context (R31). -/
def State.sliceOf (s : State) (ctx num : Nat) : Nat := match s.lesson ctx num with | some l => l.slice | none => 1200000

/-- YIELD (R129): the seat's slice ends and PREEMPT reloads. -/
def execYield (tk : Tok) (s : State) : Host.Outcome State Fault Refusal :=
  ccInstr tk (fun s =>
    let x := s.ctx
    .done ((s.raiseTimer s.cur).setCtx ((s.raiseTimer s.cur).ctx.setSr snPREEMPT (BitVec.ofNat 64 (s.sliceOf x.id x.lesson))))
      (x.pc + 1)) s

/-! ## TLB invalidation (R50, R131) -/

/-- Whether TLBINV names an entry: by context and address, by context, or every entry (R131). -/
def tlbNamed (mode : Nat) (va ctx : Nat) (e : TlbEntry) : Bool :=
  match mode with
  | 0 => decide (e.ctx = ctx ∧ e.va ≤ va ∧ va < e.va + e.size)
  | 1 => e.ctx == ctx
  | _ => true

/-- A context's TLB with the named entries dying, and those without a count gone. -/
def Ctx.tlbMark (x : Ctx) (f : TlbEntry → Bool) : Ctx :=
  { x with tlb := (x.tlb.map fun e => if f e then { e with dying := true } else e).filter fun e => !(e.dying && e.count == 0) }

/-- A core with the named entries of its context states marked: the live one and those in its stores. -/
def Core.tlbMark (k : Core) (f : TlbEntry → Bool) : Core :=
  { k with live := k.live.tlbMark f, sh0 := { k.sh0 with ctx := k.sh0.ctx.tlbMark f }, sh1 := { k.sh1 with ctx := k.sh1.ctx.tlbMark f } }

/-- Whether a core holds a context, active or shadowed (R131). -/
def Core.holdsCtx (k : Core) (ctx : Nat) : Bool :=
  (k.active && k.live.id == ctx) || (k.sh0.st != .empty && k.sh0.ctx.id == ctx) || (k.sh1.st != .empty && k.sh1.ctx.id == ctx)

/-- The state with the entries that a TLBINV names marked (R50). With BC set, R131 leaves open whether the saved state of context gb means
every save area of it or those of the executing core's headland; the model takes those of the headland's cores, the ones that the cores
concerned would stream back (DEDUCED, log 93). -/
def State.tlbMark (s : State) (c : Nat) (bc : Bool) (ctx : Nat) (f : TlbEntry → Bool) : State :=
  if bc then
    { s with
      cores := s.cores.map fun e => if hlOf e.1 = hlOf c ∧ e.2.holdsCtx ctx then (e.1, e.2.tlbMark f) else e
      saves := s.saves.map fun e => if e.2.ctx.id = ctx ∧ hlOf (e.1 / 2 ^ 48) = hlOf c then (e.1, { e.2 with ctx := e.2.ctx.tlbMark f }) else e }
  else s.setCore c ((s.core c).tlbMark f)

/-- A TLB entry as a waiting TLBINV knows it: by the save-area key of its context state on its core, and its number there. -/
def Ctx.tlbKey (x : Ctx) (core : Nat) (e : TlbEntry) : Nat × Nat := (saveKey core x.id x.lesson, e.id)
/-- The entries that a TLBINV has marked and that have a count, on the cores concerned (R131). -/
def State.tlbMarked (s : State) (c : Nat) (bc : Bool) (ctx : Nat) (f : TlbEntry → Bool) : List (Nat × Nat) :=
  let of (core : Nat) (x : Ctx) : List (Nat × Nat) := (x.tlb.filter f).map (x.tlbKey core)
  let on (e : Nat × Core) : List (Nat × Nat) := of e.1 e.2.live ++ of e.1 e.2.sh0.ctx ++ of e.1 e.2.sh1.ctx
  if bc then
    (s.cores.filter fun e => hlOf e.1 = hlOf c ∧ e.2.holdsCtx ctx).flatMap on
      ++ (s.saves.filter fun e => e.2.ctx.id = ctx ∧ hlOf (e.1 / 2 ^ 48) = hlOf c).flatMap fun e => of (e.1 / 2 ^ 48) e.2.ctx
  else on (c, s.core c)
/-- The marked entries of a list that still have a count, wherever their context stands now (R50). -/
def State.tlbLeft (s : State) (keys : List (Nat × Nat)) : List TlbEntry :=
  s.everyCtx.flatMap fun e => e.2.tlb.filter fun t => keys.contains (e.2.tlbKey e.1 t)

/-- TLBINV (R50, R131): marks, and waits until every entry that it has marked has a count of zero; while it waits it marks no other. -/
def tlbinvBody (a b : BitVec 5) (bc : BitVec 1) (mode : BitVec 2) (s : State) : Act :=
  let x := s.ctx
  let ctx := (x.rg b).toNat % 65536
  let f := tlbNamed mode.toNat (x.rg a).toNat ctx
  if !x.sup then privFault s
  else
    let s' := if x.invs = [] then s.tlbMark s.cur (bc == 1) ctx f else s
    let keys := if x.invs = [] then s'.tlbMarked s.cur (bc == 1) ctx f else x.invs
    match s'.tlbLeft keys with
    | [] => .done s' (x.pc + 1)
    | e :: _ => .waitIn (s'.setCtx { s'.ctx with invs := keys }) .tlbinv e.va
def execTlbinv (tk : Tok) (a b : BitVec 5) (bc : BitVec 1) (mode : BitVec 2) (s : State) : Host.Outcome State Fault Refusal :=
  ccInstr tk (tlbinvBody a b bc mode) s

/-! ## Stream registers (R132) -/

/-- Word w of a stream register replaced; reserved bits [198:192] are zero. -/
def setQWord (q : BitVec 256) (w : Nat) (v : W64) : BitVec 256 :=
  let v : W64 := if w = 3 then v &&& 0xFFFFFFFFFFFFFF80 else v
  (q &&& ~~~((BitVec.allOnes 64).setWidth 256 <<< (64 * w))) ||| (v.setWidth 256 <<< (64 * w))

/-- QSET (R132). -/
def execQset (tk : Tok) (d a : BitVec 5) (w : BitVec 2) (s : State) : Host.Outcome State Fault Refusal :=
  ccInstr tk (ctxNext fun x => { x with q := x.q.put d.toNat (setQWord (x.q.get 0 d.toNat) w.toNat (x.rg a)) }) s
/-- QGET (R132). -/
def execQget (tk : Tok) (d a : BitVec 5) (w : BitVec 2) (s : State) : Host.Outcome State Fault Refusal :=
  ccInstr tk (ctxNext fun x => x.setG d ((x.q.get 0 a.toNat).extractLsb' (64 * w.toNat) 64)) s
/-- QCLR (R132). -/
def execQclr (tk : Tok) (d : BitVec 5) (s : State) : Host.Outcome State Fault Refusal :=
  ccInstr tk (ctxNext fun x => { x with q := x.q.put d.toNat 0 }) s

end Sys2Proof.Machine
end

