-- ==== Sys2Proof/Machine/Operands.lean ====
section
/-! DEFINITION. Operands of engine commands: stream registers, tiles, edge modes, element packing, scales and zero points,
footprints (R55, R58 to R62, R69, R70, R159, R162, R163, R331). -/

namespace Sys2Proof.Machine

/-! ## Fields of a stream register (R60) -/

def RStream.objIdx (st : RStream) : Nat := (st.raw.extractLsb' 240 16).toNat
/-- The stream's format: its override, or the object's. -/
def RStream.fmt (st : RStream) : Nat :=
  let o := (st.raw.extractLsb' 235 5).toNat
  if o = 0 then st.obj.fmt else o
def RStream.em (st : RStream) : Nat := (st.raw.extractLsb' 233 2).toNat
def RStream.tr (st : RStream) : Bool := st.raw.getLsbD 232
def RStream.zps (st : RStream) : Bool := st.raw.getLsbD 231
def RStream.zpc (st : RStream) : Nat := (st.raw.extractLsb' 223 8).toNat
/-- Elements per scale block: the override, or the object's BLEN. -/
def RStream.blen (st : RStream) : Nat :=
  let o := (st.raw.extractLsb' 215 8).toNat
  if o = 0 then st.obj.blen else o
def RStream.sstr (st : RStream) : Nat := (st.raw.extractLsb' 199 16).toNat
/-- The signed origin along dimension d. -/
def RStream.org (st : RStream) (d : Nat) : Int := sextNat (st.raw.extractLsb' (160 - 32 * d) 32).toNat 32 + st.shift.getD d 0
/-- A stream with its origin along a dimension moved, exactly (R206, R219). -/
def RStream.move (st : RStream) (d : Nat) (by' : Int) : RStream :=
  { st with shift := (List.range 6).map fun e => st.shift.getD e 0 + if e = d then by' else 0 }

/-- The entry of an object index in a context's table, empty for index 0 (R58). -/
def State.objEntry (s : State) (ctx i : Nat) : ObjEntry := if i = 0 then {} else (s.context ctx).objs.get {} i

/-- Stream register q of a context as a push captures it (R60). -/
def State.capture (s : State) (x : Ctx) (q : Nat) : RStream :=
  let raw := x.q.get 0 q
  let o := s.objEntry x.id (raw.extractLsb' 240 16).toNat
  { raw := raw, ctx := x.id, obj := o, sobj := s.objEntry x.id o.sobj, zobj := s.objEntry x.id o.zobj }

/-! ## Tiles and edges (R61, R62, R159) -/

/-- The width W that a captured register gives (R159): none when its upper bits are set. -/
def tileWidth (g : W64) : Option Nat :=
  if bits g.toNat 63 20 ≠ 0 then none else if g.toNat = 0 then some 64 else some g.toNat

/-- A coordinate after its edge mode: an index, an element written as zero or dropped, or a break of R61. -/
inductive Ax where
  | at (c : Nat)
  | drop
  | bad
deriving DecidableEq, Repr

/-- Edge handling of a coordinate of a dimension of extent n (R61). -/
def edge (em : Nat) (read : Bool) (c : Int) (n : Nat) : Ax :=
  if 0 ≤ c ∧ c < n then .at c.toNat
  else match em with
    | 0 => .bad
    | 3 => .drop
    | m =>
      if !read then .drop
      else
        let c' := if m = 1 then (if c < 0 then -c else 2 * n - 2 - c) else (if c < 0 then -1 - c else 2 * n - 1 - c)
        if 0 ≤ c' ∧ c' < n then .at c'.toNat else .bad

/-- The dimension along which the rows of a tile step (R159). -/
def RStream.rowDim (st : RStream) : Nat :=
  if st.obj.rank = 1 then 0 else if st.tr then st.obj.rank - 1 else st.obj.rank - 2

/-- The coordinates of tile element (k, j) of width w (R159). A row list (R165) replaces the row coordinate. -/
def RStream.coord (st : RStream) (w k j : Nat) (row : Option Nat := none) : List Int :=
  let r := st.obj.rank
  if r = 1 then [match row with | some i => (i * w + j : Nat) | none => st.org 0 + (k * w + j : Nat)]
  else
    let kk : Int := match row with | some i => i | none => st.org st.rowDim + k
    ((List.range (r - 2)).map st.org) ++ (if st.tr then [st.org (r - 2) + j, kk] else [kk, st.org (r - 1) + j])

/-- Whether an index of a row list puts an element at or beyond the extent of the indexed axis (R165). -/
def RStream.past (st : RStream) (w j : Nat) (row : Option Nat) : Bool :=
  match row with
  | none => false
  | some i => decide (st.obj.dims.getD st.rowDim 0 ≤ (if st.obj.rank = 1 then i * w + j else i))

/-- A tile element after every coordinate's edge mode. -/
inductive Ele where
  | at (cs : List Nat)
  | drop
  | bad
deriving DecidableEq, Repr

/-- The coordinates of an element after edge handling; a break outweighs a drop (R61). -/
def edges (em : Nat) (read : Bool) : List Int → List Nat → Ele
  | [], _ => .at []
  | _, [] => .at []
  | c :: cs, n :: ns =>
    match edge em read c n, edges em read cs ns with
    | .bad, _ => .bad
    | _, .bad => .bad
    | .drop, _ => .drop
    | _, .drop => .drop
    | .at a, .at as => .at (a :: as)

/-- Tile element (k, j). An index of a row list beyond the extent is a drop under every edge mode (R165). -/
def RStream.elem (st : RStream) (read : Bool) (w k j : Nat) (row : Option Nat := none) : Ele :=
  if st.past w j row then .drop else edges st.em read (st.coord w k j row) st.obj.dims

/-- Whether row k is valid under edge mode 11: every coordinate but the innermost is in range (R62), and its index, if it has
one, lies within the extent (R165). -/
def RStream.rowValid (st : RStream) (w k : Nat) (row : Option Nat := none) : Bool :=
  let cs := st.coord w k 0 row
  let pairs := (cs.zip st.obj.dims)
  let held := if st.tr then pairs.take (st.obj.rank - 2) ++ pairs.drop (st.obj.rank - 1) else pairs.take (st.obj.rank - 1)
  !st.past w 0 row && held.all fun p => decide (0 ≤ p.1 ∧ p.1 < p.2)

/-! ## Places of elements (R58, R70) -/

/-- The element index of coordinates under strides (R58). -/
def linear : List Nat → List Nat → Nat
  | c :: cs, n :: ns => c * n + linear cs ns
  | _, _ => 0

/-- Bits of the elements of an object entry (R70). -/
def ObjEntry.ebits (o : ObjEntry) : Nat := elemBits o.fmt

/-- The address of a byte of an object's home, for homes in paged memory or windows (R58). -/
def ObjEntry.addr (o : ObjEntry) (off : Nat) : Nat := (o.home + off) % 2 ^ 64

/-- How a command finds bytes: the place of byte off of an object's home. -/
abbrev Finder := ObjEntry → Nat → Option Place

/-- The finder of core c for a context: windows by R51, the tensor store by handle, virtual homes through the TLB entries the
command pinned (R49) or, without pins, through the tables of a root register. -/
def State.finder (s : State) (c ctx : Nat) (pins : List Nat) (root : W64) : Finder := fun o off =>
  match o.kind with
  | 1 => some (.tier1 (bits o.home 34 32) (bits o.home 31 0) off)
  | 2 =>
    let va := o.addr off
    if pins.isEmpty then s.vaPlace ctx root va
    else match (s.live c).tlb.find? fun e => decide (e.va ≤ va ∧ va < e.va + e.size) && pins.contains e.id with
      | some e => some (physPlace e.tgt (e.pa + (va - e.va)))
      | none => none
  | 3 => (onChip c (o.addr off)).map fun p => .win p.1 ctx p.2
  | _ => none

/-- First byte, byte count and bit offset of an element (R70). -/
def packing (ebits idx : Nat) : Nat × Nat × Nat :=
  let lo := idx * ebits
  let hi := lo + ebits - 1
  (lo / 8, hi / 8 + 1 - lo / 8, lo % 8)

/-- The bytes' places of an element of an object; none where the home does not reach. -/
def placesOf (f : Finder) (o : ObjEntry) (ebits idx : Nat) : List (Option Place) :=
  let (b, n, _) := packing ebits idx
  (List.range n).map fun i => f o (b + i)

/-- The bits of an element (R70). -/
def State.rawElem (s : State) (f : Finder) (o : ObjEntry) (ebits idx : Nat) : Nat :=
  let (_, _, sh) := packing ebits idx
  leNat ((placesOf f o ebits idx).map fun p => match p with | some p => s.byte p | none => 0) / 2 ^ sh % 2 ^ ebits

/-- Replace element d of a list. -/
def setAt {α : Type} (l : List α) (d : Nat) (v : α) : List α := l.set d v

/-- The coordinates of an element's scale or zero point (R70). -/
def RStream.scaleCoord (st : RStream) (cs : List Nat) : List Nat :=
  setAt cs st.obj.qaxis (cs.getD st.obj.qaxis 0 / st.blen)
/-- The strides of SOBJ or ZOBJ, with SSTR along the other tile axis where it is set (R331). -/
def RStream.scaleStrides (st : RStream) (o : ObjEntry) : List Nat :=
  if st.sstr = 0 then o.strides
  else setAt o.strides (if st.obj.qaxis = st.obj.rank - 2 then st.obj.rank - 1 else st.obj.rank - 2) st.sstr
/-- The index of an element's scale in SOBJ, and of its zero point in ZOBJ. -/
def RStream.scaleIdx (st : RStream) (cs : List Nat) : Nat := linear (st.scaleCoord cs) (st.scaleStrides st.sobj)
def RStream.zpIdx (st : RStream) (cs : List Nat) : Nat := linear (st.scaleCoord cs) (st.scaleStrides st.zobj)

/-- Scale and zero point of an element as raw values; zero for formats that have none (R68 to R70). -/
def State.scaleOf (s : State) (f : Finder) (st : RStream) (cs : List Nat) : Nat × Nat :=
  if scaled st.fmt then
    (s.rawElem f st.sobj st.sobj.ebits (st.scaleIdx cs),
     if (obBits st.fmt).isSome then
       (if st.zps then st.zpc else s.rawElem f st.zobj st.zobj.ebits (st.zpIdx cs)) else 0)
  else (0, 0)

/-- The index of an element in its object. -/
def RStream.idx (st : RStream) (cs : List Nat) : Nat := linear cs st.obj.strides

/-- The raw bits and the exact value of an element (R65 to R70); an element that edge mode 11 drops is zero. -/
def State.readRaw (s : State) (f : Finder) (st : RStream) (e : Ele) : Nat :=
  match e with
  | .at cs => s.rawElem f st.obj (elemBits st.fmt) (st.idx cs)
  | _ => 0
def State.readNum (s : State) (f : Finder) (st : RStream) (e : Ele) : Num :=
  match e with
  | .at cs =>
    let (sc, zp) := s.scaleOf f st cs
    decodeElem st.fmt (s.rawElem f st.obj (elemBits st.fmt) (st.idx cs)) sc zp
  | _ => .zero false

/-- Every place that an access to an element touches: its bytes, and those of its scale and zero point. -/
def RStream.touched (st : RStream) (f : Finder) (e : Ele) : List (Option Place) :=
  match e with
  | .at cs =>
    placesOf f st.obj (elemBits st.fmt) (st.idx cs) ++
    (if scaled st.fmt then placesOf f st.sobj st.sobj.ebits (st.scaleIdx cs) ++
      (if (obBits st.fmt).isSome && !st.zps then placesOf f st.zobj st.zobj.ebits (st.zpIdx cs) else []) else [])
  | _ => []

/-- The addresses of an element of an object whose home is of a kind: 2 paged (R49), 3 on-chip (R161). -/
def ObjEntry.addrs (o : ObjEntry) (kind ebits idx : Nat) : List Nat :=
  if o.kind = kind then let (b, n, _) := packing ebits idx; (List.range n).map fun i => o.addr (b + i) else []
/-- The addresses of homes of a kind that an access to an element touches in the object, in SOBJ and in ZOBJ. -/
def RStream.mainAddrs (st : RStream) (kind : Nat) : Ele → List Nat
  | .at cs => st.obj.addrs kind (elemBits st.fmt) (st.idx cs)
  | _ => []
def RStream.scaleAddrs (st : RStream) (kind : Nat) : Ele → List Nat
  | .at cs => if scaled st.fmt then st.sobj.addrs kind st.sobj.ebits (st.scaleIdx cs) else []
  | _ => []
def RStream.zpAddrs (st : RStream) (kind : Nat) : Ele → List Nat
  | .at cs => if scaled st.fmt && (obBits st.fmt).isSome && !st.zps then st.zobj.addrs kind st.zobj.ebits (st.zpIdx cs) else []
  | _ => []
/-- The addresses of homes of a kind that an access to an element touches. -/
def RStream.addrs (st : RStream) (kind : Nat) (e : Ele) : List Nat := st.mainAddrs kind e ++ st.scaleAddrs kind e ++ st.zpAddrs kind e

/-- Every element of a tile, rows then columns. -/
def RStream.tile (st : RStream) (read : Bool) (rows w : Nat) : List Ele :=
  (List.range rows).flatMap fun k => (List.range w).map fun j => st.elem read w k j

/-- The elements of the whole extent of an indexed axis, over the columns of the tile (R165). -/
def RStream.axisTile (st : RStream) (read : Bool) (w : Nat) : List Ele :=
  let n := st.obj.dims.getD st.rowDim 0
  (List.range (if st.obj.rank = 1 then (n + w - 1) / w else n)).flatMap fun i => (List.range w).map fun j => st.elem read w 0 j (some i)

/-! ## The validity mask (R62) -/

/-- The byte after the last element of a tile, from the object's home on. -/
def RStream.endOff (st : RStream) (rows w : Nat) : Nat :=
  let i : Int := ((st.coord w (rows - 1) (w - 1)).zip st.obj.strides).foldl (fun a p => a + p.1 * (p.2 : Int)) 0
  ((i.toNat + 1) * elemBits st.fmt + 7) / 8

/-- Where the validity mask stands, from the object's home on: the first 64-byte boundary at or after the tile's end. The tile of an
SCT ends here as if its rows stood at the origin, whatever the row list (DESIGN CHOICE, log 37). -/
def RStream.maskOff (st : RStream) (rows w : Nat) : Nat :=
  let base := if st.obj.kind = 1 then 0 else st.obj.home
  (base + st.endOff rows w + 63) / 64 * 64 - base

/-- The addresses of the mask words of a tile, where the destination's home is of a kind. -/
def RStream.maskAddrs (st : RStream) (kind rows w : Nat) : List Nat :=
  if st.obj.kind = kind then (List.range (8 * ((rows + 63) / 64))).map fun i => st.obj.addr (st.maskOff rows w + i) else []

/-! ## The object checks (R55, R59 to R61, R68 to R70, R331) -/

/-- Whether a scale or zero-point object passes the checks: RD, with WR where the command writes it, and its format (R59, R70,
R163). -/
def sideOk (o : ObjEntry) (fmt : Nat) (write : Bool) : Bool := o.kind != 0 && o.rd && (!write || o.wr) && o.fmt == fmt

/-- Whether an object's home lies in BG3 of a core window (R55). -/
def ObjEntry.inBg3 (o : ObjEntry) : Bool := o.kind == 3 && (match onChip 0 o.home with | some (_, off) => bankOf off == 3 | none => false)

/-- Whether a stream's fields keep to its object's limits for an access (R55, R59, R60, R61, R68, R331): `read` for a read,
which needs RD (and OV for LDO); otherwise WR. Scale and zero-point objects need RD, and WR where the command writes them. A
ZOBJ whose place ZPC takes under ZPS is not looked at, its format included (DESIGN CHOICE, log 73). -/
def RStream.fieldsOk (st : RStream) (svc read ov wrS wrZ : Bool) : Bool :=
  let o := st.obj
  let ovr := (st.raw.extractLsb' 235 5).toNat
  st.objIdx != 0 && o.kind != 0
    && (if read then o.rd && (!ov || o.ov) else o.wr)
    && (List.range 6).all (fun d => decide (d < o.rank) || decide (st.org d = 0))
    && (ovr == 0 || (validFmt ovr && elemBits ovr == elemBits o.fmt))
    && (match st.em with
        | 0 => true
        | 3 => o.eval && svc
        | _ => o.emir)
    && (!st.tr || (read && decide (2 ≤ o.rank) && o.inBg3 && [8, 16, 32].contains (elemBits st.fmt)))
    && (if scaled st.fmt then
          decide (o.qaxis < o.rank) && decide (0 < st.blen)
          && (match mxBits st.fmt with
              | some _ => st.blen == 32 && sideOk st.sobj 0x0D wrS
              | none => sideOk st.sobj 0x02 wrS && (st.zps || sideOk st.zobj 0x0D wrZ))
        else true)
    && (st.sstr == 0 || (decide (2 ≤ o.rank) && scaled o.fmt && (o.qaxis == o.rank - 2 || o.qaxis == o.rank - 1)))

/-- Whether every coordinate of a tile is in range after its edge mode, and so is every scale's (R59, R61). -/
def RStream.tileOk (st : RStream) (read : Bool) (rows w : Nat) (indexed : Bool) : Bool :=
  let es := if indexed then st.axisTile read w else st.tile read rows w
  es.all fun e => match e with
    | .bad => false
    | .drop => true
    | .at cs => !scaled st.fmt ||
        (((st.scaleCoord cs).zip st.sobj.dims).all (fun p => decide (p.1 < p.2))
          && (!(obBits st.fmt).isSome || st.zps || ((st.scaleCoord cs).zip st.zobj.dims).all (fun p => decide (p.1 < p.2))))

/-! ## Writing rows (R70, R64) -/

/-- The current byte at a place under a set of writes not yet made. -/
def State.byteUnder (s : State) (l : List (Place × Byte)) (p : Place) : Byte :=
  match l.find? (·.1 = p) with | some w => w.2 | none => s.byte p

/-- The byte writes of elements of an object: (index, bits) in order (R70). Elements narrower than a byte keep the rest of
their byte. -/
def State.elemWrites (s : State) (f : Finder) (o : ObjEntry) (ebits : Nat) (els : List (Nat × Nat)) : List (Place × Byte) :=
  els.foldl (fun l e =>
    let (b, n, sh) := packing ebits e.1
    if ebits % 8 = 0 then
      l ++ ((List.range n).filterMap fun i => (f o (b + i)).map fun p => (p, BitVec.ofNat 8 (e.2 / 256 ^ i)))
    else
      (List.range n).foldl (fun l i =>
        match f o (b + i) with
        | none => l
        | some p =>
          let old := (s.byteUnder l p).toNat
          let mask := ((2 ^ ebits - 1) * 2 ^ sh) / 256 ^ i % 256
          let new := (e.2 % 2 ^ ebits * 2 ^ sh) / 256 ^ i % 256
          let v : Byte := (BitVec.ofNat 8 old &&& ~~~(BitVec.ofNat 8 mask)) ||| BitVec.ofNat 8 new
          (p, v) :: l.filter (·.1 ≠ p)) l) []

/-! ## Block encodings (R163) -/

/-- Integers next to v/q for every value of a block, none where one is out of the k-bit range. -/
def mxTry (vs : List Num) (k : Nat) (rm : Nat) (e : Nat) : Option (List Int) :=
  let q := pow2 ((e : Int) - 127 - (k - 2))
  let xs := vs.map fun v => roundInt rm (v.toRat / q)
  if xs.all fun x => decide (-(2 ^ (k - 1) : Int) ≤ x ∧ x ≤ 2 ^ (k - 1) - 1) then some xs else none

/-- The least exponent from e on, within n tries, that holds every element. -/
def mxSearch (vs : List Num) (k rm : Nat) : Nat → Nat → Option (Nat × List Int)
  | 0, _ => none
  | n + 1, e => match mxTry vs k rm e with
    | some xs => some (e, xs)
    | none => mxSearch vs k rm n (e + 1)

/-- encode_mx: the scale byte and the elements (R163). -/
def encodeMx (vs : List Num) (k rm : Nat) : Nat × List Nat :=
  if vs.any Num.notFinite then (0xFF, vs.map fun _ => 0)
  else match mxSearch vs k rm 255 0 with
    | some (e, xs) => (e, xs.map fun x => wrapNat x k)
    | none =>
      let q := pow2 (254 - 127 - ((k : Int) - 2))
      (254, vs.map fun v => wrapNat (satI (roundInt rm (v.toRat / q)) k) k)

/-- One element of encode_ob under scale s and zero point z (R163). -/
def encodeOb (v s : Num) (z k rm : Nat) : Nat :=
  if v = .nan ∨ s.notFinite ∨ s.isZero then z % 2 ^ k
  else match v with
    | .inf n => if n = s.neg? then 2 ^ k - 1 else 0
    | v => (satN (roundInt rm (v.toRat / s.toRat) + (z % 2 ^ k : Nat)) k).toNat

end Sys2Proof.Machine
end

