-- ==== Sys2Proof/Machine/Push.lean ====
section
/-! DEFINITION. The push of a command: the checks at enqueue in their orders, the captures, the translations and the pins
(R40, R41, R49, R55 to R61, R125, R158 to R169, R177, R182, R204 to R212, R219, R220, R242, R258, R293). -/

namespace Sys2Proof.Machine

/-- The agent whose queue takes an instruction (R39); none for a control-core word. -/
def engineOf : Instr → Option Agent
  | .ldt .. => some .ld
  | .cpy .. => some .ld
  | .ldo .. => some .ld
  | .pref .. => some .ld
  | .ldg .. => some .ld
  | .qmark .. => some .ld
  | .stt .. => some .st
  | .cpys .. => some .st
  | .redSt .. => some .st
  | .sct .. => some .st
  | .chpop .. => some .st
  | .vld .. => some .vx
  | .vst .. => some .vx
  | .vmov .. => some .vx
  | .vmovg .. => some .vx
  | .vbcr .. => some .vx
  | .vbcc .. => some .vx
  | .vrotr .. => some .vx
  | .vrotc .. => some .vx
  | .valu .. => some .vx
  | .vfma .. => some .vx
  | .vlogic .. => some .vx
  | .vcmp .. => some .vx
  | .vsel .. => some .vx
  | .vredr .. => some .vx
  | .vredc .. => some .vx
  | .vscan .. => some .vx
  | .vcvt .. => some .vx
  | .vrcp .. => some .vx
  | .vrsq .. => some .vx
  | .vrcps .. => some .vx
  | .vrsqs .. => some .vx
  | .vexp2 .. => some .vx
  | .vlog2 .. => some .vx
  | .vmask .. => some .vx
  | .vpopc .. => some .vx
  | .vtog .. => some .vx
  | .vmeanE .. => some .vx
  | .vmeanM .. => some .vx
  | .vmeanX .. => some .vx
  | .vmtld .. => some .vx
  | .vmsh .. => some .vx
  | .vupd .. => some .vx
  | .vkey .. => some .vx
  | .chpush .. => some .vx
  | i => if isMatrix i then some .mx else none

/-- What the checks of a push refuse with: cause, address, sub-code; or a wait. -/
inductive Bad where
  | trap (cause addr sub : Nat)
  | wait (k : WaitKind) (obj : Nat)
deriving DecidableEq, Repr

/-- One stream of a command as the checks use it: its register number, the stream, whether it is read, and its tile. -/
structure Use where
  reg : Nat
  st : RStream
  read : Bool
  rows : Nat
  w : Nat
  indexed : Bool := false
  ov : Bool := false
  wrS : Bool := false
  wrZ : Bool := false

/-- The first of a list of conditions that holds. -/
def firstBad : List (Bool × Bad) → Except Bad Unit
  | [] => .ok ()
  | (c, b) :: r => if c then .error b else firstBad r

/-- OBJ of a stream: SUB is the register number, ADDR the object index (R140). -/
def Use.objBad (u : Use) : Bad := .trap cOBJ u.st.objIdx u.reg
/-- The object checks of a stream (R59 to R61). -/
def Use.ok (u : Use) (svc : Bool) : Bool :=
  u.st.fieldsOk svc u.read u.ov u.wrS u.wrZ && u.st.tileOk u.read u.rows u.w u.indexed

/-- The rows whose places a stream's footprint covers: for an indexed stream the whole extent of the axis (R165). -/
def Use.eles (u : Use) : List Ele :=
  if u.indexed then u.st.axisTile u.read u.w else u.st.tile u.read u.rows u.w
/-- Addresses of a kind of home over the footprint, and those of the object itself, of SOBJ and of ZOBJ apart. -/
def Use.addrs (u : Use) (kind : Nat) : List Nat := u.eles.flatMap fun e => u.st.addrs kind e
def Use.mainAddrs (u : Use) (kind : Nat) : List Nat := u.eles.flatMap fun e => u.st.mainAddrs kind e
def Use.scaleAddrs (u : Use) (kind : Nat) : List Nat := u.eles.flatMap fun e => u.st.scaleAddrs kind e
def Use.zpAddrs (u : Use) (kind : Nat) : List Nat := u.eles.flatMap fun e => u.st.zpAddrs kind e
/-- The paged addresses of a footprint, each with whether it is written: a destination's SOBJ and ZOBJ only where the command
writes them; an OB encoding only reads them (R48, R163). -/
def Use.paged (u : Use) : List (Nat × Bool) := u.eles.flatMap fun e =>
  ((u.st.mainAddrs 2 e).map fun va => (va, !u.read)) ++ ((u.st.scaleAddrs 2 e).map fun va => (va, !u.read && u.wrS))
    ++ ((u.st.zpAddrs 2 e).map fun va => (va, !u.read && u.wrZ))
/-- The side objects that a stream uses, with the addresses of a kind it touches in each (R70). -/
def Use.sides (u : Use) (kind : Nat) : List (ObjEntry × List Nat) :=
  (if scaled u.st.fmt then [(u.st.sobj, u.scaleAddrs kind)] else [])
    ++ (if scaled u.st.fmt && (obBits u.st.fmt).isSome && !u.st.zps then [(u.st.zobj, u.zpAddrs kind)] else [])

/-- Whether an on-chip address may be a copy's home (R51, R52, R161): scratchpad, V or A of a window the lesson may use;
`ownOnly` for a home that must be the own window, `spOnly` for the scratchpad alone. -/
def State.homeAt (s : State) (c : Nat) (x : Ctx) (ownOnly spOnly : Bool) (a : Nat) : Bool :=
  match onChip c a with
  | none => false
  | some (core, off) =>
    (core == c || (!ownOnly && (x.sup || s.mayUse c x core)))
      && (match regionOf off with
          | some .scratch => true
          | some .vec => !spOnly
          | some .acc => !spOnly
          | _ => false)
/-- Whether an on-chip address of a footprint is allowed: as a home, and in the scratchpad within the lease (R330). -/
def State.homeOk (s : State) (c : Nat) (x : Ctx) (ownOnly spOnly : Bool) (a : Nat) : Bool :=
  s.homeAt c x ownOnly spOnly a && (match onChip c a with
    | some (core, off) => decide (0x200000 ≤ off) || x.sup || s.leased x.id core off
    | none => false)

/-- The first address of a footprint whose home is forbidden (R161). -/
def State.homeBad (s : State) (c : Nat) (x : Ctx) (ownOnly spOnly : Bool) (l : List Nat) : Option Nat :=
  l.find? fun a => !s.homeOk c x ownOnly spOnly a

/-- The checks of an on-chip home and of the addresses of a footprint (R161, R330); ACCESS or ECC where the scope table that says which
windows the lesson may use cannot be read (R46, R64). -/
def State.homeChecks (s : State) (c : Nat) (x : Ctx) (ownOnly spOnly : Bool) (home : Option Nat) (l : List Nat) : List (Bool × Bad) :=
  let ecc : Option TrBad := if x.sup || ownOnly then none
    else (home.toList ++ l).findSome? fun a => (onChip c a).bind fun p => s.mayUseEcc c x p.1
  let bad := (home.filter fun a => !s.homeAt c x ownOnly spOnly a).or (s.homeBad c x ownOnly spOnly l)
  (match ecc with | some b => [(true, .trap b.cause b.addr b.sub)] | none => []) ++ [(bad.isSome, .trap cACCESS (bad.getD 0) 0)]

/-- Bank groups and tiles of the executing core among on-chip addresses. -/
def groupsOf (c : Nat) (l : List Nat) : List Nat :=
  (l.filterMap fun a => match onChip c a with
    | some (core, off) => if core = c ∧ off < 0x200000 then some (bankOf off) else none
    | none => none).dedup
def tilesOf (c : Nat) (l : List Nat) : List Nat :=
  (l.filterMap fun a => match onChip c a with
    | some (core, off) => if core = c ∧ 0x240000 ≤ off ∧ off < 0x260000 then some ((off - 0x240000) / 0x8000) else none
    | none => none).dedup

/-! ## Translation at enqueue (R40, R49) -/

/-- The TLB entry that a command's page already uses, or the entry it gains with one count more. -/
def State.pinPage (s : State) (x : Ctx) (pins : List Nat) (va : Nat) (write : Bool) : Except Bad (Ctx × List Nat) :=
  match s.translate x va write (!x.sup) with
  | .fault b => .error (.trap b.cause b.addr b.sub)
  | .stall => .error (.wait .tlbPin (s.pageBase x va))
  | .ok x' e =>
    if pins.contains e.id then .ok (x', pins)
    else if 255 ≤ e.count then .error (.wait .tlbPin e.va)
    else .ok ({ x' with tlb := x'.tlb.map fun t => if t.id = e.id then { t with count := t.count + 1 } else t }, pins ++ [e.id])

/-- The pages that the paged addresses of a footprint lie in, each with the address and the access that met it first; PAGE
wherever it arises, or ECC of a table word, then the first ACCESS (R48, R64, R164). -/
def State.pagesOf (s : State) (x : Ctx) : List (Nat × Bool) → List (TlbEntry × Nat × Bool) → Option Nat →
    Except Bad (List (TlbEntry × Nat × Bool))
  | [], ps, bad => match bad with
    | some va => .error (.trap cACCESS va 0)
    | none => .ok ps
  | (va, w) :: r, ps, bad =>
    if ps.any fun q => decide (q.1.va ≤ va ∧ va < q.1.va + q.1.size) && !s.pageMissing q.1.tgt (q.1.pa + (va - q.1.va))
        && (!w || q.1.w) && (w || q.1.r) then s.pagesOf x r ps bad
    else match s.lookup x va w (!x.sup) with
      | .error b => if b.cause = cACCESS then s.pagesOf x r ps (bad.or (some va)) else .error (.trap b.cause b.addr b.sub)
      | .ok (e, _) => s.pagesOf x r (if ps.any fun q => q.1.va == e.va then ps else ps ++ [(e, va, w)]) bad

/-- The pages pinned, one count more on each. -/
def State.pinPages (s : State) : List (TlbEntry × Nat × Bool) → Ctx → List Nat → Except Bad (Ctx × List Nat)
  | [], x, pins => .ok (x, pins)
  | q :: r, x, pins =>
    match s.pinPage x pins q.2.1 q.2.2 with
    | .error b => .error b
    | .ok (x', pins') => s.pinPages r x' pins'

/-- Every paged address of a footprint translated and its pages pinned; the 65th page faults ACCESS (R49). -/
def State.pinAll (s : State) (l : List (Nat × Bool)) (x : Ctx) : Except Bad (Ctx × List Nat) :=
  match s.pagesOf x l [] none with
  | .error b => .error b
  | .ok ps =>
    match ps[64]? with
    | some q => .error (.trap cACCESS q.1.va 0)
    | none => s.pinPages ps x []

/-! ## Copies (R158 to R168, R242, R258, R293) -/

/-- The tile axis that a stream's quantisation dimension maps to: 0 rows, 1 columns, none otherwise; a stream of rank 1 has
one axis, taken as its columns (R162, R163). -/
def RStream.qTile (st : RStream) : Option Nat :=
  if st.obj.qaxis = st.obj.rank - 1 then some (if st.tr then 0 else 1)
  else if st.obj.qaxis + 2 = st.obj.rank then some (if st.tr then 1 else 0)
  else none

/-- Whether a copy moves bits unchanged (R162). -/
def bitCopy (a b : RStream) : Bool :=
  a.fmt == b.fmt && (!scaled a.fmt || (a.blen == b.blen && a.qTile == b.qTile && a.qTile.isSome))

/-- Whether a copy encodes blocks (R163). -/
def encodes (a b : RStream) : Bool := scaled b.fmt && !bitCopy a b

/-- The block alignment of a destination (R163): QAXIS maps to a tile axis, and the footprint along it (R59: what it touches, the
whole extent of an indexed axis) begins at a multiple of BLEN and ends at one or at the extent. -/
def blockOk (b : RStream) (rows w : Nat) (indexed : Bool) : Bool :=
  match b.qTile with
  | none => false
  | some ax =>
    let q := b.obj.qaxis
    let n : Nat := if b.obj.rank = 1 then rows * w else if ax = 0 then rows else w
    let ext : Int := (b.obj.dims.getD q 0 : Nat)
    let whole := indexed && (b.obj.rank = 1 || ax = 0)
    let lo : Int := if whole then 0 else max 0 (b.org q)
    let hi : Int := if whole then ext else min (b.org q + n) ext
    decide (hi ≤ lo) || (decide (lo % b.blen = 0) && (decide (hi % b.blen = 0) || decide (hi = ext)))

/-- The format pair of a copy (R162): BYTE goes only to BYTE. -/
def pairOk (a b : RStream) : Bool := (a.fmt == 0x12) == (b.fmt == 0x12)

/-- The index list of a gather or scatter (R165): ACCESS for its upper bits, its end or its lease, ALIGN for its offset. -/
def State.listChecks (s : State) (c : Nat) (x : Ctx) (gl : W64) (rows : Nat) : List (Bool × Bad) × List (Bool × Bad) :=
  let off := bits gl.toNat 20 0
  ([(bits gl.toNat 63 21 != 0, .trap cACCESS (2 ^ 63 + off) 0), (decide (0x200000 < off + 4 * rows), .trap cACCESS (2 ^ 63 + off) 0),
    (!x.sup && (List.range 4).any fun g => decide (off < (g + 1) * 0x80000 ∧ g * 0x80000 < off + 4 * rows) && !s.leased x.id c (g * 0x80000),
      .trap cACCESS (2 ^ 63 + off) 0)],
   [(off % 4 != 0, .trap cALIGN (2 ^ 63 + off) 0)])

/-- The common end of a push: homes, alignment, translation, groups, captures. -/
structure Draft where
  cmd : Cmd
  uses : List Use
  objChecks : List (Bool × Bad) := []
  accChecks : List (Bool × Bad) := []
  alignChecks : List (Bool × Bad) := []
  bankChecks : List (Bool × Bad) := []
  /-- Offsets of the own scratchpad that it touches apart from its streams. -/
  extra : List Nat := []
  /-- The accumulator tile that it names (matrix commands). -/
  tile : Option Nat := none
  /-- Addresses of the validity mask it writes, in paged memory and in windows (R62). -/
  maskVa : List Nat := []
  maskChip : List Nat := []

/-- A use with the own-window and scratchpad restrictions of its mnemonic, as an ACCESS check (R161). For an object whose home is no
address, one of the tensor store, ADDR is its HOME word (DESIGN CHOICE, log 35). -/
def State.homeCheck (s : State) (c : Nat) (x : Ctx) (u : Use) (ownOnly spOnly : Bool) : List (Bool × Bad) :=
  match u.st.obj.kind with
  | 3 => s.homeChecks c x ownOnly spOnly (some u.st.obj.home) (u.mainAddrs 3)
  | _ => [(ownOnly || spOnly, .trap cACCESS u.st.obj.home 0)]

/-- The side objects of a stream in windows: any window that R51 permits, whatever the mnemonic asks of the object itself (R161). -/
def State.sideHomes (s : State) (c : Nat) (x : Ctx) (u : Use) : List (Bool × Bad) :=
  (u.sides 3).flatMap fun o => if o.1.kind = 3 then s.homeChecks c x false false (some o.1.home) o.2 else []

/-- A draft of LDT, CPY, STT, CPYS, LDG, SCT and RED.ST: source qs, destination qd, G[g] and the restrictions of R161. Where both
streams fail OBJ the record names the source; a format pair that R162 does not allow, and a block that R163 does not, name the
destination (DESIGN CHOICE, log 36). -/
def State.copyDraft (s : State) (c : Nat) (i : Instr) (qs qd : BitVec 4) (g : BitVec 5) (n : Nat)
    (srcOwn dstOwn : Bool) (gather scatter : Bool) (red : Option (BitVec 3)) : Draft :=
  let x := s.live c
  let a := s.capture x qs.toNat
  let b := s.capture x qd.toNat
  let gw := x.rg g
  let gl := x.rg (g + 1)
  let w := (tileWidth gw).getD 64
  let mean := red == some 3
  let rows := if mean then 3 * n else n
  let enc := encodes a b
  let ua : Use := { reg := qs.toNat, st := a, read := true, rows := rows, w := w, indexed := gather }
  let ub : Use := { reg := qd.toNat, st := b, read := false, rows := rows, w := w, indexed := scatter,
                    wrS := scaled b.fmt && (!enc || (mxBits b.fmt).isSome), wrZ := scaled b.fmt && !enc }
  let (lacc, lal) := if gather || scatter then s.listChecks c x gl n else ([], [])
  let mask (kind : Nat) : List Nat := if a.em = 3 ∧ red = none then b.maskAddrs kind rows w else []
  { cmd := { instr := i, gv := if gather || scatter then [gw, gl] else [gw], sa := some a, sb := some b, mshape := x.sr snMSHAPE }
    uses := [ua, ub]
    objChecks :=
      [(decide (tileWidth gw = none), ua.objBad), (!ua.ok x.svc, ua.objBad), (!ub.ok x.svc, ub.objBad), (!pairOk a b, ub.objBad),
       (enc && !blockOk b rows w scatter, ub.objBad)] ++
      (match red with
       | none => []
       | some 3 => [(a.fmt != 0x0F, ua.objBad), (b.fmt != 0x0F, ub.objBad)]
       | some _ => [(!([0x01, 0x0C, 0x0F].contains b.fmt), ub.objBad)])
    accChecks := s.homeCheck c x ua srcOwn false ++ s.homeCheck c x ub dstOwn red.isSome ++ s.sideHomes c x ua ++ s.sideHomes c x ub ++
      s.homeChecks c x dstOwn false none (mask 3) ++ lacc
    alignChecks := lal
    maskVa := mask 2
    maskChip := mask 3
    extra := if gather || scatter then [bits gl.toNat 20 0, bits gl.toNat 20 0 + 4 * n - 1] else [] }

/-! ## Matrix commands (R204 to R209, R215, R216, R218, R222) -/

/-- The home of an object of a matrix stream: the own scratchpad, or the tensor store where `store` allows it (R206). -/
def State.mxObj (s : State) (c : Nat) (x : Ctx) (store : Bool) (o : ObjEntry) (l : List Nat) : List (Bool × Bad) :=
  match o.kind with
  | 1 => [(!store, .trap cACCESS o.home 0)]
  | 3 => s.homeChecks c x true true (some o.home) l
  | _ => [(true, .trap cACCESS o.home 0)]
/-- The homes of a matrix stream, its scales and zero points among them (R206). -/
def State.mxHome (s : State) (c : Nat) (x : Ctx) (u : Use) (store : Bool) : List (Bool × Bad) :=
  s.mxObj c x store u.st.obj (u.mainAddrs 3) ++ (u.sides 3).flatMap fun o => s.mxObj c x true o.1 o.2

/-- A tag stream as a one-row tile of n tags: N16, strict edges, not transposed (R206, R261). -/
def tagUse (reg : Nat) (st : RStream) (n : Nat) : Use := { reg := reg, st := st, read := true, rows := 1, w := n }
def Use.tagBad (u : Use) (svc : Bool) : Bool := !u.ok svc || u.st.fmt != 0x0E || u.st.em != 0 || u.st.tr

/-- An operand stream: a format of R71 (R206). -/
def Use.operandBad (u : Use) (svc : Bool) : Bool := !u.ok svc || !matrixFmt u.st.fmt

/-- Quad packing of a plane source (R200, R262): the quantisation dimension is the plane-row dimension and BLEN a multiple
of 4, for a scaled format. -/
def quadOk (st : RStream) : Bool := !(quadFmt st.fmt && scaled st.fmt) || (st.qTile == some 0 && st.blen % 4 == 0)

/-- R56: two streams, each as its uses, both in the own scratchpad must lie in different bank groups; ADDR is the first address of
the second in a group of both (R140). A stream lies where its elements, scales and zero points
lie (DESIGN CHOICE, log 36). -/
def bankPair (c : Nat) (as bs : List Use) : List (Bool × Bad) :=
  let of (us : List Use) : List Nat := us.flatMap fun u => if u.st.obj.kind = 3 then u.addrs 3 else []
  let ga := groupsOf c (of as)
  let both := ga.filter (groupsOf c (of bs)).contains
  [(!both.isEmpty, .trap cBANK (((of bs).find? fun a => (groupsOf c [a]).any ga.contains).getD 0) (groupMask both))]

/-- The predicate word's checks, all of whose bytes lie in groups of the lease (R208, R210). -/
def State.predChecks (s : State) (c : Nat) (x : Ctx) (v : W64) : List (Bool × Bad) × List (Bool × Bad) :=
  let a := 2 ^ 63 + bits v.toNat 20 0
  ([(bits v.toNat 63 21 != 0 || (!x.sup && [0, 7].any fun i => !s.leased x.id c (bits v.toNat 20 0 + i)), .trap cACCESS a 0)],
   [(bits v.toNat 2 0 != 0, .trap cALIGN a 0)])

/-- Levels of a nest as MXNEST writes them: count, deltas of ρ − 2 and ρ − 1, of the tag coordinate and of base (R219). -/
def nestEntry (g0 g1 g2 : W64) : List Int :=
  [(bits g0.toNat 31 0 : Nat), sextNat (bits g1.toNat 31 0) 32, sextNat (bits g1.toNat 63 32) 32,
   sextNat (bits g2.toNat 31 0) 32, sextNat (bits g2.toNat 63 32) 32]
/-- The present levels of a nest, 0 outermost. -/
def nestLevels (m : SMap (List Int)) : List (List Int) :=
  (List.range 6).map fun l => SMap.get [0, 0, 0, 0, 0] m l
/-- Least and greatest offset that a nest adds to coordinate d (1 to 4 of an entry). -/
def nestExtreme (lv : List (List Int)) (d : Nat) : Int × Int :=
  lv.foldl (fun p l =>
    let c := l.getD 0 0
    if c ≤ 0 then p
    else
      let e := (c - 1) * l.getD d 0
      (p.1 + min 0 e, p.2 + max 0 e)) (0, 0)

/-- Count of a nest level: an absent level runs once, with index 0. -/
def levelCount (l : List Int) : Nat := max 1 (l.headD 0).toNat
/-- The index combinations of a nest, level 0 outermost (R220). -/
def iterations : List (List Int) → List (List Nat)
  | [] => [[]]
  | l :: r => (List.range (levelCount l)).flatMap fun i => (iterations r).map (i :: ·)
/-- Σ index × delta for delta d of each level. -/
def nestOffset (lv : List (List Int)) (idx : List Nat) (d : Nat) : Int :=
  ((lv.zip idx).map fun p => (p.2 : Int) * p.1.getD d 0).foldl (· + ·) 0
/-- An operand stream moved by offsets of its coordinates ρ − 2 and ρ − 1, and a tag stream by one of its innermost (R219). A stream
of rank 1 has no coordinate ρ − 2, and its delta is ignored (DESIGN CHOICE, log 47). -/
def RStream.operandAt (a : RStream) (dr dc : Int) : RStream :=
  if a.obj.rank = 1 then a.move 0 dc else (a.move (a.obj.rank - 2) dr).move (a.obj.rank - 1) dc
def RStream.tagAt (t : RStream) (d : Int) : RStream := t.move (t.obj.rank - 1) d

/-- A draft of MXRUN and MXGO; the nest is empty for MXRUN. OBJ is checked at the extremes of the nest's offsets (R208); the homes,
the lease, R56 and the groups held are those of every iteration (R57, R206, R330). -/
def State.mxrunDraft (s : State) (c : Nat) (i : Instr) (qa qb : BitVec 4) (acc : BitVec 2) (sr : BitVec 3) (n kc : Nat)
    (pred : Option W64) (nest : List (List Int)) : Draft :=
  let x := s.live c
  let a := s.capture x qa.toNat
  let t := s.capture x qb.toNat
  let len := if quadFmt a.fmt then 4 * kc else kc
  let (rl, rh) := nestExtreme nest 1
  let (cl, ch) := nestExtreme nest 2
  let (tl, th) := nestExtreme nest 3
  let operand (d : Int × Int) : Use := { reg := qa.toNat, st := a.operandAt d.1 d.2, read := true, rows := n, w := len }
  let as := [(rl, cl), (rl, ch), (rh, cl), (rh, ch)].map operand
  let ts := [tl, th].map fun d => tagUse qb.toNat (t.tagAt d) n
  let its := iterations nest
  let allA := (its.map fun it => (nestOffset nest it 1, nestOffset nest it 2)).dedup.map operand
  let allT := (its.map fun it => nestOffset nest it 3).dedup.map fun d => tagUse qb.toNat (t.tagAt d) n
  let (pacc, pal) := match pred with | some v => s.predChecks c x v | none => ([], [])
  { cmd := { instr := i, gv := pred.toList, sa := some a, sb := some t, nest := nest }
    uses := allA ++ allT
    objChecks := (as.map fun u => (u.operandBad x.svc || (sr != 0 && quadFmt a.fmt), u.objBad)) ++ (ts.map fun u => (u.tagBad x.svc, u.objBad))
    accChecks := allA.flatMap (fun u => s.mxHome c x u true) ++ allT.flatMap (fun u => s.mxHome c x u false) ++ pacc
    alignChecks := pal
    bankChecks := bankPair c allA allT
    tile := some acc.toNat }

/-- The draft of a command: what it captures and what it checks, by instruction; none for a word that no queue takes.
ACCESS of an LDO beyond instruction memory reports the whole of G[g] (R167; DESIGN CHOICE, log 35). -/
def State.draft (s : State) (c : Nat) (i : Instr) : Option Draft :=
  let x := s.live c
  let plain (gv : List W64) : Option Draft := some { cmd := { instr := i, gv := gv, mshape := x.sr snMSHAPE }, uses := [] }
  match i with
  | .ldt _ qs qd g _ _ n _ => some (s.copyDraft c i qs qd g n.toNat false true false false none)
  | .cpy _ qs qd g _ _ n _ => some (s.copyDraft c i qs qd g n.toNat false false false false none)
  | .ldg _ qs qd g _ _ n _ => some (s.copyDraft c i qs qd g n.toNat false true true false none)
  | .stt _ qs qd g _ _ n _ => some (s.copyDraft c i qs qd g n.toNat true false false false none)
  | .cpys _ qs qd g _ _ n _ => some (s.copyDraft c i qs qd g n.toNat false false false false none)
  | .sct _ qs qd g _ _ n _ => some (s.copyDraft c i qs qd g n.toNat true false false true none)
  | .redSt _ qs qd g _ _ n _ op => some (s.copyDraft c i qs qd g n.toNat true false false false (some op))
  | .ldo _ qs g _ _ n =>
    let a := s.capture x qs.toNat
    let v := x.rg g
    let u : Use := { reg := qs.toNat, st := a, read := true, rows := n.toNat, w := 8, ov := true }
    some { cmd := { instr := i, gv := [v], sa := some a }, uses := [u]
           objChecks := [(!u.ok x.svc || a.obj.fmt != 0x12 || a.fmt != 0x12 || a.em != 0, u.objBad)]
           accChecks := s.homeCheck c x u false false ++ s.sideHomes c x u ++ [(bits v.toNat 63 15 != 0 || decide (32768 < bits v.toNat 14 0 + n.toNat),
             .trap cACCESS v.toNat 0)] }
  | .pref _ qs g _ _ n =>
    let a := s.capture x qs.toNat
    let v := x.rg g
    let u : Use := { reg := qs.toNat, st := a, read := true, rows := n.toNat, w := (tileWidth v).getD 64 }
    some { cmd := { instr := i, gv := [v], sa := some a }, uses := [u]
           objChecks := [(decide (tileWidth v = none), u.objBad), (!u.ok x.svc, u.objBad)]
           accChecks := [(a.obj.kind == 3, .trap cACCESS a.obj.home 0)] ++ s.sideHomes c x u }
  | .qmark .. => plain []
  | .chpop _ qd g _ _ n =>
    let b := s.capture x qd.toNat
    let v := x.rg g
    let w := (tileWidth v).getD 64
    let u : Use := { reg := qd.toNat, st := b, read := false, rows := n.toNat, w := w }
    some { cmd := { instr := i, gv := [v], sb := some b }, uses := [u]
           objChecks := [(decide (tileWidth v = none) || decide (64 < w), u.objBad), (!u.ok x.svc, u.objBad),
             (!([0x02, 0x03, 0x0E].contains b.fmt), u.objBad)]
           accChecks := s.homeCheck c x u true true ++ s.sideHomes c x u }
  | .vld _ _ a b _ mf => vmem mf.toNat (x.rg a) (x.rg b)
  | .vst _ _ a b _ _ mf => vmem mf.toNat (x.rg a) (x.rg b)
  | .vmovg _ _ a _ => plain [x.rg a]
  | .vkey _ _ _ _ _ _ _ _ gh => plain [x.rg gh, x.rg (gh + 1), x.rg (gh + 2)]
  | .vupd _ _ _ _ _ _ _ gh => plain [x.rg gh, x.rg (gh + 1), x.rg (gh + 2), x.rg (gh + 3)]
  | .pdir _ g _ _ => plain [x.rg g]
  | .pload _ qa g rows _ =>
    let a := s.capture x qa.toNat
    let v := x.rg g
    let w := (tileWidth v).getD 64
    let n := rows.toNat + 1
    let u : Use := { reg := qa.toNat, st := a, read := true, rows := n, w := w }
    some { cmd := { instr := i, gv := [v], sa := some a }, uses := [u]
           objChecks := [(decide (tileWidth v = none) || decide (64 < w) || decide ((if quadFmt a.fmt then 256 else 64) < n), u.objBad),
             (!u.ok x.svc || !(matrixFmt a.fmt || a.fmt == 0x01 || a.fmt == 0x11) || !quadOk a, u.objBad)]
           accChecks := s.mxHome c x u true }
  | .pstore _ qb g rows _ _ =>
    let b := s.capture x qb.toNat
    let v := x.rg g
    let w := (tileWidth v).getD 64
    let u : Use := { reg := qb.toNat, st := b, read := false, rows := rows.toNat + 1, w := w }
    some { cmd := { instr := i, gv := [v], sb := some b }, uses := [u]
           objChecks := [(decide (tileWidth v = none) || decide (64 < w) || decide (256 < rows.toNat + 1), u.objBad),
             (!u.ok x.svc || !([0x01, 0x02, 0x11].contains b.fmt), u.objBad)]
           accChecks := s.mxHome c x u true }
  | .mxnest _ g _ => plain [x.rg g, x.rg (g + 1), x.rg (g + 2)]
  | .mxgo _ qa qb acc sr _ n kc => some (s.mxrunDraft c i qa qb acc sr (n.toNat + 1) (kc.toNat + 1) none (nestLevels x.pushedNest))
  | .mxrun _ qa qb acc sr g _ n kc p =>
    some (s.mxrunDraft c i qa qb acc sr (n.toNat + 1) (kc.toNat + 1) (if p = 1 then some (x.rg g) else none) [])
  | .mxgrad _ qa qb qt n kx ky =>
    let a := s.capture x qa.toNat
    let b := s.capture x qb.toNat
    let t := s.capture x qt.toNat
    let ua : Use := { reg := qa.toNat, st := a, read := true, rows := n.toNat + 1, w := kx.toNat + 1 }
    let ub : Use := { reg := qb.toNat, st := b, read := true, rows := n.toNat + 1, w := ky.toNat + 1 }
    let ut := tagUse qt.toNat t (n.toNat + 1)
    some { cmd := { instr := i, sa := some a, sb := some b, st := some t }, uses := [ua, ub, ut]
           objChecks := [(ua.operandBad x.svc, ua.objBad), (ub.operandBad x.svc, ub.objBad), (ut.tagBad x.svc, ut.objBad)]
           accChecks := s.mxHome c x ua true ++ s.mxHome c x ub true ++ s.mxHome c x ut false
           bankChecks := bankPair c [ua] [ub] }
  | .mxacl _ acc _ _ => some { cmd := { instr := i }, uses := [], tile := some acc.toNat }
  | .mxacr _ qb acc dst _ _ _ _ _ _ =>
    if dst = 1 then
      let b := s.capture x qb.toNat
      let u : Use := { reg := qb.toNat, st := b, read := false, rows := 64, w := 64,
                       wrS := (mxBits b.fmt).isSome }
      some { cmd := { instr := i, sb := some b }, uses := [u], tile := some acc.toNat
             objChecks := [(!u.ok x.svc || b.fmt == 0x12 || (scaled b.fmt && !blockOk b 64 64 false), u.objBad)]
             accChecks := s.mxHome c x u false }
    else some { cmd := { instr := i }, uses := [], tile := some acc.toNat }
  | i => if (engineOf i).isSome then plain [] else none
where
  /-- The draft of VLD and VST (R182). An ACCESS or ALIGN reports the first byte that G[a] names, whichever row or field is at fault
  (DESIGN CHOICE, log 35). -/
  vmem (mf : Nat) (ga gb : W64) : Option Draft :=
    let x := s.live c
    let w := if mf = 0 then 4 else if mf = 1 ∨ mf = 2 ∨ mf = 7 ∨ mf = 8 then 2 else 1
    let base := ga.toNat
    let pitch := if gb = 0 then 64 * w else gb.toNat
    let offs := (List.range 16).flatMap fun r => [base + r * pitch, base + r * pitch + 64 * w - 1]
    let adr := 2 ^ 63 + bits base 20 0
    some { cmd := { instr := i, gv := [ga, gb] }, uses := []
           accChecks := [(bits ga.toNat 63 21 != 0 || bits gb.toNat 63 21 != 0 || decide (0x200000 < base + 15 * pitch + 64 * w)
             || (!x.sup && offs.any fun o => !s.leased x.id c o), .trap cACCESS adr 0)]
           alignChecks := [(base % 64 != 0 || pitch % 64 != 0, .trap cALIGN adr 0)]
           extra := offs }

/-! ## The push -/

/-- Whether the MX head is stopped by SELMISS or MXPAR, so that the repair lane is open (R212). -/
def Ctx.mxStopped (x : Ctx) : Bool :=
  match x.mx.head? with
  | none => false
  | some c => c.parStopped
/-- Commands that the repair lane takes (R212). -/
def laneable : Instr → Bool
  | .pdir .. => true
  | .pload .. => true
  | .pstore .. => true
  | .pclr .. => true
  | .mxstat .. => true
  | .mxres .. => true
  | _ => false

/-- Objects whose in-flight count a command raises (R59): its streams' and their scales' and zero points'. -/
def Draft.objIdxs (d : Draft) : List Nat :=
  (d.uses.flatMap fun u => [u.st.objIdx, u.st.obj.sobj, u.st.obj.zobj].filter (· ≠ 0)).dedup

/-- The command numbered and stamped, placed at the tail of its queue, in the repair lane, or, a QMARK, in both copy
queues (R125, R169, R212). An MXRES pushed while MXPAR stops the head of the lane is to resume that head, and goes before it (R213;
log 21). -/
def State.enqueue (s : State) (c : Nat) (a : Agent) (k : Cmd) : State :=
  let x := s.live c
  let num (n : Nat) (k : Cmd) : Cmd := { k with seq := x.seqs.get 0 n, gen := (x.sr snGEN).setWidth 32, since := s.cycle }
  let bump (m : SMap Nat) (n : Nat) : SMap Nat := m.put n (m.get 0 n + 1)
  if a = .mx ∧ x.mxStopped ∧ x.inh ∧ laneable k.instr then
    let ahead := match k.instr, x.lane with | .mxres .., h :: _ => h.parStopped | _, _ => false
    s.setLive c { x with lane := if ahead then num 5 k :: x.lane else x.lane ++ [num 5 k], seqs := bump x.seqs 5 }
  else if k.isMark then
    s.setLive c { x with ld := x.ld ++ [num 1 k], st := x.st ++ [num 2 k], seqs := bump (bump x.seqs 1) 2 }
  else
    let x' := x.setQueue a (x.queue a ++ [num (agentNum a) k])
    s.setLive c { x' with seqs := bump x.seqs (agentNum a) }

/-- Whether the target of a push is full (R41, R169, R212). -/
def Ctx.pushFull (x : Ctx) (a : Agent) (i : Instr) : Bool :=
  if a = .mx ∧ x.mxStopped ∧ x.inh ∧ laneable i then decide (4 ≤ x.lane.length)
  else match i with
    | .qmark .. => decide (32 ≤ x.ld.length) || decide (32 ≤ x.st.length)
    | _ => decide (queueCap a ≤ (x.queue a).length)

/-- The control core's copy of the nests after it has pushed an MXNEST or MXGO (R208, R219, R220). -/
def Ctx.noteNest (x : Ctx) (i : Instr) : Ctx :=
  match i with
  | .mxnest _ g level => { x with pushedNest := x.pushedNest.put level.toNat (nestEntry (x.rg g) (x.rg (g + 1)) (x.rg (g + 2))) }
  | .mxgo .. => { x with pushedNest := x.pushedActive, pushedActive := x.pushedNest }
  | _ => x

/-- The push of an engine word at the control core (R40): room, the checks in order, the translations, the captures. A virtual
address with [63:48] non-zero is ACCESS (R46). The stores of the path are performed first, so the command sees them (R230). -/
def pushBody (i : Instr) (s : State) : Act :=
  let c := s.cur
  match engineOf i, s.draft c i with
  | some a, some d =>
    let bad : Bad → Act := fun b => match b with
      | .trap cause addr sub => fault cause addr sub
      | .wait k o => .wait k o
    if s.ctx.pushFull a i then .wait .queueRoom (agentNum a)
    else if s.pathBlocked c then .wait .fence 0
    else
      let vas := d.uses.flatMap Use.paged
      let vas := vas ++ d.maskVa.map fun va => (va, true)
      let far := (vas.find? fun v => decide (2 ^ 48 ≤ v.1)).map (·.1)
      match firstBad (d.objChecks ++ d.accChecks ++ [(far.isSome, .trap cACCESS (far.getD 0) 0)] ++ d.alignChecks) with
      | .error b => bad b
      | .ok _ =>
        match s.pinAll vas s.ctx with
        | .error b => bad b
        | .ok (x, pins) => match firstBad d.bankChecks with
          | .error b => bad b
          | .ok _ =>
            let chip := d.uses.flatMap (fun u => u.addrs 3) ++ d.maskChip ++ d.extra.map (· + 2 ^ 63)
            let k := { d.cmd with
              pins := pins
              objs := d.objIdxs
              groups := groupsOf c chip
              tiles := tilesOf c chip ++ d.tile.toList }
            let s := (s.drain c).setCtx { (s.drain c).ctx with tlb := x.tlb, tlbNext := x.tlbNext }
            let s := (s.countObjs x.id d.objIdxs true).enqueue c a k
            .done (s.setCtx (s.ctx.noteNest i)) (s.ctx.pc + 1)
  | _, _ => fault cFETCH s.ctx.pc.toNat

/-- The outcome of an engine word on the current core: its wait and signal bytes belong to the engine (R88). -/
def pushInstr (i : Instr) (s : State) : Host.Outcome State Fault Refusal := ccInstr ⟨0, 0⟩ (pushBody i) s

end Sys2Proof.Machine
end

