-- ==== Sys2Proof/Machine/Copy.lean ====
section
/-! DEFINITION. The copy commands (R158 to R173), RED.ST (R242, R258) and CHPOP (R293): their words, which push them, and
the effects a started command makes, row by row and burst by burst. -/

namespace Sys2Proof.Machine

/-! ## The words: each is checked, captured and pushed (R40, R164) -/

/-- LDT (R166). -/
def execLdt (tk : Tok) (qs qd : BitVec 4) (g : BitVec 5) (fl : BitVec 6) (fe : BitVec 1) (n : BitVec 12) (rm : BitVec 3)
    (s : State) : Host.Outcome State Fault Refusal := pushInstr (.ldt tk qs qd g fl fe n rm) s
/-- CPY (R166). -/
def execCpy (tk : Tok) (qs qd : BitVec 4) (g : BitVec 5) (fl : BitVec 6) (fe : BitVec 1) (n : BitVec 12) (rm : BitVec 3)
    (s : State) : Host.Outcome State Fault Refusal := pushInstr (.cpy tk qs qd g fl fe n rm) s
/-- LDO (R167). -/
def execLdo (tk : Tok) (qs : BitVec 4) (g : BitVec 5) (fl : BitVec 6) (fe : BitVec 1) (n : BitVec 12)
    (s : State) : Host.Outcome State Fault Refusal := pushInstr (.ldo tk qs g fl fe n) s
/-- PREF (R168). -/
def execPref (tk : Tok) (qs : BitVec 4) (g : BitVec 5) (fl : BitVec 6) (fe : BitVec 1) (n : BitVec 12)
    (s : State) : Host.Outcome State Fault Refusal := pushInstr (.pref tk qs g fl fe n) s
/-- LDG (R165). -/
def execLdg (tk : Tok) (qs qd : BitVec 4) (g : BitVec 5) (fl : BitVec 6) (fe : BitVec 1) (n : BitVec 12) (rm : BitVec 3)
    (s : State) : Host.Outcome State Fault Refusal := pushInstr (.ldg tk qs qd g fl fe n rm) s
/-- QMARK (R169). -/
def execQmark (tk : Tok) (fl : BitVec 6) (fe : BitVec 1) (s : State) : Host.Outcome State Fault Refusal :=
  pushInstr (.qmark tk fl fe) s
/-- STT (R166). -/
def execStt (tk : Tok) (qs qd : BitVec 4) (g : BitVec 5) (fl : BitVec 6) (fe : BitVec 1) (n : BitVec 12) (rm : BitVec 3)
    (s : State) : Host.Outcome State Fault Refusal := pushInstr (.stt tk qs qd g fl fe n rm) s
/-- CPYS (R166). -/
def execCpys (tk : Tok) (qs qd : BitVec 4) (g : BitVec 5) (fl : BitVec 6) (fe : BitVec 1) (n : BitVec 12) (rm : BitVec 3)
    (s : State) : Host.Outcome State Fault Refusal := pushInstr (.cpys tk qs qd g fl fe n rm) s
/-- RED.ST (R242). -/
def execRedSt (tk : Tok) (qs qd : BitVec 4) (g : BitVec 5) (fl : BitVec 6) (fe : BitVec 1) (n : BitVec 12) (rm op : BitVec 3)
    (s : State) : Host.Outcome State Fault Refusal := pushInstr (.redSt tk qs qd g fl fe n rm op) s
/-- SCT (R165). -/
def execSct (tk : Tok) (qs qd : BitVec 4) (g : BitVec 5) (fl : BitVec 6) (fe : BitVec 1) (n : BitVec 12) (rm : BitVec 3)
    (s : State) : Host.Outcome State Fault Refusal := pushInstr (.sct tk qs qd g fl fe n rm) s
/-- CHPOP (R293). -/
def execChpop (tk : Tok) (qd : BitVec 4) (g : BitVec 5) (fl : BitVec 6) (fe : BitVec 1) (n : BitVec 12)
    (s : State) : Host.Outcome State Fault Refusal := pushInstr (.chpop tk qd g fl fe n) s

/-! ## Bursts (R63, R64, R173) -/

/-- What the effects of a started command come to: made, with the flags raised and what its retirement adds (a FIFO
word, a count), or an engine fault with its partial effects made; the fault's agent, command and queue are filled in by the
stop (R138). -/
inductive Eff where
  | ok (s : State) (fl : Flags) (note : List Nat)
  | stop (s : State) (p : Pend)

/-- The 64-byte line of a place (R63). -/
def Place.line : Place → Place
  | .win c x o => .win c x (o / 64 * 64)
  | .tier2 a => .tier2 (a / 64 * 64)
  | .host a => .host (a / 64 * 64)
  | .tier1 st h o => .tier1 st h (o / 64 * 64)

/-- Insert into a list sorted by number, which keeps one entry for each, the latest. -/
def insertOff {α : Type} (n : Nat) (v : α) : List (Nat × α) → List (Nat × α)
  | [] => [(n, v)]
  | c :: r => if n < c.1 then (n, v) :: c :: r else if n = c.1 then (n, v) :: r else c :: insertOff n v r

/-- The bytes of elements of an object, by rising offset from its home: offset and place. -/
def bytesOf (f : Finder) (o : ObjEntry) (ebits : Nat) (idxs : List Nat) : List (Nat × Place) :=
  idxs.foldl (fun l i =>
    let (b, n, _) := packing ebits i
    (List.range n).foldl (fun l d => match f o (b + d) with | some p => insertOff (b + d) p l | none => l) l) []

/-- The lines that bytes lie in, in rising order, each with the first of its bytes. -/
def linesOf : List (Nat × Place) → List (Place × Nat)
  | [] => []
  | c :: r => let l := linesOf r; if l.any (·.1 = c.2.line) then (l.map fun e => if e.1 = c.2.line then (e.1, c.1) else e)
              else (c.2.line, c.1) :: l

/-- The progress of a copy: the state, bursts begun, destination bytes written, and the fault that ended it. -/
structure Mv where
  s : State
  bursts : Nat := 0
  written : Nat := 0
  bad : Option Pend := none
  /-- Whether a scratchpad fault ends the writes at its word, not at its burst: PSTORE and MXACR.ST (R224). -/
  word : Bool := false

/-- ECC at a byte of an object: the address of its word (R140); an offset of the extent in the tensor store. -/
def eccAt (o : ObjEntry) (off : Nat) (p : Place) : Pend :=
  { cause := cECC, sub := p.eccSub, addr := (if o.kind = 1 then off else o.addr off) / 8 * 8 }

/-- Whether a place lies in tier-2 memory that is not installed, or at a site that is off (R48, R319). -/
def State.placeMissing (s : State) : Place → Bool
  | .tier2 pa => s.pageMissing 0 pa
  | _ => false

/-- One burst over a line of an object: PAGE where a pinned page's memory has gone (R134, R319), then ECC before EXPIRED (R173).
The n-th burst of a command begins n clk after its first (log 20), and compares TIME then with the deadline (R63). The base die
corrects what correctable errors a tier-1 burst meets (R64). -/
def Mv.burst (m : Mv) (o : ObjEntry) (oi : Nat) (line : Place × Nat) (bad : Option (Nat × Place)) : Mv :=
  match m.bad with
  | some _ => m
  | none =>
    if m.s.placeMissing line.1 then { m with bad := some { cause := cPAGE, addr := o.addr line.2 } }
    else match bad with
      | some (off, p) => { m with bad := some (eccAt o off p) }
      | none =>
        if o.life = 1 ∧ o.deadline ≤ (m.s.time6 + 5 * m.bursts) / 6 then
          { m with bad := some { cause := cEXPIRED, addr := oi, detail := m.written } }
        else { m with
          bursts := m.bursts + 1
          s := match line.1 with
            | .tier1 st h off => m.s.correctTier1 (st * 2 ^ 32 + h) ((List.range 8).map (off / 64 * 8 + ·))
            | _ => m.s }

/-- A read burst over a line of bytes, which meets what correctable errors they have (R64). -/
def Mv.readBurst (m : Mv) (f : Place → Bool) (o : ObjEntry) (oi : Nat) (bs : List (Nat × Place)) (line : Place × Nat) : Mv :=
  let here := bs.filter fun b => decide (b.2.line = line.1)
  let m' := m.burst o oi line (here.find? fun b => f b.2)
  if m'.bad.isSome then m' else { m' with s := m'.s.meet (here.map (·.2)) }

/-- The read bursts over elements of one object, in rising order of lines. -/
def Mv.readObj (m : Mv) (f : Finder) (o : ObjEntry) (oi ebits : Nat) (idxs : List Nat) : Mv :=
  if idxs.isEmpty then m
  else
    let bs := bytesOf f o ebits idxs
    (linesOf bs).foldl (fun m l => m.readBurst m.s.badRead o oi bs l) m

/-- The read bursts of a row of a stream: its elements, then the scales and zero points they use. -/
def Mv.readRow (m : Mv) (f : Finder) (st : RStream) (es : List Ele) : Mv :=
  let cs := es.filterMap fun e => match e with | .at c => some c | _ => none
  let m := m.readObj f st.obj st.objIdx (elemBits st.fmt) (cs.map st.idx)
  if !scaled st.fmt then m
  else
    let m := m.readObj f st.sobj st.obj.sobj st.sobj.ebits (cs.map st.scaleIdx)
    if (obBits st.fmt).isSome && !st.zps then m.readObj f st.zobj st.obj.zobj st.zobj.ebits (cs.map st.zpIdx) else m

/-- The write bursts over elements of one object: a word that is covered only in part, or any word of a read and write
back (`rmw`), must be good, and what such a read meets is corrected and counted (R64). An element belongs to the burst of its last byte, and is written if that burst began, or if it ends
before the faulting word of a matrix command's store (R224), and those of every element that `tie` writes with it. -/
def Mv.writeTied (m : Mv) (f : Finder) (o : ObjEntry) (oi ebits : Nat) (els : List (Nat × Nat)) (rmw : Bool) (tie : Nat → List Nat) : Mv :=
  if els.isEmpty || m.bad.isSome then m
  else
    let bs := bytesOf f o ebits (els.map (·.1))
    let idxs := els.map (·.1)
    let whole (b : Nat) : Bool := ebits % 8 = 0 || (List.range 8).all fun t => idxs.contains ((8 * b + t) / ebits)
    let ws := m.s.elemWrites f o ebits els
    let all := if ebits % 8 = 0 then ws else ws.filter fun w => bs.any fun b => b.2 == w.1 && whole b.1
    let r := (linesOf bs).foldl (fun (r : Mv × List Place × Option Nat) l =>
      let bad := bs.find? fun b => decide (b.2.line = l.1) && m.s.badUnit b.2 && (rmw || !coversUnit all b.2)
      let m' := r.1.burst o oi l bad
      (m', if m'.bad.isSome then r.2.1 else l.1 :: r.2.1, if r.1.bad.isNone then (bad.filter fun _ => m.word && o.kind == 3).map (·.1) else r.2.2))
      (m, [], none)
    let begun (i : Nat) : Bool :=
      let (b, n, _) := packing ebits i
      (match f o (b + n - 1) with | some p => r.2.1.contains p.line | none => false)
        || (match r.2.2 with | some cut => decide (b + n - 1 < cut) | none => false)
    let ws := m.s.elemWrites f o ebits (els.filter fun e => (e.1 :: tie e.1).all begun)
    let written := m.written + ws.length
    let read := if rmw then (bs.filter fun b => r.2.1.contains b.2.line).map (·.2) else []
    { r.1 with
      s := (r.1.s.meet read).writeSet ws
      written := written
      bad := r.1.bad.map fun p => if p.cause = cEXPIRED then { p with detail := written } else p }

/-- The write bursts over elements that stand each for itself. -/
def Mv.writeObj (m : Mv) (f : Finder) (o : ObjEntry) (oi ebits : Nat) (els : List (Nat × Nat)) (rmw : Bool := false) : Mv :=
  m.writeTied f o oi ebits els rmw fun _ => []

/-! ## Conversion of rows (R162, R163) -/

/-- The elements, scales and zero points written for a list of destination elements with their raw source bits and, where
the source element exists, its scale and zero point: bits copied unchanged, but for those that carry no value (R67, R162). Where ZPC
stands for the destination's zero point under ZPS, no ZOBJ is written (DESIGN CHOICE, log 73). Where the blocks of source and destination
do not line up, two scales or zero points fall on one place, and the later element's stands (DESIGN CHOICE, log 37). -/
def Mv.putBits (m : Mv) (f : Finder) (b : RStream) (l : List (List Nat × Nat × Option (Nat × Nat))) : Mv :=
  let m := m.writeObj f b.obj b.objIdx (elemBits b.fmt) (l.map fun e => (b.idx e.1, valueBits b.fmt e.2.1))
  if !scaled b.fmt then m
  else
    let m := m.writeObj f b.sobj b.obj.sobj b.sobj.ebits ((l.filterMap fun e => e.2.2.map fun q => (b.scaleIdx e.1, q.1)).dedup)
    if (obBits b.fmt).isSome && !b.zps then
      m.writeObj f b.zobj b.obj.zobj b.zobj.ebits ((l.filterMap fun e => e.2.2.map fun q => (b.zpIdx e.1, q.2)).dedup)
    else m

/-- The encodings of the elements of a band of rows in a block format: block by block, in order along QAXIS (R163). The
result pairs each element with its bits, and each scale index with the scale to write (MX only). Where an SCT names only some rows of a
block that runs along its index, those rows alone are encoded, the block's scale is theirs, and its other elements keep their bits
(DESIGN CHOICE, log 37). -/
def encodeBand (s : State) (f : Finder) (b : RStream) (rm : Nat) (l : List (List Nat × Num)) :
    List (List Nat × Nat) × List (Nat × Nat) :=
  let keys := (l.map fun e => b.scaleCoord e.1).dedup
  keys.foldl (fun acc key =>
    let blk := l.filter fun e => b.scaleCoord e.1 = key
    let blk := blk.foldl (fun r e => insertOff (e.1.getD b.obj.qaxis 0) e r) []
    match mxBits b.fmt, obBits b.fmt with
    | some k, _ =>
      let (e, xs) := encodeMx (blk.map fun c => c.2.2) k rm
      (acc.1 ++ (blk.map fun c => c.2.1).zip xs, acc.2 ++ [(linear key (b.scaleStrides b.sobj), e)])
    | _, some k =>
      let cs := (blk.map fun c => c.2.1).headD []
      let (sc, zp) := s.scaleOf f b cs
      let sv := decodeF BF16 (sc % 65536)
      (acc.1 ++ blk.map fun c => (c.2.1, encodeOb c.2.2 sv zp k rm), acc.2)
    | _, _ => acc) ([], [])

/-- Whether row k of a destination begins a band: rows that share blocks along QAXIS are encoded together (R163). -/
def bandStart (b : RStream) (w k : Nat) : Bool :=
  match b.qTile with
  | some 0 => decide ((b.org b.obj.qaxis + k) % b.blen = 0)
  | _ => if b.obj.rank = 1 then decide ((b.org 0 + (k * w : Nat)) % b.blen = 0) else true

/-- Rows 0 to n − 1 cut into bands. -/
def bands (b : RStream) (w : Nat) (enc : Bool) : Nat → List (List Nat)
  | 0 => []
  | k + 1 =>
    let l := bands b w enc k
    if enc && !bandStart b w k then
      match l.reverse with
      | [] => [[k]]
      | last :: r => (r.reverse) ++ [last ++ [k]]
    else l ++ [[k]]

/-- A band's values, of a source format, written to a destination: elements of row k at their destination elements, in ascending
rows; values are exact (R162, R163). The scales and zero points of an OB destination are read band by band, for an MXACR.ST too, so that an
ECC there leaves the bands before it written (DESIGN CHOICE, log 34). -/
def Mv.putNums (m : Mv) (f : Finder) (b : RStream) (src rm : Nat) (rows : List (List (Ele × Num))) : Mv :=
  let live : List (List (List Nat × Num)) := rows.map fun r => r.filterMap fun e => match e.1 with | .at c => some (c, e.2) | _ => none
  if scaled b.fmt then
    let m := if (obBits b.fmt).isSome then
        live.foldl (fun m r =>
          let m := m.readObj f b.sobj b.obj.sobj b.sobj.ebits (r.map fun e => b.scaleIdx e.1)
          if b.zps then m else m.readObj f b.zobj b.obj.zobj b.zobj.ebits (r.map fun e => b.zpIdx e.1)) m
      else m
    let (els, scs) := encodeBand m.s f b rm live.flatten
    live.foldl (fun m r =>
      let m := m.writeObj f b.obj b.objIdx (elemBits b.fmt)
        (r.filterMap fun e => (els.find? (·.1 = e.1)).map fun v => (b.idx e.1, v.2))
      let idxs := (r.map fun e => b.scaleIdx e.1).dedup
      m.writeObj f b.sobj b.obj.sobj b.sobj.ebits (scs.filter fun e => idxs.contains e.1)) m
  else
    live.foldl (fun m r =>
      m.writeObj f b.obj b.objIdx (elemBits b.fmt) (r.map fun e => (b.idx e.1, (convElem src b.fmt e.2 rm).1))) m

/-! ## Tiles (R160, R165, R166) -/

/-- A row of destination elements. -/
def RStream.rowEles (st : RStream) (read : Bool) (w k : Nat) (idx : Option (List Nat)) : List Ele :=
  (List.range w).map fun j => st.elem read w k j (idx.map fun l => l.getD k 0)

/-- The bytes that both footprints of a copy touch, those of the validity mask among them: their content afterwards is a free value
(R160; log 37). -/
def Mv.freeBytes (m : Mv) (f : Finder) (a b : RStream) (ar br : List Ele) (mask : List Place) : Mv :=
  let ps := (br.flatMap fun e => b.touched f e).filterMap id ++ mask
  let qs := (ar.flatMap fun e => a.touched f e).filterMap id
  let both := (ps.filter qs.contains).dedup
  if both.isEmpty then m
  else { m with s :=
    { (m.s.writeSet (both.zipIdx.map fun e => (e.1, Config.freeShared m.s.freeCtr e.2))) with freeCtr := m.s.freeCtr + 1 } }

/-- The bytes that the tiles of a copy that has met no fault share, as free values (R160). -/
def Mv.sharedFree (f : Finder) (a b : RStream) (rows w : Nat) (m : Mv) : Mv :=
  if m.bad.isSome then m
  else m.freeBytes f a b ((List.range rows).flatMap fun k => a.rowEles true w k none) ((List.range rows).flatMap fun k => b.rowEles false w k none) []

/-- LDT, CPY, STT, CPYS, LDG and SCT on rows of w elements (R166): read a row, convert it, write it; then the validity mask
(R62). Rows that share blocks along QAXIS are one band, all of whose reads come before any of its writes, though R63 puts row 0's writes
before row 1's reads (DESIGN CHOICE, log 37). -/
def State.copyTile (s : State) (f : Finder) (a b : RStream) (rows w rm : Nat) (gather scatter : Option (List Nat)) : Mv :=
  let bit := bitCopy a b
  let m0 : Mv := { s := s }
  let cut := if scatter.isSome ∧ encodes a b ∧ (b.qTile = some 0 ∨ b.obj.rank = 1) then [List.range rows] else bands b w (encodes a b) rows
  let m := cut.foldl (fun (m : Mv) band =>
    let src := band.map fun k => a.rowEles true w k gather
    let dst := band.map fun k => b.rowEles false w k scatter
    let m := src.foldl (fun m es => m.readRow f a es) m
    if m.bad.isSome then m
    else if bit then
      (src.zip dst).foldl (fun m r =>
        m.putBits f b ((r.1.zip r.2).filterMap fun e => match e.2 with
          | .at c =>
            some (c, m.s.readRaw f a e.1, match e.1 with | .at cs => some (m.s.scaleOf f a cs) | _ => none)
          | _ => none)) m
    else m.putNums f b a.fmt rm ((src.zip dst).map fun r => (r.1.zip r.2).map fun e => (e.2, m.s.readNum f a e.1))) m0
  let m := if m.bad.isNone && a.em == 3 then
      let valid := (List.range rows).map fun k =>
        a.rowValid w k (gather.map fun l => l.getD k 0)
      let bs := (List.range (8 * ((rows + 63) / 64))).map fun i =>
        (List.range 8).foldl (fun (v : Byte) t => if valid.getD (8 * i + t) false then v ||| (1 <<< t) else v) 0
      m.writeObj f b.obj b.objIdx 8 ((List.range bs.length).map fun i => (b.maskOff rows w + i, (bs.getD i 0).toNat))
    else m
  if m.bad.isSome then m
  else
    m.freeBytes f a b ((List.range rows).flatMap fun k => a.rowEles true w k gather)
      ((List.range rows).flatMap fun k => b.rowEles false w k scatter)
      (if a.em = 3 then (List.range (8 * ((rows + 63) / 64))).filterMap fun i => f b.obj (b.maskOff rows w + i) else [])

/-! ## RED.ST (R242, R258) -/

/-- One update at a bank controller: ADD, MIN or MAX of the old word d with v (R242). -/
def redUpdate (fmt op rm d v : Nat) : Nat :=
  match fmt, op with
  | 0x01, 0 => (fadd F32 d v rm).1
  | 0x01, 1 => (roundTo F32 ((decodeF F32 d).fmin (decodeF F32 v)) 0).1
  | 0x01, _ => (roundTo F32 ((decodeF F32 d).fmax (decodeF F32 v)) 0).1
  | _, 0 => (d + v) % 2 ^ 32
  | 0x0C, 1 => if sextNat v 32 < sextNat d 32 then v else d
  | 0x0C, _ => if sextNat d 32 < sextNat v 32 then v else d
  | _, 1 => if v < d then v else d
  | _, _ => if d < v then v else d

/-- The value of an element of an object's destination under writes not yet made. -/
def State.elemUnder (s : State) (f : Finder) (o : ObjEntry) (l : List (Nat × Nat)) (i : Nat) : Nat :=
  match l.find? (·.1 = i) with | some e => e.2 | none => s.rawElem f o 32 i

/-- RED.ST ADD, MIN and MAX: row by row, and in a row in ascending j, so that no update of an element is lost (R242, R243); bytes that both
footprints share are free values afterwards (R160). -/
def State.reduceTile (s : State) (f : Finder) (a b : RStream) (rows w op rm : Nat) : Mv :=
  Mv.sharedFree f a b rows w <| (List.range rows).foldl (fun (m : Mv) k =>
    let src := a.rowEles true w k none
    let dst := b.rowEles false w k none
    let m := m.readRow f a src
    m.writeObj f b.obj b.objIdx 32 ((src.zip dst).foldl (fun l e => match e.2 with
      | .at c =>
        let v := (convElem a.fmt b.fmt (m.s.readNum f a e.1) rm).1
        insertOff (b.idx c) (redUpdate b.fmt op rm (m.s.elemUnder f b.obj l (b.idx c)) v) l
      | _ => l) []) true) { s := s }

/-- RED.ST MEAN: the states of a 3R-row tile merged at the bank controllers, in ascending j, under a pair and the shape captured; the
three words of a state are written together or not at all (R258), so a state of which the destination's edge mode drops a word is left
out whole (DESIGN CHOICE, log 22); bytes that both footprints share are free values afterwards (R160). -/
def State.meanTile (s : State) (f : Finder) (a b : RStream) (p : Pair) (sh : W64) (rows w : Nat) : Mv :=
  Mv.sharedFree f a b (3 * rows) w <| (List.range rows).foldl (fun (m : Mv) k =>
    let rs := [k, rows + k, 2 * rows + k]
    let m := rs.foldl (fun m r => m.readRow f a (a.rowEles true w r none)) m
    let state (v : List Nat) : MeanState := { n := v.getD 0 0, m := v.getD 1 0, s := v.getD 2 0 }
    let words (t : RStream) (read : Bool) (j : Nat) : List Nat :=
      rs.filterMap fun r => match t.elem read w r j with | .at c => some (t.idx c) | _ => none
    let term (j : Nat) : MeanState := state (rs.map fun r => match a.elem true w r j with
      | .at c => m.s.rawElem f a.obj 32 (a.idx c)
      | _ => 0)
    let kept := (List.range w).filter fun j => (words b false j).length = 3
    let new := kept.foldl (fun l j =>
      let is := words b false j
      let r := meanMergeAt p sh (state (is.map (m.s.elemUnder f b.obj l))) (term j)
      (is.zip [r.n, r.m, r.s]).foldl (fun l e => insertOff e.1 e.2 l) l) []
    m.writeTied f b.obj b.objIdx 32 new true fun i => ((kept.map (words b false)).filter (·.contains i)).flatten) { s := s }

/-! ## LDO and CHPOP (R167, R100, R293) -/

/-- The destination words of an LDO. -/
def ldoWords (k : Cmd) (n : Nat) : List Nat := (List.range n).map fun i => bits (k.gv.headD 0).toNat 14 0 + i

/-- The state of destination words changed, the words kept. -/
def Ctx.markWords (x : Ctx) (l : List Nat) (st : WordState) : Ctx :=
  { x with words := l.foldl (fun m i => m.put i { SMap.get {} m i with st := st }) x.words }

/-- The words that a started LDO makes pending (R100). A word that an instruction which waits has fetched before stays the one it
executes (R101, R102). -/
def Ctx.pendWords (x : Ctx) (l : List Nat) : Ctx :=
  let fetched := match x.wait with | some w => w.kind != .pendingFetch | none => false
  { x.markWords l .pending with
    latch := if fetched && !x.sup && x.latch.isNone && l.contains x.pc.toNat then some (x.word x.pc.toNat).w else x.latch }

/-- LDO's reads, row by row, each landing a word (R167). -/
def State.landWords (s : State) (c : Nat) (f : Finder) (a : RStream) (ws : List Nat) : Mv :=
  ws.zipIdx.foldl (fun (m : Mv) w =>
    let es := a.rowEles true 8 w.2 none
    let m := m.readRow f a es
    if m.bad.isSome then m
    else
      let v := leNat (es.map fun e => BitVec.ofNat 8 (m.s.readRaw f a e))
      let x := m.s.live c
      { m with s := m.s.setLive c { x with words := x.words.put w.1 { x.word w.1 with w := BitVec.ofNat 64 v } }
               written := m.written + 8 }) { s := s }

/-- LDO: the words landed and checked, OVERLAY naming the first illegal word (R100, R167); they stay pending until the
retirement. -/
def State.overlay (s : State) (c : Nat) (f : Finder) (a : RStream) (ws : List Nat) : Mv :=
  let m := s.landWords c f a ws
  if m.bad.isSome then m
  else
    let x := m.s.live c
    match ws.find? fun i => scan (x.word i).w != 0 with
    | some i => { m with s := m.s.setLive c (x.markWords ws .nonexec)
                         bad := some { cause := cOVERLAY, sub := scan (x.word i).w, addr := i } }
    | none => m

/-- Entries of the chimney that the started CHPOP commands before a sequence number take (R294). -/
def Ctx.chTaken (x : Ctx) (seq : Nat) : Nat :=
  (x.st.map fun k => match k.instr with
    | .chpop _ _ _ _ _ n => if k.phase ≠ .queued ∧ ¬ k.husk ∧ k.seq < seq then n.toNat else 0
    | _ => 0).sum

/-- CHPOP's rows written, bits unchanged, with no deadline to meet (R293); the entries are removed at retirement. -/
def State.landRows (s : State) (c : Nat) (f : Finder) (b : RStream) (n w base : Nat) : Mv :=
  (List.range n).foldl (fun (m : Mv) k =>
    let ent := (s.live c).chimney.getD (base + k) []
    m.putBits f b ((List.range w).filterMap fun j => match b.elem false w k j with
      | .at cs => some (cs, (ent.getD j 0).toNat, none)
      | _ => none)) { s := s }

/-! ## The effects of a started copy command -/

/-- The outcome of a copy's progress. -/
def Mv.eff (m : Mv) : Eff := match m.bad with | none => .ok m.s 0 [] | some p => .stop m.s p

/-- The index list of a gather or scatter, read at the start: its places (R165). -/
def listPlaces (c ctx off rows : Nat) : List (List Place) :=
  (List.range rows).map fun i => (List.range 4).map fun b => .win c ctx (off + 4 * i + b)

/-- The effects of a started copy command of core c (R159 to R169, R242, R258, R293): all of them, or those before its
fault. A RED.ST MEAN merges under the pair that the bank of the context that issued it holds when its effects are made (DESIGN CHOICE,
log 22). -/
def State.copyEff (s : State) (c : Nat) (k : Cmd) : Eff :=
  let x := s.live c
  let f := s.finder c x.id k.pins x.root
  let w := (tileWidth (k.gv.headD 0)).getD 64
  match k.instr, k.sa, k.sb with
  | .ldt _ _ _ _ _ _ n rm, some a, some b => (s.copyTile f a b n.toNat w rm.toNat none none).eff
  | .cpy _ _ _ _ _ _ n rm, some a, some b => (s.copyTile f a b n.toNat w rm.toNat none none).eff
  | .stt _ _ _ _ _ _ n rm, some a, some b => (s.copyTile f a b n.toNat w rm.toNat none none).eff
  | .cpys _ _ _ _ _ _ n rm, some a, some b => (s.copyTile f a b n.toNat w rm.toNat none none).eff
  | .ldg _ _ _ _ _ _ n rm, some a, some b => (s.copyTile f a b n.toNat w rm.toNat (some k.idx) none).eff
  | .sct _ _ _ _ _ _ n rm, some a, some b => (s.copyTile f a b n.toNat w rm.toNat none (some k.idx)).eff
  | .redSt _ _ _ _ _ _ n rm op, some a, some b =>
    if op = 3 then (s.meanTile f a b (x.pair (shPair k.mshape)) k.mshape n.toNat w).eff
    else (s.reduceTile f a b n.toNat w op.toNat rm.toNat).eff
  | .ldo _ _ _ _ _ n, some a, _ => (s.overlay c f a (ldoWords k n.toNat)).eff
  | .chpop _ _ _ _ _ n, _, some b =>
    (s.landRows c f { b with obj := { b.obj with life := 0 } } n.toNat w (x.chTaken k.seq)).eff
  | _, _, _ => .ok s 0 []

/-- What a copy command does at its start: an LDO makes its words pending (R100), and a gather or scatter reads its list,
which may meet ECC (R165, R173). -/
def State.copyStart (s : State) (c : Nat) (k : Cmd) : State × Cmd × Option Pend :=
  let x := s.live c
  let list (n : Nat) : State × Cmd × Option Pend :=
    let off := bits (k.gv.getD 1 0).toNat 20 0
    let pl := listPlaces c x.id off n
    match pl.flatten.find? s.badUnit with
    | some p => (s, k, some { cause := cECC, sub := 0, addr := match p with | .win _ _ o => 2 ^ 63 + o / 8 * 8 | _ => 0 })
    | none => (s.meet pl.flatten, { k with idx := pl.map fun l => leNat (l.map s.byte) }, none)
  match k.instr with
  | .ldo _ _ _ _ _ n => (s.setLive c (x.pendWords (ldoWords k n.toNat)), k, none)
  | .ldg _ _ _ _ _ _ n _ => list n.toNat
  | .sct _ _ _ _ _ _ n _ => list n.toNat
  | _ => (s, k, none)

end Sys2Proof.Machine
end

