-- ==== Sys2Proof/Machine/Vector.lean ====
section
/-! DEFINITION. The vector commands (R175 to R198), the mean commands (R250 to R257), VUPD (R265 to R268), VKEY (R281,
R282) and CHPUSH (R292): their words, which push them, and the effects a started command makes. -/

namespace Sys2Proof.Machine

/-! ## The words -/

/-- VLD (R181). -/
def execVld (tk : Tok) (d a b : BitVec 5) (mk : BitVec 3) (mf : BitVec 4) (s : State) : Host.Outcome State Fault Refusal :=
  pushInstr (.vld tk d a b mk mf) s
/-- VST (R181). -/
def execVst (tk : Tok) (d a b : BitVec 5) (mk rd : BitVec 3) (mf : BitVec 4) (s : State) : Host.Outcome State Fault Refusal :=
  pushInstr (.vst tk d a b mk rd mf) s
/-- VMOV (R184). -/
def execVmov (tk : Tok) (d a : BitVec 5) (mk : BitVec 3) (s : State) : Host.Outcome State Fault Refusal :=
  pushInstr (.vmov tk d a mk) s
/-- VMOVG (R184). -/
def execVmovg (tk : Tok) (d a : BitVec 5) (mk : BitVec 3) (s : State) : Host.Outcome State Fault Refusal :=
  pushInstr (.vmovg tk d a mk) s
/-- VBCR (R185). -/
def execVbcr (tk : Tok) (d a : BitVec 5) (mk : BitVec 3) (i : BitVec 6) (s : State) : Host.Outcome State Fault Refusal :=
  pushInstr (.vbcr tk d a mk i) s
/-- VBCC (R185). -/
def execVbcc (tk : Tok) (d a : BitVec 5) (mk : BitVec 3) (i : BitVec 6) (s : State) : Host.Outcome State Fault Refusal :=
  pushInstr (.vbcc tk d a mk i) s
/-- VROTR (R186). -/
def execVrotr (tk : Tok) (d a : BitVec 5) (mk : BitVec 3) (z : BitVec 1) (k : BitVec 6) (s : State) :
    Host.Outcome State Fault Refusal := pushInstr (.vrotr tk d a mk z k) s
/-- VROTC (R186). -/
def execVrotc (tk : Tok) (d a : BitVec 5) (mk : BitVec 3) (z : BitVec 1) (k : BitVec 6) (s : State) :
    Host.Outcome State Fault Refusal := pushInstr (.vrotc tk d a mk z k) s
/-- VALU (R187). -/
def execValu (tk : Tok) (d a b : BitVec 5) (mk ty rd : BitVec 3) (sat : BitVec 1) (op : BitVec 4) (s : State) :
    Host.Outcome State Fault Refusal := pushInstr (.valu tk d a b mk ty rd sat op) s
/-- VFMA (R188). -/
def execVfma (tk : Tok) (d a b : BitVec 5) (mk ty rd : BitVec 3) (op : BitVec 2) (s : State) :
    Host.Outcome State Fault Refusal := pushInstr (.vfma tk d a b mk ty rd op) s
/-- VLOGIC (R189). -/
def execVlogic (tk : Tok) (d a b : BitVec 5) (mk : BitVec 3) (sh : BitVec 5) (im : BitVec 1) (op : BitVec 4) (s : State) :
    Host.Outcome State Fault Refusal := pushInstr (.vlogic tk d a b mk sh im op) s
/-- VCMP (R190). -/
def execVcmp (tk : Tok) (d a b : BitVec 5) (mk ty cond : BitVec 3) (s : State) : Host.Outcome State Fault Refusal :=
  pushInstr (.vcmp tk d a b mk ty cond) s
/-- VSEL (R191). -/
def execVsel (tk : Tok) (d a b : BitVec 5) (mk : BitVec 3) (s : State) : Host.Outcome State Fault Refusal :=
  pushInstr (.vsel tk d a b mk) s
/-- VREDR (R192). -/
def execVredr (tk : Tok) (d a : BitVec 5) (mk ty rd : BitVec 3) (bc : BitVec 1) (op : BitVec 3) (s : State) :
    Host.Outcome State Fault Refusal := pushInstr (.vredr tk d a mk ty rd bc op) s
/-- VREDC (R192). -/
def execVredc (tk : Tok) (d a : BitVec 5) (mk ty rd : BitVec 3) (bc : BitVec 1) (op : BitVec 3) (s : State) :
    Host.Outcome State Fault Refusal := pushInstr (.vredc tk d a mk ty rd bc op) s
/-- VSCAN (R193). -/
def execVscan (tk : Tok) (d a : BitVec 5) (mk ty rd : BitVec 3) (ex axis : BitVec 1) (op : BitVec 3) (s : State) :
    Host.Outcome State Fault Refusal := pushInstr (.vscan tk d a mk ty rd ex axis op) s
/-- VCVT (R194). -/
def execVcvt (tk : Tok) (d a : BitVec 5) (mk ty rd : BitVec 3) (dir : BitVec 1) (code : BitVec 3) (s : State) :
    Host.Outcome State Fault Refusal := pushInstr (.vcvt tk d a mk ty rd dir code) s
/-- VRCP (R195). -/
def execVrcp (tk : Tok) (d a : BitVec 5) (mk : BitVec 3) (s : State) : Host.Outcome State Fault Refusal :=
  pushInstr (.vrcp tk d a mk) s
/-- VRSQ (R195). -/
def execVrsq (tk : Tok) (d a : BitVec 5) (mk : BitVec 3) (s : State) : Host.Outcome State Fault Refusal :=
  pushInstr (.vrsq tk d a mk) s
/-- VRCPS (R195). -/
def execVrcps (tk : Tok) (d a b : BitVec 5) (mk rd : BitVec 3) (s : State) : Host.Outcome State Fault Refusal :=
  pushInstr (.vrcps tk d a b mk rd) s
/-- VRSQS (R195). -/
def execVrsqs (tk : Tok) (d a b : BitVec 5) (mk rd : BitVec 3) (s : State) : Host.Outcome State Fault Refusal :=
  pushInstr (.vrsqs tk d a b mk rd) s
/-- VEXP2 (R195). -/
def execVexp2 (tk : Tok) (d a : BitVec 5) (mk : BitVec 3) (s : State) : Host.Outcome State Fault Refusal :=
  pushInstr (.vexp2 tk d a mk) s
/-- VLOG2 (R195). -/
def execVlog2 (tk : Tok) (d a : BitVec 5) (mk : BitVec 3) (s : State) : Host.Outcome State Fault Refusal :=
  pushInstr (.vlog2 tk d a mk) s
/-- VMASK (R196). -/
def execVmask (tk : Tok) (d a b : BitVec 5) (ty : BitVec 3) (n : BitVec 11) (op : BitVec 4) (s : State) :
    Host.Outcome State Fault Refusal := pushInstr (.vmask tk d a b ty n op) s
/-- VPOPC (R197). -/
def execVpopc (tk : Tok) (d a : BitVec 5) (mode : BitVec 2) (s : State) : Host.Outcome State Fault Refusal :=
  pushInstr (.vpopc tk d a mode) s
/-- VTOG (R198). -/
def execVtog (tk : Tok) (a : BitVec 5) (ty : BitVec 3) (src : BitVec 1) (col : BitVec 6) (row : BitVec 4) (s : State) :
    Host.Outcome State Fault Refusal := pushInstr (.vtog tk a ty src col row) s
/-- VMEAN.E (R252). -/
def execVmeanE (tk : Tok) (d a : BitVec 5) (mk : BitVec 3) (s : State) : Host.Outcome State Fault Refusal :=
  pushInstr (.vmeanE tk d a mk) s
/-- VMEAN.M (R253). -/
def execVmeanM (tk : Tok) (d a : BitVec 5) (mk : BitVec 3) (s : State) : Host.Outcome State Fault Refusal :=
  pushInstr (.vmeanM tk d a mk) s
/-- VMEAN.X (R254). -/
def execVmeanX (tk : Tok) (d a : BitVec 5) (mk : BitVec 3) (s : State) : Host.Outcome State Fault Refusal :=
  pushInstr (.vmeanX tk d a mk) s
/-- VMTLD (R256). -/
def execVmtld (tk : Tok) (a : BitVec 5) (pair : BitVec 4) (s : State) : Host.Outcome State Fault Refusal :=
  pushInstr (.vmtld tk a pair) s
/-- VMSH (R255). -/
def execVmsh (tk : Tok) (d a : BitVec 5) (mk : BitVec 3) (s : State) : Host.Outcome State Fault Refusal :=
  pushInstr (.vmsh tk d a mk) s
/-- VUPD (R266). -/
def execVupd (tk : Tok) (d a b : BitVec 5) (mk ty rd : BitVec 3) (gh : BitVec 5) (s : State) :
    Host.Outcome State Fault Refusal := pushInstr (.vupd tk d a b mk ty rd gh) s
/-- VKEY (R282). -/
def execVkey (tk : Tok) (d a : BitVec 5) (mk ty : BitVec 3) (hil three : BitVec 1) (k gh : BitVec 5) (s : State) :
    Host.Outcome State Fault Refusal := pushInstr (.vkey tk d a mk ty hil three k gh) s
/-- CHPUSH (R292). -/
def execChpush (tk : Tok) (a : BitVec 5) (rd : BitVec 3) (fmt : BitVec 2) (r : BitVec 4) (c : BitVec 3) (s : State) :
    Host.Outcome State Fault Refusal := pushInstr (.chpush tk a rd fmt r c) s

/-! ## Elements (R175, R178) -/

/-- The 1024 positions of a register, row-major. -/
def cells : List (Nat × Nat) := (List.range 16).flatMap fun i => (List.range 64).map fun j => (i, j)
/-- The positions that a mask governs. -/
def governed (m : BitVec 1024) : List (Nat × Nat) := cells.filter fun p => m.getLsbD (64 * p.1 + p.2)

/-- The value of an element's bits read as ty: an integer for I32 and N32 (R175). -/
def tyInt (ty : Nat) (b : Nat) : Int := if ty = 1 then sextNat b 32 else (b : Nat)
/-- Clamp to the range of ty (R187). -/
def tySat (ty : Nat) (n : Int) : Int := if ty = 1 then satI n 32 else satN n 32

/-! ## Element-wise operations -/

/-- VALU (R187). -/
def valuOp (op ty rm : Nat) (sat : Bool) (x y : Nat) : Nat × Flags :=
  if ty = 0 then
    match op with
    | 0 => fadd F32 x y rm
    | 1 => rounded F32 ((decodeF F32 x).add rm (decodeF F32 y).negate) rm
    | 2 => fmul F32 x y rm
    | 3 => ((roundTo F32 ((decodeF F32 x).fmin (decodeF F32 y)) 0).1, 0)
    | 4 => ((roundTo F32 ((decodeF F32 x).fmax (decodeF F32 y)) 0).1, 0)
    | 5 => ((roundTo F32 (decodeF F32 x).abs 0).1, 0)
    | _ => ((roundTo F32 (decodeF F32 x).negate 0).1, 0)
  else
    let a := tyInt ty x
    let b := tyInt ty y
    let r : Int := match op with
      | 0 => a + b
      | 1 => a - b
      | 2 => a * b
      | 3 => min a b
      | 4 => max a b
      | 5 => if a < 0 then -a else a
      | _ => -a
    (wrapNat (if sat then tySat ty r else r) 32, 0)

/-- VFMA (R188): x·y + z with the signs the form gives, rounded once. -/
def vfmaOp (op ty rm : Nat) (x y z : Nat) : Nat × Flags :=
  if ty = 0 then
    let a := decodeF F32 x
    let c := decodeF F32 z
    ffma F32 (if 2 ≤ op then a.negate else a) (decodeF F32 y) (if op % 2 = 1 then c.negate else c) rm
  else
    let p := tyInt ty x * tyInt ty y
    (wrapNat ((if 2 ≤ op then -p else p) + (if op % 2 = 1 then -tyInt ty z else tyInt ty z)) 32, 0)

/-- VLOGIC (R189) with shift amount sh. -/
def vlogicOp (op : Nat) (x y : W32) (sh : Nat) : W32 :=
  match op with
  | 0 => x &&& y
  | 1 => x ||| y
  | 2 => x ^^^ y
  | 3 => x &&& ~~~y
  | 4 => ~~~x
  | 5 => x <<< sh
  | 6 => x >>> sh
  | _ => x.sshiftRight sh

/-- Format codes of VCVT's codes and of ty (R194). -/
def cvtFmt : Nat → Nat
  | 0 => 0x01
  | 1 => 0x0C
  | 2 => 0x0F
  | 3 => 0x02
  | 4 => 0x03
  | 5 => 0x04
  | _ => 0x05

/-- A conversion of an element (R78, R79). -/
def convertBits (src dst bits rm : Nat) : Nat × Flags := convElem src dst (decodeElem src bits 0 0) rm

/-- The identity of a reduction (R192). -/
def redIdent (op ty : Nat) : Nat :=
  match op, ty with
  | 0, 0 => 0x80000000
  | 0, _ => 0
  | 1, 0 => 0x7F800000
  | 1, 1 => 0x7FFFFFFF
  | 1, _ => 0xFFFFFFFF
  | _, 0 => 0xFF800000
  | _, 1 => 0x80000000
  | _, _ => 0

/-- One step of a reduction or scan (R192): SUM, MIN, MAX are VALU's operations 0, 3 and 4. -/
def redStep (op ty rm : Nat) (p q : Nat × Flags) : Nat × Flags :=
  let (v, fl) := valuOp (if op = 0 then 0 else op + 2) ty rm false p.1 q.1
  (v, p.2 ||| q.2 ||| fl)

/-- A first term as a scan delivers it: a NaN is the canonical one (R66). -/
def scanFirst (ty : Nat) (p : Nat × Flags) : Nat × Flags :=
  if ty = 0 ∧ decodeF F32 p.1 = .nan then ((roundTo F32 .nan 0).1, p.2) else p

/-- The prefixes of a line (R193). -/
def prefixes (op ty rm : Nat) : Nat × Flags → List (Nat × Flags) → List (Nat × Flags)
  | acc, [] => [acc]
  | acc, x :: r => acc :: prefixes op ty rm (redStep op ty rm acc x) r

/-! ## The outcome of a vector command -/

/-- What a vector command reads and makes: elements and masks read, elements and a mask written, scratchpad bytes written,
flags, what its retirement adds, the pair it loads, the rows it sends up the chimney, and its fault. -/
structure VRes where
  readsV : List Nat := []
  readsM : List Nat := []
  v : List (Nat × Nat) := []
  m : Option (Nat × BitVec 1024) := none
  fl : Flags := 0
  note : List Nat := []
  pair : Option (Nat × MeanPair) := none
  rows : List (List (BitVec 16)) := []
  mem : List (Place × Byte) := []
  reads : List Place := []
  fault : Option Pend := none
  /-- The entry gives it no engine fault (R268, R282, R292). -/
  never : Bool := false

/-- An element-writing command (R178): f answers the value and flags of position (i, j), src the elements it reads there. -/
def Ctx.eachV (x : Ctx) (d mk : Nat) (src : Nat → Nat → List Nat) (f : Nat → Nat → Nat × Flags) : VRes :=
  let ps := governed (x.mask mk)
  let rs := ps.map fun p => (vIdx d p.1 p.2, f p.1 p.2)
  { readsM := [mk]
    readsV := ps.flatMap fun p => src p.1 p.2
    v := rs.map fun r => (r.1, r.2.1)
    fl := rs.foldl (fun a r => a ||| r.2.2) 0 }

/-- Bits of an element as a number. -/
def Ctx.vn (x : Ctx) (n i j : Nat) : Nat := (x.ve n i j).toNat

/-- A bit vector of 1024 bits from its set positions. -/
def maskOf (f : Nat → Nat → Bool) : BitVec 1024 :=
  BitVec.ofNat 1024 (leNat ((List.range 128).map fun b =>
    BitVec.ofNat 8 (((List.range 8).map fun t => let k := 8 * b + t; if f (k / 64) (k % 64) then 2 ^ t else 0).sum)))

/-! ## Loads and stores (R181 to R183) -/

/-- Bytes per element and format of a memory format (R181); 0x7 and 0x8 are 16-bit integers. -/
def mfWidth (mf : Nat) : Nat := if mf = 0 then 4 else if mf = 1 ∨ mf = 2 ∨ mf = 7 ∨ mf = 8 then 2 else 1
/-- The value a VLD writes. -/
def loadConv (mf b : Nat) : Nat :=
  match mf with
  | 0 => b
  | 1 => (convertBits 0x02 0x01 b 0).1
  | 2 => (convertBits 0x03 0x01 b 0).1
  | 3 => (convertBits 0x04 0x01 b 0).1
  | 4 => (convertBits 0x05 0x01 b 0).1
  | 5 => wrapNat (sextNat b 8) 32
  | 6 => b % 256
  | 7 => wrapNat (sextNat b 16) 32
  | _ => b % 65536
/-- The value a VST writes, with flags. -/
def storeConv (mf rm x : Nat) : Nat × Flags :=
  match mf with
  | 0 => (x, 0)
  | 1 => convertBits 0x01 0x02 x rm
  | 2 => convertBits 0x01 0x03 x rm
  | 3 => convertBits 0x01 0x04 x rm
  | 4 => convertBits 0x01 0x05 x rm
  | 5 => (wrapNat (satI (sextNat x 32) 8) 8, 0)
  | 6 => ((satN x 8).toNat, 0)
  | 7 => (wrapNat (satI (sextNat x 32) 16) 16, 0)
  | _ => ((satN x 16).toNat, 0)

/-- The scratchpad places of an element of VLD or VST: base + i·pitch + j·w (R182). -/
def vmemPlaces (c ctx mf : Nat) (gv : List W64) (i j : Nat) : List Place :=
  let w := mfWidth mf
  let base := (gv.headD 0).toNat
  let pitch := if gv.getD 1 0 = 0 then 64 * w else (gv.getD 1 0).toNat
  (List.range w).map fun b => .win c ctx (base + i * pitch + j * w + b)

/-- VLD. -/
def State.vldRes (s : State) (c : Nat) (x : Ctx) (gv : List W64) (d mk mf : Nat) : VRes :=
  let r := x.eachV d mk (fun _ _ => []) fun i j => (loadConv mf (leNat ((vmemPlaces c x.id mf gv i j).map s.byte)), 0)
  { r with reads := (governed (x.mask mk)).flatMap fun p => vmemPlaces c x.id mf gv p.1 p.2 }
/-- VST: rows in ascending order, the later row's bytes remaining. -/
def State.vstRes (c : Nat) (x : Ctx) (gv : List W64) (d mk rm mf : Nat) : VRes :=
  let ps := governed (x.mask mk)
  let es := ps.map fun p => (p, storeConv mf rm (x.vn d p.1 p.2))
  { readsM := [mk]
    readsV := ps.map fun p => vIdx d p.1 p.2
    mem := es.flatMap fun e => (vmemPlaces c x.id mf gv e.1.1 e.1.2).zip (natLe (mfWidth mf) e.2.1)
    fl := es.foldl (fun a e => a ||| e.2.2) 0 }

/-! ## Reductions, scans, masks (R192, R193, R196, R197) -/

/-- The elements of line l: positions along a row (axis 0) or down a column. -/
def linePos (axis l k : Nat) : Nat × Nat := if axis = 0 then (l, k) else (k, l)
/-- Lines of an axis, and elements of a line. -/
def lineCount (axis : Nat) : Nat := if axis = 0 then 16 else 64
def lineLen (axis : Nat) : Nat := if axis = 0 then 64 else 16

/-- The inputs x[k] of line l: selected elements, the identity elsewhere (R192). -/
def Ctx.line (x : Ctx) (a mk axis op ty l : Nat) : List (Nat × Flags) :=
  (List.range (lineLen axis)).map fun k =>
    let p := linePos axis l k
    (if (x.mask mk).getLsbD (64 * p.1 + p.2) then x.vn a p.1 p.2 else redIdent op ty, 0)

/-- VREDR and VREDC (R192). -/
def Ctx.reduce (x : Ctx) (d a mk axis ty rm op : Nat) (bc : Bool) : VRes :=
  let outs := (List.range (lineCount axis)).map fun l =>
    (l, (redTree (redStep op ty rm) (if axis = 0 then 6 else 4) (x.line a mk axis op ty l)).headD (0, 0))
  { readsM := [mk]
    readsV := (governed (x.mask mk)).map fun p => vIdx a p.1 p.2
    v := outs.flatMap fun o => (List.range (if bc then lineLen axis else 1)).map fun k =>
      let p := linePos axis o.1 k
      (vIdx d p.1 p.2, o.2.1)
    fl := outs.foldl (fun f o => f ||| o.2.2) 0 }

/-- VSCANR and VSCANC (R193). -/
def Ctx.scanV (x : Ctx) (d a mk axis ty rm op : Nat) (ex : Bool) : VRes :=
  let outs := (List.range (lineCount axis)).map fun l =>
    let xs := x.line a mk axis op ty l
    let ys := prefixes op ty rm (scanFirst ty (xs.headD (0, 0))) xs.tail
    (l, if ex then (redIdent op ty, 0) :: ys.dropLast else ys, (ys.getLastD (0, 0)).2)
  { readsM := [mk]
    readsV := (governed (x.mask mk)).map fun p => vIdx a p.1 p.2
    v := outs.flatMap fun o => o.2.1.zipIdx.map fun e =>
      let p := linePos axis o.1 e.2
      (vIdx d p.1 p.2, e.1.1)
    fl := outs.foldl (fun f o => f ||| o.2.2) 0 }

/-- VMASK (R196). -/
def Ctx.maskOp (x : Ctx) (d a b ty n op : Nat) : VRes :=
  let ma := x.mask a
  let mb := x.mask b
  match op with
  | 0 => { readsM := [a, b], m := some (d, ma &&& mb) }
  | 1 => { readsM := [a, b], m := some (d, ma ||| mb) }
  | 2 => { readsM := [a, b], m := some (d, ma ^^^ mb) }
  | 3 => { readsM := [a, b], m := some (d, ma &&& ~~~mb) }
  | 4 => { readsM := [a], m := some (d, ~~~ma) }
  | 5 => { readsV := cells.map fun p => vIdx a p.1 p.2, m := some (d, maskOf fun i j => x.vn a i j != 0) }
  | 6 => { readsM := [a]
           v := cells.map fun p => (vIdx d p.1 p.2, if ma.getLsbD (64 * p.1 + p.2) then (if ty = 0 then 0x3F800000 else 1) else 0) }
  | 7 => { m := some (d, maskOf fun _ j => decide (j < n)) }
  | 8 => { m := some (d, maskOf fun i _ => decide (i < n)) }
  | _ => { m := some (d, maskOf fun i j => decide (64 * i + j < n)) }

/-- VPOPC (R197). -/
def Ctx.popcount (x : Ctx) (d a mode : Nat) : VRes :=
  let ma := x.mask a
  let cnt (l : List (Nat × Nat)) : Nat := (l.filter fun p => ma.getLsbD (64 * p.1 + p.2)).length
  let counts := match mode with
    | 0 => (List.range 16).map fun i => cnt ((List.range 64).map fun j => (i, j))
    | 1 => (List.range 64).map fun j => cnt ((List.range 16).map fun i => (i, j))
    | _ => [cnt cells]
  { readsM := [a]
    v := cells.map fun p => (vIdx d p.1 p.2, counts.getD (match mode with | 0 => p.1 | 1 => p.2 | _ => 0) 0) }

/-! ## Mean commands (R250 to R257) -/

/-- The state at a position of registers d, d + 1, d + 2 (R249). -/
def Ctx.meanAt (x : Ctx) (d i j : Nat) : MeanState := ⟨x.vn d i j, x.vn (d + 1) i j, x.vn (d + 2) i j⟩
/-- The three element indices of a state. -/
def meanIdx (d i j : Nat) : List Nat := [vIdx d i j, vIdx (d + 1) i j, vIdx (d + 2) i j]

/-- A mean command over the governed positions: f answers the writes and flags, none for a domain violation, which faults
under DMODE 0 at the first position and is counted under DMODE 1 (R250). -/
def Ctx.meanCmd (x : Ctx) (sh : W64) (mk : Nat) (reads : Nat → Nat → List Nat)
    (f : Nat → Nat → Option (List (Nat × Nat) × Flags)) : VRes :=
  let ps := governed (x.mask mk)
  let rs := ps.map fun p => (p, f p.1 p.2)
  let bad := rs.filter fun r => r.2.isNone
  let good := rs.filterMap (·.2)
  { readsM := [mk]
    readsV := ps.flatMap fun p => reads p.1 p.2
    v := good.flatMap (·.1)
    fl := good.foldl (fun a r => a ||| r.2) 0
    note := if bad.isEmpty then [] else [bad.length]
    fault := if shExclude sh then none
      else bad.head?.map fun r => { cause := cDOMAIN, detail := r.1.1 * 64 + r.1.2 } }

/-- The writes of a state. -/
def putMean (d i j : Nat) (m : MeanState) : List (Nat × Nat) := (meanIdx d i j).zip [m.n, m.m, m.s]

/-! ## VUPD (R266) -/

/-- An exact inner value of VUPD: a zero is +0, or −0 under rd (R266). -/
def innerZero (rm : Nat) (v : Num) : Num := if v.isZero then .zero (rm = 3) else v

/-- The square root of an exact non-negative value plus ε, rounded once: by the integer root of the quotient scaled by 2^k. -/
def sqrtPlus (v e : Num) (rm : Nat) : Nat × Flags :=
  match v, e with
  | .nan, _ => (F32.nanBits, 0)
  | _, .nan => (F32.nanBits, 0)
  | .inf n, e => if n then (F32.nanBits, 0) else rounded F32 (Num.add rm (.inf false) e) rm
  | .zero _, e => roundTo F32 (innerZero rm e) rm
  | .fin q, e =>
    if q < 0 then (F32.nanBits, 0)
    else match e with
      | .inf n => (F32.signed n F32.infBits, 0)
      | e =>
        let r := e.toRat
        -- an isqrt with 700 fraction bits; a remainder is marked by half a unit of the last place
        let big := (q.num.natAbs * 4 ^ 700) / q.den
        let t := intRoot big
        let exact := decide (t * t * q.den = q.num.natAbs * 4 ^ 700)
        let root : Rat := (if exact then (2 * t : Nat) else (2 * t + 1 : Nat) : Rat) / ((2 ^ 701 : Nat) : Rat)
        roundTo F32 (Num.ofRat (rm = 3) (root + r)) rm

/-- One element of VUPD: the new weight and moments with flags; none where it is skipped (R266). -/
def updElem (h : List Nat) (rm : Nat) (w g m1 m2 : Nat) : Option (Nat × Nat × Nat × Flags) :=
  let d := decodeF F32
  let hp (i : Nat) : Num := d (h.getD i 0)
  let eta := hp 0; let lam := hp 1; let b1 := hp 2; let b2 := hp 3
  let eps := hp 4; let sig := hp 5; let c1 := hp 6; let c2 := hp 7
  let one : Num := .fin 1
  let mul (a b : Num) : Num := (a.mul b).1
  let add (a b : Num) : Num := (a.add rm b).1
  if (d g).notFinite || (d m1).notFinite || (d m2).notFinite then none
  else
    let m2 : Nat := if 2 ^ 31 ≤ m2 then 0 else m2
    let x := mul (d g) sig
    let (m1n, f1) := roundTo F32 (innerZero rm (add (mul b1 (d m1)) (mul (add one b1.negate) x))) rm
    let (m2n, f2) := roundTo F32 (innerZero rm (add (mul b2 (d m2)) (mul (mul (add one b2.negate) x) x))) rm
    let (den, f3) := sqrtPlus (mul c2 (d m2n)) eps rm
    let quo := ((mul c1 (d m1n)).div (d den)).1
    let (wn, f4) := roundTo F32 (innerZero rm (add (d w) (mul eta (add quo (mul lam (d w)))).negate)) rm
    if (d m1n).notFinite || (d m2n).notFinite || (d den).notFinite || (d wn).notFinite then none
    else some (wn, m1n, m2n, f1 ||| f2 ||| f3 ||| f4)

/-- VUPD over a register (R266, R268). -/
def Ctx.update (x : Ctx) (d a b mk rm : Nat) (gv : List W64) : VRes :=
  let h := gv.flatMap fun g => [bits g.toNat 31 0, bits g.toNat 63 32]
  let ps := governed (x.mask mk)
  let rs := ps.map fun p => (p, updElem h rm (x.vn d p.1 p.2) (x.vn a p.1 p.2) (x.vn b p.1 p.2) (x.vn (b + 1) p.1 p.2))
  { v := rs.flatMap fun r => match r.2 with
      | some (w, m1, m2, _) => [(vIdx d r.1.1 r.1.2, w), (vIdx b r.1.1 r.1.2, m1), (vIdx (b + 1) r.1.1 r.1.2, m2)]
      | none => []
    fl := rs.foldl (fun f r => match r.2 with | some (_, _, _, g) => f ||| g | none => f) 0
    note := [(rs.filter fun r => r.2.isNone).length]
    never := true }

/-! ## VKEY (R281, R282) -/

/-- quant (R281). -/
def quant (c : Num) (lo hi : Num) (k : Nat) : Nat :=
  if lo.notFinite || hi.notFinite || decide (hi.toRat ≤ lo.toRat) || c = .nan then 0
  else match c with
    | .inf n => if n then 0 else 2 ^ k - 1
    | c =>
      let t := ((c.toRat - lo.toRat) * ((2 ^ k : Nat) : Rat) / (hi.toRat - lo.toRat)).floor
      (max 0 (min t (2 ^ k - 1))).toNat

/-- One inner step of the Hilbert transform at level Q for axis a. -/
def hilbertStep (q : Nat) (x : List Nat) (a : Nat) : List Nat :=
  let xa := x.getD a 0
  let x0 := x.headD 0
  if xa &&& q ≠ 0 then x.set 0 (x0 ^^^ (q - 1))
  else
    let t := (x0 ^^^ xa) &&& (q - 1)
    let x := x.set 0 (x0 ^^^ t)
    x.set a ((x.getD a 0) ^^^ t)
/-- The levels M, M/2, ..., 2 of K-bit coordinates. -/
def hilbertLevels (k : Nat) : List Nat := (List.range (k - 1)).map fun i => 2 ^ (k - 1 - i)
/-- The transformed coordinates (R281). -/
def hilbert (k : Nat) (q : List Nat) : List Nat :=
  let d := q.length
  let x := (hilbertLevels k).foldl (fun x lv => (List.range d).foldl (hilbertStep lv) x) q
  let x := ((List.range (d - 1)).map (· + 1)).foldl (fun x a => x.set a ((x.getD a 0) ^^^ (x.getD (a - 1) 0))) x
  let t := (hilbertLevels k).foldl (fun t lv => if (x.getD (d - 1) 0) &&& lv ≠ 0 then t ^^^ (lv - 1) else t) 0
  x.map (· ^^^ t)

/-- curve_key (R281): Morton, or Hilbert with axis 0 most significant in each level. -/
def curveKey (k : Nat) (hil : Bool) (q : List Nat) : Nat :=
  let d := q.length
  let x := if hil then (hilbert k q).reverse else q
  ((List.range k).flatMap fun t => (List.range d).map fun a => if (x.getD a 0).testBit t then 2 ^ (d * t + a) else 0).sum

/-- VKEY over a register (R282). -/
def Ctx.keys (x : Ctx) (d a mk ty k : Nat) (hil three : Bool) (gv : List W64) : VRes :=
  let n := if three then 3 else 2
  let ps := governed (x.mask mk)
  let fmt := if ty = 0 then 0x01 else if ty = 1 then 0x0C else 0x0F
  let key (p : Nat × Nat) : Nat := curveKey k hil ((List.range n).map fun ax =>
    let g := (gv.getD ax 0).toNat
    quant (decodeElem fmt (x.vn (a + ax) p.1 p.2) 0 0) (decodeF F32 (bits g 31 0)) (decodeF F32 (bits g 63 32)) k)
  { v := ps.flatMap fun p => let v := key p; [(vIdx d p.1 p.2, v % 2 ^ 32), (vIdx (d + 1) p.1 p.2, v / 2 ^ 32)]
    never := true }

/-! ## CHPUSH (R292) -/

/-- The rows that a CHPUSH sends, converted, with flags. -/
def Ctx.chRows (x : Ctx) (a rm fmt r n : Nat) : VRes :=
  let conv (b : Nat) : Nat × Flags := match fmt with
    | 0 => convertBits 0x01 0x02 b rm
    | 1 => convertBits 0x01 0x03 b rm
    | 2 => (wrapNat (satI (sextNat b 32) 16) 16, 0)
    | _ => ((satN b 16).toNat, 0)
  let rows := (List.range n).map fun k => (List.range 64).map fun j => conv (x.vn a (r + k) j)
  { rows := rows.map fun l => l.map fun e => BitVec.ofNat 16 e.1
    fl := rows.flatten.foldl (fun f e => f ||| e.2) 0
    never := true }

/-! ## Every vector command -/

/-- What a started vector command of core c makes. -/
def State.vecRes (s : State) (c : Nat) (k : Cmd) : VRes :=
  let x := s.live c
  let p := x.pair (shPair k.mshape)
  match k.instr with
  | .vld _ d _ _ km mf => s.vldRes c x k.gv d.toNat km.toNat mf.toNat
  | .vst _ d _ _ km rd mf => State.vstRes c x k.gv d.toNat km.toNat rd.toNat mf.toNat
  | .vmov _ d a km => x.eachV d.toNat km.toNat (fun i j => [vIdx a.toNat i j]) fun i j => (x.vn a.toNat i j, 0)
  | .vmovg _ d _ km => x.eachV d.toNat km.toNat (fun _ _ => []) fun _ _ => (bits (k.gv.headD 0).toNat 31 0, 0)
  | .vbcr _ d a km n => x.eachV d.toNat km.toNat (fun i _ => [vIdx a.toNat i n.toNat]) fun i _ => (x.vn a.toNat i n.toNat, 0)
  | .vbcc _ d a km n => x.eachV d.toNat km.toNat (fun _ j => [vIdx a.toNat n.toNat j]) fun _ j => (x.vn a.toNat n.toNat j, 0)
  | .vrotr _ d a km z n =>
    let col (j : Nat) : Nat := (j + n.toNat) % 64
    let out (j : Nat) : Bool := z = 1 && decide (64 ≤ j + n.toNat)
    x.eachV d.toNat km.toNat (fun i j => if out j then [] else [vIdx a.toNat i (col j)]) fun i j =>
      (if out j then 0 else x.vn a.toNat i (col j), 0)
  | .vrotc _ d a km z n =>
    let row (i : Nat) : Nat := (i + n.toNat) % 16
    let out (i : Nat) : Bool := z = 1 && decide (16 ≤ i + n.toNat)
    x.eachV d.toNat km.toNat (fun i j => if out i then [] else [vIdx a.toNat (row i) j]) fun i j =>
      (if out i then 0 else x.vn a.toNat (row i) j, 0)
  | .valu _ d a b km ty rd sat op =>
    x.eachV d.toNat km.toNat (fun i j => vIdx a.toNat i j :: if op.toNat < 5 then [vIdx b.toNat i j] else []) fun i j =>
      valuOp op.toNat ty.toNat rd.toNat (sat = 1) (x.vn a.toNat i j) (x.vn b.toNat i j)
  | .vfma _ d a b km ty rd op =>
    x.eachV d.toNat km.toNat (fun i j => [vIdx a.toNat i j, vIdx b.toNat i j, vIdx d.toNat i j]) fun i j =>
      vfmaOp op.toNat ty.toNat rd.toNat (x.vn a.toNat i j) (x.vn b.toNat i j) (x.vn d.toNat i j)
  | .vlogic _ d a b km sh im op =>
    let usesB : Bool := op != 4 && im = 0
    x.eachV d.toNat km.toNat (fun i j => vIdx a.toNat i j :: if usesB then [vIdx b.toNat i j] else []) fun i j =>
      ((vlogicOp op.toNat (x.ve a.toNat i j) (x.ve b.toNat i j)
        (if im = 1 then sh.toNat else (x.vn b.toNat i j) % 32)).toNat, 0)
  | .vcmp _ d a b km ty cond =>
    let g := x.mask km.toNat
    { readsM := [km.toNat]
      readsV := (governed g).flatMap fun p => [vIdx a.toNat p.1 p.2, vIdx b.toNat p.1 p.2]
      m := some (d.toNat, maskOf fun i j => g.getLsbD (64 * i + j) &&
        (if ty = 0 then condF cond.toNat (decodeF F32 (x.vn a.toNat i j)) (decodeF F32 (x.vn b.toNat i j))
         else condI cond.toNat (tyInt ty.toNat (x.vn a.toNat i j)) (tyInt ty.toNat (x.vn b.toNat i j)))) }
  | .vsel _ d a b km =>
    let g := x.mask km.toNat
    let src (q : Nat × Nat) : Nat := vIdx (if g.getLsbD (64 * q.1 + q.2) then a.toNat else b.toNat) q.1 q.2
    { readsM := [km.toNat], readsV := cells.map src, v := cells.map fun q => (vIdx d.toNat q.1 q.2, (x.v.get 0 (src q)).toNat) }
  | .vredr _ d a km ty rd bc op => x.reduce d.toNat a.toNat km.toNat 0 ty.toNat rd.toNat op.toNat (bc = 1)
  | .vredc _ d a km ty rd bc op => x.reduce d.toNat a.toNat km.toNat 1 ty.toNat rd.toNat op.toNat (bc = 1)
  | .vscan _ d a km ty rd ex axis op => x.scanV d.toNat a.toNat km.toNat axis.toNat ty.toNat rd.toNat op.toNat (ex = 1)
  | .vcvt _ d a km ty rd dir code =>
    let (src, dst) := if dir = 0 then (cvtFmt ty.toNat, cvtFmt code.toNat) else (cvtFmt code.toNat, cvtFmt ty.toNat)
    x.eachV d.toNat km.toNat (fun i j => [vIdx a.toNat i j]) fun i j =>
      convertBits src dst (x.vn a.toNat i j % 2 ^ elemBits src) rd.toNat
  | .vrcp _ d a km => x.eachV d.toNat km.toNat (fun i j => [vIdx a.toNat i j]) fun i j => rcpEst (x.vn a.toNat i j)
  | .vrsq _ d a km => x.eachV d.toNat km.toNat (fun i j => [vIdx a.toNat i j]) fun i j => rsqEst (x.vn a.toNat i j)
  | .vexp2 _ d a km => x.eachV d.toNat km.toNat (fun i j => [vIdx a.toNat i j]) fun i j => exp2Est (x.vn a.toNat i j)
  | .vlog2 _ d a km => x.eachV d.toNat km.toNat (fun i j => [vIdx a.toNat i j]) fun i j => log2Est (x.vn a.toNat i j)
  | .vrcps _ d a b km rd => x.eachV d.toNat km.toNat (fun i j => [vIdx a.toNat i j, vIdx b.toNat i j]) fun i j =>
      rcps (x.vn a.toNat i j) (x.vn b.toNat i j) rd.toNat
  | .vrsqs _ d a b km rd => x.eachV d.toNat km.toNat (fun i j => [vIdx a.toNat i j, vIdx b.toNat i j]) fun i j =>
      rsqs (x.vn a.toNat i j) (x.vn b.toNat i j) rd.toNat
  | .vmask _ d a b ty n op => x.maskOp d.toNat a.toNat b.toNat ty.toNat n.toNat op.toNat
  | .vpopc _ d a mode => x.popcount d.toNat a.toNat mode.toNat
  | .vtog _ a ty src col row =>
    if src = 1 then { readsM := [a.toNat], note := [((x.mask a.toNat).extractLsb' (64 * row.toNat) 64).toNat] }
    else
      let v := x.ve a.toNat row.toNat col.toNat
      { readsV := [vIdx a.toNat row.toNat col.toNat]
        note := [if ty = 1 then (v.signExtend 64).toNat else v.toNat] }
  | .vmeanE _ d a km => x.meanCmd k.mshape km.toNat (fun i j => vIdx a.toNat i j :: meanIdx d.toNat i j) fun i j =>
      (meanTake p k.mshape (x.meanAt d.toNat i j) (x.vn a.toNat i j)).map fun r => (putMean d.toNat i j r.1, r.2)
  | .vmeanM _ d a km => x.meanCmd k.mshape km.toNat (fun i j => meanIdx a.toNat i j ++ meanIdx d.toNat i j) fun i j =>
      (meanMerge p k.mshape (x.meanAt d.toNat i j) (x.meanAt a.toNat i j)).map fun r => (putMean d.toNat i j r.1, r.2)
  | .vmeanX _ d a km => x.meanCmd k.mshape km.toNat (fun i j => meanIdx a.toNat i j) fun i j =>
      (meanExit p k.mshape (x.meanAt a.toNat i j)).map fun r => ([(vIdx d.toNat i j, r.1)], r.2)
  | .vmsh _ d a km => x.meanCmd k.mshape km.toNat (fun i j => vIdx a.toNat i j :: meanIdx d.toNat i j) fun i j =>
      (meanShift p k.mshape (x.meanAt d.toNat i j) (x.vn a.toNat i j)).map fun r => (putMean d.toNat i j r.1, r.2)
  | .vmtld _ a pair =>
    let els := (List.range 515).map fun n => x.v.get 0 (a.toNat * 1024 + n)
    let reads := (List.range 515).map fun n => a.toNat * 1024 + n
    match loadPair els with
    | .ok m => { readsV := reads, pair := some (pair.toNat, m) }
    | .error n => if shExclude k.mshape then { readsV := reads, note := [1] }
                  else { readsV := reads, fault := some { cause := cDOMAIN, detail := n } }
  | .vupd _ d a b km _ rd _ => x.update d.toNat a.toNat b.toNat km.toNat rd.toNat k.gv
  | .vkey _ d a km ty hil three n _ => x.keys d.toNat a.toNat km.toNat ty.toNat (n.toNat + 1) (hil = 1) (three = 1) k.gv
  | .chpush _ a rd fmt r n => x.chRows a.toNat rd.toNat fmt.toNat r.toNat (n.toNat + 1)
  | _ => {}

/-- The first uncorrectable element, mask word or scratchpad word that a command meets (R64, R183). -/
def State.vecEcc (s : State) (c : Nat) (r : VRes) : Option Pend :=
  let x := s.live c
  if r.never then none
  else
    let at' (off sub : Nat) : Pend := { cause := cECC, sub := sub, addr := 2 ^ 63 + off }
    match (if x.badV.isEmpty then none else r.readsV.find? x.badV.contains),
          (if x.badM.isEmpty then none else (r.readsM.flatMap fun m => (List.range 32).map (m * 32 + ·)).find? x.badM.contains) with
    | some e, _ => some (at' (0x200000 + 4 * e) 1)
    | _, some e => some (at' (0x220000 + 4 * e) 1)
    | none, none =>
      match (r.reads.find? s.badUnit).or (s.partialBad r.mem) with
      | some (.win _ _ off) => some (at' (off / 8 * 8) 0)
      | _ => none

/-- The effects of a started vector command of core c: all of them, or, at a fault, none (R138, R179). Elements and mask
words written are good again. -/
def State.vecEff (s : State) (c : Nat) (k : Cmd) : Eff :=
  let r := s.vecRes c k
  match s.vecEcc c r, r.fault with
  | some p, _ => .stop s p
  | none, some p => .stop s p
  | none, none =>
    let x := s.live c
    let x := { x with
      v := r.v.foldl (fun m e => SMap.set 0 m e.1 (BitVec.ofNat 32 e.2)) x.v
      badV := if x.badV.isEmpty then [] else x.badV.filter fun e => !r.v.any (·.1 = e)
      chimney := x.chimney ++ r.rows }
    let x := match r.m with
      | some (n, v) => { x.setMask n v with badM := x.badM.filter fun e => e / 32 != n }
      | none => x
    let x := match r.pair with | some (n, m) => { x with bank := x.bank.put n m } | none => x
    .ok (((s.setLive c x).meet r.reads).writeSet r.mem) r.fl r.note

end Sys2Proof.Machine
end

