-- ==== Sys2Proof/Machine/Matrix.lean ====
section
/-! DEFINITION. The matrix commands (R200 to R223): their words, which push them; the fetch of operands, the lookup and the
commit of rows, and the effects of the plane and tile commands. -/

namespace Sys2Proof.Machine

/-! ## The words -/

/-- PDIR (R214). -/
def execPdir (tk : Tok) (g : BitVec 5) (slot : BitVec 3) (role : BitVec 1) (s : State) : Host.Outcome State Fault Refusal :=
  pushInstr (.pdir tk g slot role) s
/-- PLOAD (R215). -/
def execPload (tk : Tok) (qa : BitVec 4) (g : BitVec 5) (rows : BitVec 9) (slot : BitVec 3) (s : State) :
    Host.Outcome State Fault Refusal := pushInstr (.pload tk qa g rows slot) s
/-- PSTORE (R216). -/
def execPstore (tk : Tok) (qb : BitVec 4) (g : BitVec 5) (rows : BitVec 9) (slot rm : BitVec 3) (s : State) :
    Host.Outcome State Fault Refusal := pushInstr (.pstore tk qb g rows slot rm) s
/-- PCLR (R217). -/
def execPclr (tk : Tok) (slot : BitVec 3) (e : BitVec 1) (s : State) : Host.Outcome State Fault Refusal :=
  pushInstr (.pclr tk slot e) s
/-- MXNEST (R219). -/
def execMxnest (tk : Tok) (g : BitVec 5) (level : BitVec 3) (s : State) : Host.Outcome State Fault Refusal :=
  pushInstr (.mxnest tk g level) s
/-- MXGO (R220). -/
def execMxgo (tk : Tok) (qa qb : BitVec 4) (acc : BitVec 2) (sr : BitVec 3) (base n kc : BitVec 6) (s : State) :
    Host.Outcome State Fault Refusal := pushInstr (.mxgo tk qa qb acc sr base n kc) s
/-- MXRUN (R209). -/
def execMxrun (tk : Tok) (qa qb : BitVec 4) (acc : BitVec 2) (sr : BitVec 3) (g : BitVec 5) (base n kc : BitVec 6)
    (p : BitVec 1) (s : State) : Host.Outcome State Fault Refusal := pushInstr (.mxrun tk qa qb acc sr g base n kc p) s
/-- MXGRAD (R218). -/
def execMxgrad (tk : Tok) (qa qb qt : BitVec 4) (n kx ky : BitVec 6) (s : State) : Host.Outcome State Fault Refusal :=
  pushInstr (.mxgrad tk qa qb qt n kx ky) s
/-- MXRES (R213). -/
def execMxres (tk : Tok) (s : State) : Host.Outcome State Fault Refusal := pushInstr (.mxres tk) s
/-- MXACL (R221). -/
def execMxacl (tk : Tok) (acc : BitVec 2) (sr : BitVec 3) (i : BitVec 1) (s : State) : Host.Outcome State Fault Refusal :=
  pushInstr (.mxacl tk acc sr i) s
/-- MXACR (R222). -/
def execMxacr (tk : Tok) (qb : BitVec 4) (acc : BitVec 2) (dst : BitVec 1) (vd : BitVec 5) (all : BitVec 1)
    (quarter : BitVec 2) (i z : BitVec 1) (rm : BitVec 3) (s : State) : Host.Outcome State Fault Refusal :=
  pushInstr (.mxacr tk qb acc dst vd all quarter i z rm) s
/-- MXSTAT (R223). -/
def execMxstat (tk : Tok) (sel : BitVec 4) (s : State) : Host.Outcome State Fault Refusal := pushInstr (.mxstat tk sel) s

/-! ## Slots and directory (R200 to R203) -/

/-- The directory entry of a slot. -/
def Ctx.entry (x : Ctx) (s : Nat) : DirEntry := x.dir.get {} s
/-- A cell's weight: plane row k and column c of a slot. -/
def pIdx (s k c : Nat) : Nat := s * 16384 + 64 * k + c
def Ctx.cell (x : Ctx) (s k c : Nat) : Num := x.planes.get (.zero false) (pIdx s k c)

/-- The slot that a row matches (R203). -/
def Ctx.matchSlot (x : Ctx) (tag : BitVec 16) (grad quad : Bool) : Option Nat :=
  (List.range 8).find? fun s =>
    let d := x.entry s
    decide (d.st = 1) && d.tag == tag &&
      (if grad then d.role && d.fmt == 0x11 else !d.role && d.quad == quad && d.fmt != 0x11)

/-- PDIR s (R202, R214): another entry of the same tag and role becomes EMPTY; this one VALID unless BAD. -/
def Ctx.setDir (x : Ctx) (s : Nat) (tag : BitVec 16) (role : Bool) : Ctx :=
  let others := (List.range 8).filter fun t => t != s && (x.entry t).tag == tag && (x.entry t).role == role && (x.entry t).st != 0
  let dir := others.foldl (fun m t => m.put t { SMap.get {} m t with st := 0 }) x.dir
  let e := SMap.get {} dir s
  { x with dir := dir.put s { e with tag := tag, role := role, st := if e.st = 2 then 2 else 1 } }

/-- A slot's content replaced by weights of plane rows of w columns, zero elsewhere, with fresh parity. -/
def Ctx.fillSlot (x : Ctx) (s w : Nat) (data : List Num) : Ctx :=
  let clean := x.planes.filter fun c => c.1 / 16384 != s
  { x with
    planes := data.zipIdx.foldl (fun m e => SMap.set (.zero false) m (pIdx s (e.2 / w) (e.2 % w)) e.1) clean
    badSlot := x.badSlot.filter fun c => c / 4096 != s }

/-- PLOAD's transitions: PACK and FMT from the source, BAD becomes VALID (R202, R215). -/
def Ctx.loadSlot (x : Ctx) (s w fmt : Nat) (data : List Num) : Ctx :=
  let x := x.fillSlot s w data
  let e := x.entry s
  let fa := fmt == 0x01 || fmt == 0x11
  { x with dir := x.dir.put s { e with st := if e.st = 2 then 1 else e.st, quad := !fa && quadFmt fmt, fmt := if fa then 0x11 else fmt } }

/-- PCLR and PCLR.E (R202, R217). -/
def Ctx.clearSlot (x : Ctx) (s : Nat) (empty : Bool) : Ctx :=
  let x := x.fillSlot s 64 []
  let e := x.entry s
  { x with dir := x.dir.put s { e with st := if empty then 0 else if e.st = 2 then 1 else e.st, quad := false, fmt := 0x11 } }

/-- A slot that a parity error has made BAD: its content is a free value (R202, R211). -/
def State.spoilSlot (s : State) (c slot : Nat) : State :=
  let x := s.live c
  let e := x.entry slot
  { (s.setLive c { x with
      dir := x.dir.put slot { e with st := 2 }
      planes := SMap.fill (.zero false) x.planes (slot * 16384) 16384 fun i => decodeF FA40 (Config.freeSlot s.freeCtr i).toNat })
    with freeCtr := s.freeCtr + 1 }

/-! ## Rows (R206, R207, R209, R210, R218 to R220) -/

/-- Whether a command admits rows. -/
def isRowCmd : Instr → Bool
  | .mxrun .. => true
  | .mxgo .. => true
  | .mxgrad .. => true
  | _ => false

/-- The tile row of a row under base offset: modulo 64 also for negative offsets (R219). -/
def tileRow (base i : Nat) (off : Int) : Nat := (((base + i : Nat) : Int) + off).emod 64 |>.toNat

/-- The rows of an MXRUN or MXGO under a nest, fetched (R206, R209, R210). -/
def State.runRows (s : State) (f : Finder) (c ctx : Nat) (a t : RStream) (n kc base : Nat) (pred : Option W64)
    (lv : List (List Int)) : List MxRow :=
  let len := if quadFmt a.fmt then 4 * kc else kc
  let word := match pred with
    | some v => leNat (s.bytes (.win c ctx (bits v.toNat 20 0)) 8)
    | none => 2 ^ 64 - 1
  (iterations lv).zipIdx.flatMap fun it =>
    let off := nestOffset lv it.1
    let a' := a.operandAt (off 1) (off 2)
    let t' := t.tagAt (off 3)
    (List.range n).map fun i =>
      { i := i
        iter := it.2
        accRow := tileRow base i (off 4)
        tag := s.readRaw f t' (t'.elem true n 0 i)
        pred := word.testBit i && !(a'.em == 3 && !a'.rowValid len i)
        a := (List.range len).map fun j => s.readNum f a' (a'.elem true len i j)
        b := [] }

/-- The rows of an MXGRAD, fetched (R218). -/
def State.gradRows (s : State) (f : Finder) (a b t : RStream) (n kx ky : Nat) : List MxRow :=
  (List.range n).map fun i =>
    { i := i
      iter := 0
      accRow := 0
      tag := s.readRaw f t (t.elem true n 0 i)
      pred := !(a.em == 3 && !a.rowValid kx i) && !(b.em == 3 && !b.rowValid ky i)
      a := (List.range kx).map fun j => s.readNum f a (a.elem true kx i j)
      b := (List.range ky).map fun j => s.readNum f b (b.elem true ky i j) }

/-! ## The commit of a row (R205, R209, R218) -/

/-- One semiring step on an INT40 element (R209). -/
def stepInt (sr : Nat) (v : Int) (a w : Int) : Int :=
  match sr with
  | 0 => sextNat (wrapNat (v + a * w) 40) 40
  | 1 => min v (a + w)
  | 2 => max v (a + w)
  | 3 => max v (a * w)
  | _ => if v ≠ 0 ∨ (a ≠ 0 ∧ w ≠ 0) then 1 else 0

/-- INVALID where the element that a step adds to is a NaN (R209). -/
def accNan (v : Nat) : Flags := if decodeF FA40 v = .nan then fInvalid else 0
/-- One semiring step on an FA40 element, with its flags: a NaN input, of the element too, raises INVALID (R209); an or-and
step, for which it counts as non-zero, raises none (DESIGN CHOICE, log 33). -/
def stepFa (sr : Nat) (v : Nat) (a w : Num) : Nat × Flags :=
  let nan : Flags := accNan v ||| (if a = .nan ∨ w = .nan then fInvalid else 0)
  match sr with
  | 0 =>
    let (p, f) := a.mul w
    let (r, g) := fa40Add v p
    (r, matrixFlags (f ||| g ||| nan))
  | 4 => (if !(decodeF FA40 v).isZero || (!a.isZero && !w.isZero) then FA40.bias * 2 ^ FA40.mbits else 0, 0)
  | _ =>
    let (e, f) := if sr = 3 then a.mul w else a.add 0 w
    let (b, g) := roundTo FA40 e 0
    let x := decodeF FA40 v
    let y := decodeF FA40 b
    ((roundTo FA40 (if sr = 1 then x.fmin y else x.fmax y) 0).1, matrixFlags (f ||| g ||| nan))

/-- A product of two operands, with the flags of a matrix command (R209). -/
def product (q : Num × Num) : Num × Flags :=
  let (m, f) := q.1.mul q.2
  (m, f ||| (if q.1 = .nan ∨ q.2 = .nan then fInvalid else 0))
/-- Four products of quad packing, summed exactly: zeros of equal sign keep it, and a NaN input raises INVALID (R72, R75, R209). -/
def quadStep (v : Nat) (as ws : List Num) : Nat × Flags :=
  let ps := (as.zip ws).map product
  let (p, f) := ps.tail.foldl (fun (r : Num × Flags) m =>
    let (t, g) := r.1.add 0 m.1
    (t, r.2 ||| m.2 ||| g)) (ps.headD (.zero false, 0))
  let (r, g) := fa40Add v p
  (r, matrixFlags (f ||| g ||| accNan v))

/-- An accumulator element after an admitted row passes column c of a slot: kc cells in ascending plane row (R209). -/
def Ctx.passColumn (x : Ctx) (slot kc sr c : Nat) (quad intg : Bool) (a : List Num) (v : Nat) : Nat × Flags :=
  if intg then
    (wrapNat ((List.range kc).foldl (fun u g => stepInt sr u (a.getD g (.zero false)).toRat.floor (x.cell slot g c).toRat.floor)
      (sextNat v 40)) 40, 0)
  else (List.range kc).foldl (fun (r : Nat × Flags) g =>
    let (u, f) := if quad then
        quadStep r.1 ((a.drop (4 * g)).take 4) ((List.range 4).map fun q => x.cell slot (4 * g + q) c)
      else stepFa sr r.1 (a.getD g (.zero false)) (x.cell slot g c)
    (u, r.2 ||| f)) (v, 0)

/-- The commit of a row of MXRUN or MXGO into an accumulator row (R209). -/
def Ctx.commitRun (x : Ctx) (acc sr kc slot : Nat) (fmtA : Nat) (r : MxRow) : Ctx × Flags :=
  let quad := (x.entry slot).quad
  let intg := fmtA == 0x0B && (x.entry slot).fmt == 0x0B
  let new := (List.range 64).map fun c => (c, x.passColumn slot kc sr c quad intg r.a (x.acc.get 0 (aIdx acc r.accRow c)).toNat)
  ({ x with
      acc := new.foldl (fun m e => SMap.set 0 m (aIdx acc r.accRow e.1) (BitVec.ofNat 40 e.2.1)) x.acc
      badA := x.badA.filter fun e => e / 64 != aIdx acc r.accRow 0 / 64 },
   new.foldl (fun f e => f ||| e.2.2) 0)

/-- The commit of a row of MXGRAD into a G-role slot (R218). -/
def Ctx.commitGrad (x : Ctx) (kx ky slot : Nat) (r : MxRow) : Ctx × Flags :=
  let new := (List.range kx).flatMap fun i => (List.range ky).map fun c =>
    let (p, f) := (r.a.getD i (.zero false)).mul (r.b.getD c (.zero false))
    let (v, g) := rounded FA40 ((x.cell slot i c).add 0 p) 0
    (pIdx slot i c, decodeF FA40 v, matrixFlags (f ||| g))
  ({ x with planes := new.foldl (fun m e => SMap.set (.zero false) m e.1 e.2.1) x.planes }, new.foldl (fun f e => f ||| e.2.2) 0)

/-- The cells that a row of a command reads in its slot: rows and columns. -/
def rowCells : Instr → Nat × Nat
  | .mxrun _ _ _ _ _ _ _ _ kc _ => (kc.toNat + 1, 64)
  | .mxgo _ _ _ _ _ _ _ kc => (kc.toNat + 1, 64)
  | .mxgrad _ _ _ _ _ kx ky => (kx.toNat + 1, ky.toNat + 1)
  | _ => (0, 0)

/-- Whether a row meets a cell of bad parity in a slot (R211). -/
def Ctx.parityBad (x : Ctx) (slot rows cols : Nat) : Bool :=
  x.badSlot.any fun e => decide (e / 4096 = slot ∧ e % 4096 / 64 < rows ∧ e % 64 < cols)

/-- A row's commit, or MXPAR (R211). -/
def Ctx.commitRow (x : Ctx) (k : Cmd) (slot : Nat) (r : MxRow) : Option (Ctx × Flags) :=
  let (rows, cols) := rowCells k.instr
  if x.parityBad slot rows cols then none
  else match k.instr with
    | .mxrun _ _ _ acc sr _ _ _ kc _ => some (x.commitRun acc.toNat sr.toNat (kc.toNat + 1) slot ((k.sa.map RStream.fmt).getD 0) r)
    | .mxgo _ _ _ acc sr _ _ kc => some (x.commitRun acc.toNat sr.toNat (kc.toNat + 1) slot ((k.sa.map RStream.fmt).getD 0) r)
    | .mxgrad _ _ _ _ _ kx ky => some (x.commitGrad (kx.toNat + 1) (ky.toNat + 1) slot r)
    | _ => some (x, 0)

/-! ## Admission (R205, R209, R211) -/

/-- Whether a command's packing is quad: that of its operand stream (R206). -/
def Cmd.quad (k : Cmd) : Bool := match k.sa with | some a => quadFmt a.fmt | none => false

/-- Rows admitted from where the command stands until one matches no slot: the slots found; 8 for a row whose predicate is
clear (R209, R210). -/
def Ctx.admitRows (x : Ctx) (grad quad : Bool) : List MxRow → List Nat
  | [] => []
  | r :: rest =>
    if !r.pred then 8 :: x.admitRows grad quad rest
    else match x.matchSlot (BitVec.ofNat 16 r.tag) grad quad with
      | some s => s :: x.admitRows grad quad rest
      | none => []

/-- A command's rows admitted from the first not admitted. -/
def Ctx.admitNext (x : Ctx) (k : Cmd) : Cmd :=
  let grad := match k.instr with | .mxgrad .. => true | _ => false
  let new := x.admitRows grad (k.quad && !grad) (k.rows.drop k.admitted)
  { k with slots := k.slots ++ new, admitted := k.admitted + new.length }

/-- Whether a row command's rows are all admitted. -/
def Cmd.allAdmitted (k : Cmd) : Bool := !isRowCmd k.instr || decide (k.admitted = k.rows.length)

/-- Admission along the MX queue, in queue order, up to a command that is stopped, suspended or unstarted, or whose next row
misses. -/
def Ctx.admitQueue (x : Ctx) : List Cmd → List Cmd
  | [] => []
  | k :: r =>
    if k.husk then k :: x.admitQueue r
    else if k.phase = .queued ∨ k.stop.isSome ∨ k.suspended then k :: r
    else
      let k' := if isRowCmd k.instr then x.admitNext k else k
      if k'.allAdmitted then k' :: x.admitQueue r else k' :: r

/-- The slots of a command's rows that are admitted and have not committed; 8 for a row whose predicate is clear. -/
def Cmd.inFlight (k : Cmd) : List Nat := (k.slots.take k.admitted).drop k.committed
/-- Rows admitted that have not committed and use a slot (R201, LIVE). -/
def Ctx.liveRows (x : Ctx) (s : Nat) : Nat := (x.mx.map fun k => k.inFlight.count s).sum
/-- Whether a row in flight of a command is to meet a cell of bad parity, before which no later row stops it (R211). -/
def Ctx.flightBad (x : Ctx) (k : Cmd) : Bool :=
  k.inFlight.any fun s => s != 8 && x.parityBad s (rowCells k.instr).1 (rowCells k.instr).2
/-- Whether a repair command waits for rows in flight that use its slot (R205, R212). -/
def Ctx.laneHeld (x : Ctx) (k : Cmd) : Bool :=
  match k.instr with
  | .pload _ _ _ _ slot => x.liveRows slot.toNat != 0
  | .pstore _ _ _ _ slot _ => x.liveRows slot.toNat != 0
  | .pclr _ slot _ => x.liveRows slot.toNat != 0
  | _ => false

/-! ## Operand fetch (R207) -/

/-- The first accumulator element of bad parity that a command reads (R64). -/
def Ctx.accBad (x : Ctx) (acc : Nat) (rows : List Nat) : Option Pend :=
  (x.badA.find? fun e => decide (e / 4096 = acc) && rows.contains (e % 4096 / 64)).map fun e =>
    { cause := cECC, sub := 1, addr := 2 ^ 63 + 0x240000 + 8 * e }

/-- A stream whose objects have no deadline. -/
def RStream.ageless (st : RStream) : RStream :=
  { st with obj := { st.obj with life := 0 }, sobj := { st.sobj with life := 0 }, zobj := { st.zobj with life := 0 } }

/-- The bursts of a command's fetch: operand rows, tags, the predicate word, with the accumulator elements read. ECC wherever the
fetch meets it comes before EXPIRED (R207, R224). -/
def State.fetchAll (s : State) (f : Finder) (rows : List (RStream × List Ele)) (word : List Place) (acc : Option Pend) :
    State × Option Pend :=
  let m := rows.foldl (fun (m : Mv) r => m.readRow f r.1.ageless r.2) { s := s }
  let w := (word.find? s.badUnit).map fun p => ({ cause := cECC, sub := 0, addr := 2 ^ 63 + (match p with
    | .win _ _ off => off / 8 * 8
    | _ => 0) } : Pend)
  (m.s.meet word, ((m.bad.or w).or acc).or (rows.foldl (fun (m : Mv) r => m.readRow f r.1 r.2) { s := s }).bad)

/-- The word that MXSTAT gives (R201, R223). -/
def Ctx.mxWord (x : Ctx) (sel : Nat) : W64 :=
  if sel < 8 then
    let d := x.entry sel
    BitVec.ofNat 64 (d.tag.toNat * 2 ^ 48 + (if d.role then 2 ^ 47 else 0) + d.st % 4 * 2 ^ 45 + (if d.quad then 2 ^ 44 else 0)
      + d.fmt % 32 * 2 ^ 39 + x.liveRows sel % 2 ^ 16)
  else if sel = 8 then
    match x.mx.head? with
    | none => 0
    | some k => match k.stop with
      | none => 0
      | some p =>
        let d := if p.cause = cSELMISS ∨ p.cause = cMXPAR then p.detail else 0
        BitVec.ofNat 64 (2 ^ 63 + p.sub % 8 * 2 ^ 60 + d % 64 * 2 ^ 54 + d / 2 ^ 48 % 65536 * 2 ^ 38 + p.cause % 64 * 2 ^ 32
          + k.seq % 2 ^ 32)
  else
    let go := x.mx.find? fun k => k.phase != .queued && !k.husk && (match k.instr with | .mxgo .. => true | _ => false)
    match go with
    | none => 0
    | some k =>
      let it := ((k.rows.getD (min k.admitted (k.rows.length - 1)) ⟨0, 0, 0, 0, true, [], []⟩).iter)
      let cnt := ((k.nest.getD (sel - 9) []).headD 0).toNat
      if cnt = 0 then 0 else BitVec.ofNat 64 (cnt % 2 ^ 32 * 2 ^ 32 + ((iterations k.nest).getD it []).getD (sel - 9) 0)

/-- What a matrix command does at its start: its operands are fetched whole, or it meets ECC or EXPIRED with no effect
(R207, R224); PDIR, MXNEST and the exchange of nests of MXGO act (R214, R219, R220), and MXSTAT reads its word while rows admitted
before it may still be in flight (R201, R205, R223). -/
def State.mxStart (s : State) (c : Nat) (k : Cmd) : State × Cmd × Option Pend :=
  let x := s.live c
  let f := s.finder c x.id k.pins x.root
  let run (a t : RStream) (acc base n kc : Nat) (pred : Option W64) (lv : List (List Int)) : State × Cmd × Option Pend :=
    let rows := s.runRows f c x.id a t n kc base pred lv
    let len := if quadFmt a.fmt then 4 * kc else kc
    let word := match pred with
      | some v => (List.range 8).map fun b => Place.win c x.id (bits v.toNat 20 0 + b)
      | none => []
    let streams := (iterations lv).flatMap fun it =>
      let off := nestOffset lv it
      let a' := a.operandAt (off 1) (off 2)
      let t' := t.tagAt (off 3)
      ((List.range n).map fun i => (a', a'.rowEles true len i none)) ++ [(t', t'.rowEles true n 0 none)]
    let (s, e) := s.fetchAll f streams word (x.accBad acc ((rows.filter (·.pred)).map (·.accRow)))
    (s, { k with rows := rows, admitted := 0, committed := 0, slots := [], nest := lv }, e)
  match k.instr, k.sa, k.sb with
  | .mxrun _ _ _ acc _ _ base n kc p, some a, some t =>
    run a t acc.toNat base.toNat (n.toNat + 1) (kc.toNat + 1) (if p = 1 then k.gv.head? else none) []
  | .mxgo _ _ _ acc _ base n kc, some a, some t =>
    let (s, k', e) := run a t acc.toNat base.toNat (n.toNat + 1) (kc.toNat + 1) none (nestLevels x.shadowNest)
    if e.isSome then (s, k', e)
    else (s.setLive c { x with shadowNest := x.activeNest, activeNest := x.shadowNest }, k', none)
  | .mxgrad _ _ _ _ n kx ky, some a, some b =>
    match k.st with
    | none => (s, k, none)
    | some t =>
      let N := n.toNat + 1
      let streams := ((List.range N).flatMap fun i =>
        [(a, a.rowEles true (kx.toNat + 1) i none), (b, b.rowEles true (ky.toNat + 1) i none)]) ++ [(t, t.rowEles true N 0 none)]
      let (s', e) := s.fetchAll f streams [] none
      (s', { k with rows := s.gradRows f a b t N (kx.toNat + 1) (ky.toNat + 1), admitted := 0, committed := 0, slots := [] }, e)
  | .pload _ _ _ rows _, some a, _ =>
    let w := (tileWidth (k.gv.headD 0)).getD 64
    let es := (List.range (rows.toNat + 1)).map fun i => a.rowEles true w i none
    let (s', e) := s.fetchAll f (es.map fun e => (a, e)) [] none
    (s', { k with data := es.flatten.map (s.readNum f a) }, e)
  | .pdir _ _ slot role, _, _ =>
    (s.setLive c (x.setDir slot.toNat ((k.gv.headD 0).setWidth 16) (role = 1)), k, none)
  | .mxnest _ _ level, _, _ =>
    (s.setLive c { x with shadowNest := x.shadowNest.put level.toNat (nestEntry (k.gv.headD 0) (k.gv.getD 1 0) (k.gv.getD 2 0)) }, k, none)
  | .mxstat _ sel, _, _ => (s, { k with idx := [(x.mxWord sel.toNat).toNat] }, none)
  | .mxacr _ _ acc _ _ all quarter _ _ _, _, _ =>
    (s, k, x.accBad acc.toNat (if all = 1 ∨ k.sb.isSome then List.range 64 else (List.range 16).map (16 * quarter.toNat + ·)))
  | _, _, _ => (s, k, none)

/-! ## Effects of the commands that take no rows in -/

/-- The identity of a semiring in a tile (R209, R221). -/
def tileIdent (sr : Nat) (intg : Bool) : BitVec 40 :=
  match sr, intg with
  | 1, false => BitVec.ofNat 40 FA40.infBits
  | 1, true => BitVec.ofNat 40 (2 ^ 39 - 1)
  | 2, false => BitVec.ofNat 40 (FA40.signed true FA40.infBits)
  | 2, true => BitVec.ofNat 40 (2 ^ 39)
  | 3, false => BitVec.ofNat 40 (FA40.signed true FA40.infBits)
  | 3, true => BitVec.ofNat 40 (2 ^ 39)
  | _, _ => 0

/-- Every element of a tile set, with good parity. -/
def Ctx.setTile (x : Ctx) (acc : Nat) (v : BitVec 40) : Ctx :=
  { x with acc := SMap.fill 0 x.acc (acc * 4096) 4096 fun _ => v, badA := x.badA.filter fun e => e / 4096 != acc }

/-- The exact value of a tile element (R222). -/
def Ctx.tileNum (x : Ctx) (acc i j : Nat) (intg : Bool) : Num :=
  let v := (x.acc.get 0 (aIdx acc i j)).toNat
  if intg then Num.ofInt (sextNat v 40) else decodeF FA40 v

/-- MXACR into vector registers: rows from r0 on into vd on (R222). -/
def Ctx.readTile (x : Ctx) (acc vd r0 n rm : Nat) (intg : Bool) : Ctx × Flags :=
  let new := (List.range n).flatMap fun i => (List.range 64).map fun j =>
    let v := (x.acc.get 0 (aIdx acc (r0 + i) j)).toNat
    let (b, f) := if intg then (wrapNat (satI (sextNat v 40) 32) 32, 0) else roundTo F32 (decodeF FA40 v) rm
    (vIdx (vd + i / 16) (i % 16) j, b, matrixFlags f)
  ({ x with
      v := new.foldl (fun m e => SMap.set 0 m e.1 (BitVec.ofNat 32 e.2.1)) x.v
      badV := x.badV.filter fun e => !new.any (·.1 = e) },
   new.foldl (fun f e => f ||| e.2.2) 0)

/-- PSTORE's rows: a cell row of bad parity, or the first one of a BAD slot, stops it with nothing of that row written (R216), unless
the row's writes meet ECC or EXPIRED, which come first (R224). -/
def State.storeSlot (s : State) (f : Finder) (b : RStream) (x : Ctx) (slot rows w rm : Nat) : Mv × Option Nat :=
  let quad := (x.entry slot).quad
  let lim := if quad then 256 else 64
  let badRow (k cr : Nat) : Bool := (x.entry slot).st == 2
    || (k < lim && x.badSlot.any fun e => decide (e / 4096 = slot ∧ e % 4096 / 64 = cr ∧ e % 64 < w))
  (List.range rows).foldl (fun (r : Mv × Option Nat) k =>
    if r.2.isSome || r.1.bad.isSome then r
    else
      let cr := if quad then k / 4 else k
      let m := r.1.putNums f b 0x11 rm [(List.range w).map fun j =>
        (b.elem false w k j, if k < lim then x.cell slot k j else .zero false)]
      if m.bad.isNone && badRow k cr then (r.1, some cr) else (m, none)) ({ s := s, word := true }, none)

/-- MXPAR at a slot and row (R140, R211). -/
def Ctx.mxpar (x : Ctx) (slot row : Nat) : Pend :=
  { cause := cMXPAR, sub := slot, detail := (x.entry slot).tag.toNat * 2 ^ 48 + row }

/-- MXRES on the head of a queue (R213): a stop by SELMISS or MXPAR is to end once the repair lane is empty, which it is whenever
the head is not so stopped (R212; log 74). -/
def resumeHead : List Cmd → List Cmd
  | [] => []
  | k :: r => (if k.parStopped then { k with resuming := true } else k) :: r
/-- The head that an MXRES has resumed goes on: a PSTORE runs again from its start (R213); what stands behind it waits until it has
retired (R212). -/
def resumeNow : List Cmd → List Cmd
  | [] => []
  | k :: r => (if k.resuming then { k with stop := none, resuming := false, resumed := true } else k) :: r
/-- MXRES on the repair lane and the queue: a repair command that MXPAR has stopped, behind which it was pushed, runs again from its
start (R213; log 21); else the head of the queue is to go on. -/
def Ctx.mxres (x : Ctx) : Ctx :=
  match x.lane with
  | m :: k :: r => if k.parStopped then { x with lane := m :: { k with stop := none } :: r } else { x with mx := resumeHead x.mx }
  | _ => { x with mx := resumeHead x.mx }

/-- The effects of a started matrix command that admits no rows. -/
def State.mxEff (s : State) (c : Nat) (k : Cmd) : Eff :=
  let x := s.live c
  let f := s.finder c x.id k.pins x.root
  match k.instr with
  | .pload _ _ _ _ slot =>
    .ok (s.setLive c (x.loadSlot slot.toNat ((tileWidth (k.gv.headD 0)).getD 64) ((k.sa.map RStream.fmt).getD 0) k.data)) 0 []
  | .pstore _ _ _ rows slot rm =>
    match k.sb with
    | none => .ok s 0 []
    | some b =>
      let (m, par) := s.storeSlot f b x slot.toNat (rows.toNat + 1) ((tileWidth (k.gv.headD 0)).getD 64) rm.toNat
      match m.bad, par with
      | some p, _ => .stop m.s p
      | none, some row => .stop (if (x.entry slot.toNat).st = 2 then m.s else m.s.spoilSlot c slot.toNat) (x.mxpar slot.toNat row)
      | none, none => .ok m.s 0 []
  | .pclr _ slot e => .ok (s.setLive c (x.clearSlot slot.toNat (e = 1))) 0 []
  | .mxres _ => .ok (s.setLive c x.mxres) 0 []
  | .mxacl _ acc sr i => .ok (s.setLive c (x.setTile acc.toNat (tileIdent sr.toNat (i = 1)))) 0 []
  | .mxacr _ _ acc dst vd all quarter i z rm =>
    let clear (s : State) : State := if z = 1 then s.setLive c ((s.live c).setTile acc.toNat 0) else s
    if dst = 1 then
      match k.sb with
      | none => .ok s 0 []
      | some b =>
        let src := if i = 1 then 0x10 else 0x11
        let row (r : Nat) : List (Ele × Nat) := (List.range 64).map fun j => (b.elem false 64 r j, j)
        let m := (bands b 64 (scaled b.fmt) 64).foldl (fun (m : Mv) band =>
          if m.bad.isSome then m
          else if b.fmt = src then
            band.foldl (fun m r => m.putBits f b ((row r).filterMap fun e => match e.1 with
              | .at c => some (c, (x.acc.get 0 (aIdx acc.toNat r e.2)).toNat, none)
              | _ => none)) m
          else m.putNums f b src rm.toNat (band.map fun r => (row r).map fun e => (e.1, x.tileNum acc.toNat r e.2 (i = 1)))) { s := s, word := true }
        let fl : Flags := if b.fmt = src ∨ scaled b.fmt then 0
          else (List.range 64).foldl (fun f r => (row r).foldl (fun f e => match e.1 with
            | .at _ => f ||| (convElem src b.fmt (x.tileNum acc.toNat r e.2 (i = 1)) rm.toNat).2
            | _ => f) f) 0
        match m.bad with
        | some p => .stop m.s p
        | none => .ok (clear m.s) (matrixFlags fl) []
    else
      let (x', fl) := if all = 1 then x.readTile acc.toNat vd.toNat 0 64 rm.toNat (i = 1)
        else x.readTile acc.toNat vd.toNat (16 * quarter.toNat) 16 rm.toNat (i = 1)
      .ok (clear (s.setLive c x')) fl []
  | _ => .ok s 0 []

end Sys2Proof.Machine
end

