-- ==== Sys2Proof/Machine/Engine.lean ====
section
/-! DEFINITION. The engines: start, retirement, holds, husks, row commits and stops of commands (R13, R41 to R43, R57,
R126, R138, R150, R152, R169 to R173, R179, R205, R211 to R213, R302, R329). Each event answers the state it makes, or none
where its condition does not hold, and then changes nothing. -/

namespace Sys2Proof.Machine

/-- An event's outcome: the state it makes; nothing where its condition does not hold. -/
def event (f : State → Option State) (s : State) : Host.Outcome State Fault Refusal := .next ((f s).getD s)

/-! ## Commands -/

/-- The token bytes of a command word (R88). -/
def tokOf (i : Instr) : Tok :=
  let w := (encodeNat i).getD 0
  ⟨BitVec.ofNat 4 (bits w 63 60), BitVec.ofNat 4 (bits w 55 52)⟩
/-- The opcode byte of a command word (R140). -/
def opcOf (i : Instr) : Nat := bits ((encodeNat i).getD 0) 47 40

/-- The flag that a copy increments (R170). -/
def flagOf : Instr → Option Nat
  | .ldt _ _ _ _ fl fe _ _ => if fe = 1 then some fl.toNat else none
  | .cpy _ _ _ _ fl fe _ _ => if fe = 1 then some fl.toNat else none
  | .ldo _ _ _ fl fe _ => if fe = 1 then some fl.toNat else none
  | .pref _ _ _ fl fe _ => if fe = 1 then some fl.toNat else none
  | .ldg _ _ _ _ fl fe _ _ => if fe = 1 then some fl.toNat else none
  | .qmark _ fl fe => if fe = 1 then some fl.toNat else none
  | .stt _ _ _ _ fl fe _ _ => if fe = 1 then some fl.toNat else none
  | .cpys _ _ _ _ fl fe _ _ => if fe = 1 then some fl.toNat else none
  | .redSt _ _ _ _ fl fe _ _ _ => if fe = 1 then some fl.toNat else none
  | .sct _ _ _ _ fl fe _ _ => if fe = 1 then some fl.toNat else none
  | .chpop _ _ _ fl fe _ => if fe = 1 then some fl.toNat else none
  | _ => none

/-- The core whose flag a copy increments: that of the window that holds its destination, else its own (R170). -/
def Cmd.flagCore (k : Cmd) (c : Nat) : Nat :=
  match k.sb with
  | some b => if b.obj.kind = 3 then ((onChip c b.obj.home).map (·.1)).getD c else c
  | none => c

/-- Rows that a copy's streams have: three for each row of a MEAN (R258). -/
def Cmd.copyRows (k : Cmd) : Nat :=
  match k.instr with
  | .ldt _ _ _ _ _ _ n _ => n.toNat
  | .cpy _ _ _ _ _ _ n _ => n.toNat
  | .ldo _ _ _ _ _ n => n.toNat
  | .ldg _ _ _ _ _ _ n _ => n.toNat
  | .stt _ _ _ _ _ _ n _ => n.toNat
  | .cpys _ _ _ _ _ _ n _ => n.toNat
  | .sct _ _ _ _ _ _ n _ => n.toNat
  | .redSt _ _ _ _ _ _ n _ op => if op = 3 then 3 * n.toNat else n.toNat
  | .chpop _ _ _ _ _ n => n.toNat
  | _ => 0

/-- The addresses of a kind of home where a copy writes its validity mask (R62). -/
def Cmd.maskAddrs (k : Cmd) (kind : Nat) : List Nat :=
  match k.instr, k.sa, k.sb with
  | .redSt .., _, _ => []
  | _, some a, some b => if a.em = 3 then b.maskAddrs kind k.copyRows ((tileWidth (k.gv.headD 0)).getD 64) else []
  | _, _, _ => []

/-- The streams of a copy with their tiles. -/
def Cmd.uses (k : Cmd) : List Use :=
  let w := match k.instr with | .ldo .. => 8 | _ => (tileWidth (k.gv.headD 0)).getD 64
  let g := match k.instr with | .ldg .. => true | _ => false
  let sc := match k.instr with | .sct .. => true | _ => false
  (match k.sa with | some a => [{ reg := 0, st := a, read := true, rows := k.copyRows, w := w, indexed := g }] | none => []) ++
  (match k.sb with | some b => [{ reg := 0, st := b, read := false, rows := k.copyRows, w := w, indexed := sc }] | none => [])

/-- The on-chip addresses that an LD, ST or VX command of core c touches. -/
def Cmd.chip (k : Cmd) (ctx : Nat) : List Nat :=
  match k.instr with
  | .vld _ _ _ _ _ mf => vm mf
  | .vst _ _ _ _ _ _ mf => vm mf
  | .ldg .. => list
  | .sct .. => list
  | _ => streams
where
  streams : List Nat := (k.uses.flatMap fun u => u.addrs 3) ++ k.maskAddrs 3
  list : List Nat := streams ++ ((List.range (4 * k.copyRows)).map fun i => 2 ^ 63 + bits (k.gv.getD 1 0).toNat 20 0 + i)
  vm (mf : BitVec 4) : List Nat := (List.range 16).flatMap fun i => [0, 63].flatMap fun j =>
    (vmemPlaces 0 ctx mf.toNat k.gv i j).map fun p => match p with | .win _ _ o => 2 ^ 63 + o | _ => 0

/-- The first address of a command in a held group or tile of its core (R57). Every element of the footprint counts, masked off or not
(R178, R183: DESIGN CHOICE, log 36). -/
def State.metHold (s : State) (c : Nat) (k : Cmd) : Option Nat :=
  let x := s.live c
  if !(k.groups.any (s.heldBank c) || k.tiles.any x.heldTiles.contains) then none
  else (k.chip x.id).find? fun a => match onChip c a with
    | some (core, off) => core == c && s.heldOff c off
    | none => false

/-- The on-chip places outside its own core that a copy touches: elements, scales, zero points and mask words. -/
def Cmd.outside (k : Cmd) (c : Nat) : List (Nat × Nat) :=
  ((k.uses.flatMap fun u => u.addrs 3) ++ k.maskAddrs 3).filterMap fun a => (onChip c a).filter fun p => p.1 != c
/-- Whether a place outside the core that a command reaches cannot be reached now (R57, R149, R172). -/
def State.outsideBlocked (s : State) (c : Nat) (k : Cmd) : Bool :=
  (k.outside c).any fun p => s.blocked c (.win p.1 (s.live c).id p.2)

/-- The units of the own core that a command of an agent uses (R302): its engine's own, the groups and tiles of its footprint, the
vector registers that a copy or an MXACR touches, and the group of a predicate word; of a row command that has fetched, MX alone. -/
def Cmd.ownUnits (k : Cmd) (c : Nat) (a : Agent) : List Nat :=
  if isRowCmd k.instr && k.phase != .queued then [5] else
  (if a = .vx then [4] else if a = .mx then [5] else []) ++ k.groups ++ (if k.tiles.isEmpty then [] else [5])
    ++ (if (k.uses.flatMap fun u => u.addrs 3).any (fun d => match onChip c d with
          | some (core, off) => core == c && unitOf off == 4
          | none => false) then [4] else [])
    ++ (match k.instr with
        | .mxacr _ _ _ dst _ _ _ _ _ _ => if dst = 0 then [4] else []
        | .mxrun _ _ _ _ _ _ _ _ _ p => if p = 1 then [bankOf (bits (k.gv.headD 0).toNat 20 0)] else []
        | _ => [])

/-- The gated units that a command waits for, of its own core and of the other cores it reaches (R302). -/
def State.gatesMet (s : State) (c : Nat) (a : Agent) (k : Cmd) : List (Nat × Nat) :=
  let own := (k.ownUnits c a).dedup
  let mine := (own.filter (s.gated c)).map fun u => (c, u)
  mine ++ (((k.outside c).filter fun p => s.gated p.1 (unitOf p.2)).map fun p => (p.1, unitOf p.2)).dedup

/-! ## Stops (R138, R140) -/

/-- The record of a command's engine fault (R140). -/
def Cmd.record (k : Cmd) (s : State) (a : Agent) (lane : Bool) (p : Pend) : Pend :=
  { p with agent := agentNum a, opc := opcOf k.instr, gen := k.gen.toNat, seq := k.seq, clk := s.cycle, queue := some a, lane := lane }

/-- The head replaced in a queue, or in the repair lane. -/
def Ctx.setHead (x : Ctx) (a : Agent) (lane : Bool) (k : Cmd) : Ctx :=
  if lane then { x with lane := k :: x.lane.tail } else x.setQueue a (k :: (x.queue a).tail)

/-- The head of a queue or of the lane stopped, its trap pending, a record of KIND 0x03 written, and one of the black box for an
uncorrectable error (R138, R154, R157). -/
def State.stopHead (s : State) (c : Nat) (a : Agent) (lane : Bool) (k : Cmd) (p : Pend) : State :=
  let x := s.live c
  let p := k.record s a lane p
  let s := s.setLive c { (x.setHead a lane { k with stop := some p }) with pend := x.pend ++ [p] }
  let s := if p.cause = cECC then s.eccBox c p.agent x.id p.addr else s
  s.trace (hlOf c) { time := s.time, kind := 0x03, agent := p.agent, core := c, ctx := x.id, code := p.cause, value := p.addr, word3 := p.seq }

/-! ## The matrix queue after a change (R205, R211) -/

/-- Rows admitted as far as they match, and a head whose next row misses stopped by SELMISS: the rows before it may still be in flight,
but for one that is to stop the command first by MXPAR (R211). Nothing is admitted while MX is gated (R302). -/
def State.settleMx (s : State) (c : Nat) : State :=
  if s.gated c 5 then s else
  let x := s.live c
  let x := { x with mx := x.admitQueue x.mx }
  let s := s.setLive c x
  match x.mx.head? with
  | none => s
  | some k =>
    if isRowCmd k.instr && k.phase != .queued && !k.husk && k.stop.isNone && !k.suspended
        && !x.flightBad k && decide (k.admitted < k.rows.length) then
      let r := k.rows.getD k.admitted ⟨0, 0, 0, 0, true, [], []⟩
      let grad := match k.instr with | .mxgrad .. => true | _ => false
      s.stopHead c .mx false k { cause := cSELMISS, sub := if grad then 1 else 0, detail := r.tag % 65536 * 2 ^ 48 + r.i }
    else s

/-! ## Start (R41, R42, R150, R152) -/

/-- Entries of a result FIFO that started commands have claimed (R198, R223). -/
def Ctx.vxClaims (x : Ctx) : Nat :=
  (x.vx.filter fun k => k.phase != .queued && !k.husk && (match k.instr with | .vtog .. => true | _ => false)).length
def Ctx.mxClaims (x : Ctx) : Nat :=
  ((x.mx ++ x.lane).filter fun k => k.phase != .queued && !k.husk && (match k.instr with | .mxstat .. => true | _ => false)).length

/-- The resource a command needs to start (R150). -/
def Ctx.resource (x : Ctx) (k : Cmd) : Bool :=
  match k.instr with
  | .vtog .. => decide (x.vxFifo.length + x.vxClaims < 16)
  | .mxstat .. => decide (x.mxFifo.length + x.mxClaims < 16)
  | .chpush _ _ _ _ _ n => decide (n.toNat + 1 ≤ x.chFree)
  | .chpop _ _ _ _ _ n => decide (n.toNat + x.chTaken k.seq ≤ x.chimney.length)
  | _ => true

/-- Whether a breakpoint stops a command before it pops (R152). -/
def Core.bpOn (k : Core) (a : Agent) (seq : Nat) : Bool :=
  k.bps.any fun b => b.2 == .queue a seq && !k.live.passed.contains b.2

/-- The first command of a queue that has not started, with those before it; none when a husk, a stop, a suspended command, one that
an MXRES has resumed (R212) or a QMARK stands before it, or when it is a husk. -/
def nextUp : List Cmd → List Cmd → Option (List Cmd × Cmd × List Cmd)
  | _, [] => none
  | before, k :: r =>
    if k.husk ∨ k.stop.isSome ∨ k.suspended ∨ k.resumed then none
    else if k.phase = .queued then some (before, k, r)
    else if k.isMark then none
    else nextUp (before ++ [k]) r

/-- Whether the tokens, the resource and the room of the engine let a command start (R42, R150, R171); a QMARK needs both
heads (R169). -/
def State.ready (s : State) (c : Nat) (a : Agent) : Bool :=
  let x := s.live c
  match nextUp [] (x.queue a) with
  | none => false
  | some (before, k, _) =>
    (k.popped || x.hasTokens (popFifos a (tokOf k.instr).pop)) && x.resource k
      && (!(a = .ld || a = .st) || decide (before.length < 4))
      && (!k.isMark || (a = .ld && before.isEmpty && (match x.st.head? with | some m => m.isMark && m.instr == k.instr | none => false)))
      && (k.popped || !((s.core c).bpOn a k.seq || (k.isMark && (match x.st.head? with | some m => (s.core c).bpOn .st m.seq | none => false))))

/-- The effects of a started command of an agent, or its fault. -/
def State.effects (s : State) (c : Nat) (a : Agent) (k : Cmd) : Eff :=
  match a with
  | .ld => s.copyEff c k
  | .st => s.copyEff c k
  | .vx => s.vecEff c k
  | .mx => s.mxEff c k
  | .cc => .ok s 0 []

/-- Whether a started command can make its effects now: no place outside the core and no unit gated since holds it up; rows must have
committed (R57, R302). -/
def State.canApply (s : State) (c : Nat) (a : Agent) (k : Cmd) : Bool :=
  !s.outsideBlocked c k && (!isRowCmd k.instr || decide (k.committed = k.rows.length)) && (s.gatesMet c a k).isEmpty

/-- Gated units that wake for an access (R302). -/
def State.wakeAll (s : State) (l : List (Nat × Nat)) : State := l.foldl (fun s u => s.wake u.1 u.2) s

/-- The queue of core c with the command of sequence number n replaced. -/
def Ctx.setCmd (x : Ctx) (a : Agent) (k : Cmd) : Ctx :=
  x.setQueue a ((x.queue a).map fun q => if q.seq = k.seq then k else q)

/-- The started commands of a queue before the next one, applied in order: the state when all of them are; at a fault, the
head stopped (R329). -/
def State.applyBefore (s : State) (c : Nat) (a : Agent) (first : Bool) : List Cmd → Except (Option State) State
  | [] => .ok s
  | k :: r =>
    if k.phase = .applied then s.applyBefore c a false r
    else if !s.canApply c a k then .error none
    else if isRowCmd k.instr then (s.setLive c ((s.live c).setCmd a { k with phase := .applied })).applyBefore c a false r
    else match s.effects c a k with
      | .ok s' fl note =>
        (s'.setLive c ((s'.live c).setCmd a { k with phase := .applied, fl := fl, idx := if note.isEmpty then k.idx else note })).applyBefore c a false r
      | .stop s' p => .error (if first then some (s'.stopHead c a false k p) else none)

/-- The started, unretired copy and vector commands of a context (R57, R183). -/
def Ctx.touching (x : Ctx) : List Cmd := (x.ld ++ x.st ++ x.vx).filter Cmd.holding
/-- Whether a matrix command may start beside the started, unretired commands of the other engines, of the active context and, where
its bytes stand in the groups, of one in a store or a save area (R57). -/
def State.mxClear (s : State) (c : Nat) (k : Cmd) : Bool :=
  (s.live c).touching.all (fun q => !(q.groups.any k.groups.contains) && !(q.tiles.any k.tiles.contains))
    && (s.frozenCtx c).all fun x => x.touching.all fun q => !(q.groups.any fun g => k.groups.contains g && !s.bankKept c x g)

/-- The resource that a command needs besides its tokens, as the wait for it is logged (R198, R223, R292, R293). -/
def Cmd.resourceWait (k : Cmd) : WaitKind × Nat :=
  match k.instr with
  | .vtog .. => (.resultFifo, 0)
  | .mxstat .. => (.resultFifo, 1)
  | .chpush .. => (.chimney, 2 ^ 63 + 0x263000)
  | _ => (.chimney, 2 ^ 63 + 0x263000)

/-- The FIFO or the resource that the head of a queue waits for before it can start: a wait kind and its object. A QMARK's ST entry
pops nothing: its LD entry does (R89, R169). -/
def Ctx.headWait (x : Ctx) (a : Agent) (k : Cmd) : Option (WaitKind × Nat) :=
  if k.phase ≠ .queued ∨ k.husk ∨ k.stop.isSome ∨ (a = .st ∧ k.isMark) then none
  else
    let pops := popFifos a (tokOf k.instr).pop
    if !k.popped && !x.hasTokens pops then some (.token, x.missing pops)
    else if x.resource k then none
    else some k.resourceWait

/-- Whether the QMARK at the head of a copy queue waits for the other queue's entry (R169). -/
def Ctx.markWaits (x : Ctx) (a : Agent) (k : Cmd) : Bool :=
  k.isMark && k.phase == .queued && (if a = .ld then !(match x.st.head? with | some m => m.isMark | none => false) else a == .st)

/-- What a queue head waits for now, for its wait log (R155): a token, also before a husk; a resource; a QMARK's other entry; a unit
that wakes; a bank group that another engine's command touches. -/
def State.headNow (s : State) (c : Nat) (a : Agent) (k : Cmd) : Option (WaitKind × Nat) :=
  let x := s.live c
  let pops := popFifos a (tokOf k.instr).pop
  if k.husk then (if k.popped || x.hasTokens pops then none else some (.token, x.missing pops))
  else match x.headWait a k with
    | some w => some w
    | none =>
      if k.phase ≠ .queued ∨ k.stop.isSome ∨ k.suspended then none
      else if x.markWaits a k then some (.mark, if a = .ld then 2 else 1)
      else match s.gatesMet c a k with
        | g :: _ => some (.gate, g.1 * 8 + g.2)
        | [] => if a = .mx && !s.mxClear c k then some (.heldGroup, 2 ^ 63 + 0x80000 * k.groups.headD 0) else none

/-- The head of a queue, or of the repair lane, with what it waits for now noted (R155). -/
def State.noteHead (s : State) (c : Nat) (a : Agent) : State :=
  let x := s.live c
  let lane := a = .mx && !x.lane.isEmpty
  match (if lane then x.lane.head? else (x.queue a).head?) with
  | none => s
  | some k => match s.headNow c a k with
    | none => s
    | some w => if k.awaited = some w then s else s.setLive c (x.setHead a lane { k with awaited := some w })

/-- A queue-head wait that ends: a wait-log record where it lasted; none where it has not waited at its head (R155). A head that has waited
first for one thing and then for another writes one record, of what it was last seen to wait for, with the clk since it became the head
(DESIGN CHOICE, log 67). -/
def State.logHead (s : State) (c : Nat) (a : Agent) (k : Cmd) : State :=
  match k.awaited with
  | some w => s.logWait c (agentNum a) ⟨w.1, w.2, k.since⟩
  | none => s

/-- A command started: its pops made, its start acting; a fault at the start stops it if it stands at the head. A command so stopped
has started: a matrix command keeps its holds, and a VLD or VST keeps the matrix engine from the groups it touches (R138, R183,
R224). -/
def State.begin (s : State) (c : Nat) (a : Agent) (lane head : Bool) (k : Cmd) : Option State :=
  let s := if head then s.logHead c a k else s
  let x := s.live c
  let x := if k.popped then x else x.popTokens (popFifos a (tokOf k.instr).pop)
  let k := { k with popped := true, awaited := none }
  let s := s.setLive c x
  let put (s : State) (k : Cmd) : State :=
    s.setLive c (if lane then (s.live c).setHead a true k else (s.live c).setCmd a k)
  let stop (s : State) (k : Cmd) (p : Pend) : Option State :=
    if head then some (s.stopHead c a lane k p) else none
  let met := if a = .mx then none else s.metHold c k
  match met with
  | some adr => stop s { k with phase := .started } { cause := cBANK, sub := groupMask (k.groups.filter (s.heldBank c)), addr := adr }
  | none =>
    let (s', k', e) := match a with
      | .mx => s.mxStart c k
      | .vx => (s, k, none)
      | _ => s.copyStart c k
    match e with
    | some p => stop s' { k' with phase := .started } p
    | none => some (put s' { k' with phase := .started })

/-- Whether a matrix command has all of its effect at its start, or is one that admits rows. -/
def Cmd.beside (k : Cmd) : Bool :=
  isRowCmd k.instr || (match k.instr with | .pdir .. => true | .mxnest .. => true | .mxstat .. => true | _ => false)

/-- The started commands of a queue that must have made their effects before the next one starts (R205, R329): all of a copy or
vector queue; of the matrix queue those up to the last whose effect on slots, tiles or the scratchpad is still to come, which a
PSTORE or MXACR.ST can still meet a fault in. Rows in flight behind it need only be admitted. -/
def needed (a : Agent) (before : List Cmd) : List Cmd :=
  if a = .mx then (before.reverse.dropWhile fun b => b.beside || b.phase == .applied).reverse else before

/-- The next command of a queue, its units awake, started (R41, R42). Every start of an LD or ST command sets whose turn is next, also one
made while the other head was not ready (R13, R44; DESIGN CHOICE, log 85). -/
def State.startNext (s : State) (c : Nat) (a : Agent) (before : List Cmd) (k : Cmd) : Option State :=
  if a = .mx ∧ (¬ s.mxClear c k ∨ ¬ before.all Cmd.allAdmitted) then none
  else match s.applyBefore c a true (needed a before) with
    | .error e => e
    | .ok s =>
      match s.begin c a false before.isEmpty k with
      | none => none
      | some s =>
        let s := if k.isMark then (match (s.live c).st.head? with | some m => s.logHead c .st m | none => s) else s
        let x := s.live c
        let x := if a = .ld then { x with stNext := true } else if a = .st then { x with stNext := false } else x
        let x := if k.isMark then { x with st := match x.st with | m :: r => { m with phase := .started, popped := true } :: r | [] => [] } else x
        let s := s.setLive c x
        some (if a = .mx then s.settleMx c else s)

/-- Whether the next command of a queue can start now. -/
def State.startable (s : State) (c : Nat) (a : Agent) : Bool :=
  s.ready c a && match nextUp [] ((s.live c).queue a) with
    | none => false
    | some (before, k, _) => (s.gatesMet c a k).isEmpty && (s.startNext c a before k).isSome

/-- ENGINE_COMMAND_START (R41, R42): the next command of a queue, or of the repair lane, starts once its pops and resources are
there and no earlier command can fault (R329); a gated unit wakes first (R302). LD and ST heads that can both start alternate
(R13, R44). -/
def startEv (c : Nat) (a : Agent) (s : State) : Option State :=
  let x := s.live c
  let k0 := s.core c
  let awake (k : Cmd) (go : Option State) : Option State := match s.gatesMet c a k with
    | g :: gs => some (s.wakeAll (g :: gs))
    | [] => go
  if !k0.active || k0.stopReq || a = .cc then none
  else if a = .mx ∧ x.lane ≠ [] then
    match x.lane.head? with
    | none => none
    | some k =>
      if k.phase ≠ .queued ∨ k.stop.isSome ∨ k.husk then none
      else if !(k.popped || x.hasTokens (popFifos .mx (tokOf k.instr).pop)) || !x.resource k then none
      else awake k (if s.mxClear c k then s.begin c .mx true true k else none)
  else if !s.ready c a then none
  else if (a = .ld && x.stNext && s.startable c .st) || (a = .st && !x.stNext && s.startable c .ld) then none
  else match nextUp [] (x.queue a) with
    | none => none
    | some (before, k, _) => awake k (s.startNext c a before k)
/-- The meaning of ENGINE_COMMAND_START. -/
def execEngineCommandStart (core : Nat) (ag : Agent) (s : State) : Host.Outcome State Fault Refusal := event (startEv core ag) s

/-! ## Retirement (R42, R77, R170, R49, R59) -/

/-- The next head of a queue waits from now on. -/
def freshHead (cycle : Nat) : List Cmd → List Cmd
  | [] => []
  | k :: r => { k with since := cycle } :: r

/-- What a retirement adds to the context besides pushes: FPSTICKY, a FIFO word, SKIPCNT or DOMCNT, chimney entries removed,
words made executable, but for those that a later LDO already holds pending (R77, R100, R167, R198, R223, R250, R267, R293). -/
def Ctx.retireNote (x : Ctx) (k : Cmd) : Ctx :=
  let x := x.orSticky k.fl
  let add (sn : Nat) : Ctx := x.setSr sn (BitVec.ofNat 64 (min ((x.sr sn).toNat + k.idx.headD 0) (2 ^ 32 - 1)))
  match k.instr with
  | .vtog .. => { x with vxFifo := x.vxFifo ++ [BitVec.ofNat 64 (k.idx.headD 0)] }
  | .mxstat .. => { x with mxFifo := x.mxFifo ++ [BitVec.ofNat 64 (k.idx.headD 0)] }
  | .vupd .. => add snSKIPCNT
  | .vmeanE .. => add snDOMCNT
  | .vmeanM .. => add snDOMCNT
  | .vmeanX .. => add snDOMCNT
  | .vmsh .. => add snDOMCNT
  | .vmtld .. => add snDOMCNT
  | .chpop _ _ _ _ _ n => { x with chimney := x.chimney.drop n.toNat, chDone := x.chDone + BitVec.ofNat 32 n.toNat, chimBy := 2 }
  | .chpush .. => { x with chimBy := 3 }
  | .ldo _ _ _ _ _ n =>
    let later := (x.ld.filter fun q => q.seq != k.seq && q.phase != .queued && !q.husk).flatMap fun q => match q.instr with
      | .ldo _ _ _ _ _ m => ldoWords q m.toNat
      | _ => []
    x.markWords ((ldoWords k n.toNat).filter fun i => !later.contains i) .exec
  | _ => x

/-- Once the repair lane is empty, the stopped head that an MXRES has resumed goes on, and one that a QDROP has dropped is a husk, behind
which suspended commands go on (R126, R212, R213, R329). -/
def State.laneLeft (s : State) (c : Nat) : State :=
  let x := s.live c
  if !x.lane.isEmpty then s
  else match x.mx with
    | [] => s
    | k :: r =>
      if k.dropping then (s.setLive c { x with mx := k.toHusk s.cycle :: r.map fun q => { q with suspended := false } }).releaseHusks c [k]
      else s.setLive c { x with mx := resumeNow x.mx }

/-- A flag increment and the pushes of a command, its counts released, and the command gone from its queue (a QMARK from
both) (R42, R49, R59, R169, R170). -/
def State.leave (s : State) (c : Nat) (a : Agent) (lane : Bool) (k : Cmd) : State :=
  let x := s.live c
  let x := if lane then { x with lane := freshHead s.cycle x.lane.tail }
    else if k.isMark then { x with ld := freshHead s.cycle x.ld.tail, st := freshHead s.cycle x.st.tail }
    else x.setQueue a (freshHead s.cycle (x.queue a).tail)
  let x := (x.pushTokens (pushFifos a (tokOf k.instr).push)).unpin (agentNum a) k.pins
  let x := if a ≠ .mx ∧ (k.groups ≠ [] ∨ k.tiles ≠ []) then { x with touchBy := agentNum a } else x
  let s := (s.setLive c x).countObjs x.id k.objs false
  let s := if lane then s.laneLeft c else s
  match flagOf k.instr with
  | some n => s.addFlag (k.flagCore c) x.id n 1 (c * 8 + agentNum a)
  | none => s

/-- Suspended commands that go on once the stopped command has retired (R329). -/
def Ctx.release (x : Ctx) : Ctx := { x with mx := x.mx.map fun k => { k with suspended := false } }

/-- A command whose effects are made retires, or stays at retirement while a FIFO it pushes is full (R42). -/
def State.finish (s : State) (c : Nat) (a : Agent) (lane : Bool) (k : Cmd) : State :=
  let x := s.live c
  if x.hasRoom (pushFifos a (tokOf k.instr).push) then
    let s := (s.setLive c (x.retireNote k)).leave c a lane k
    if a = .mx then (if lane then s else s.setLive c (s.live c).release).settleMx c else s
  else s.setLive c (x.setHead a lane { k with phase := .applied })

/-- COMMAND_RETIRE (R42): the head of a queue, or of the repair lane, makes its effects and retires; a fault stops it. -/
def retireEv (c : Nat) (a : Agent) (s : State) : Option State :=
  let x := s.live c
  let lane := a = .mx && !x.lane.isEmpty
  let head := if lane then x.lane.head? else (x.queue a).head?
  match head with
  | none => none
  | some k =>
    if !(s.core c).active || k.husk || k.stop.isSome || k.suspended || k.phase = .queued then none
    else if (a = .st && k.isMark) || (a = .cc) then none
    else if k.phase = .applied then
      if x.hasRoom (pushFifos a (tokOf k.instr).push) then some (s.finish c a lane k) else none
    else if !s.canApply c a k || (lane && x.laneHeld k) then
      if (s.gatesMet c a k).any fun u => !(s.core u.1).waking.contains u.2 then some (s.wakeAll (s.gatesMet c a k)) else none
    else if isRowCmd k.instr then some (s.finish c a lane k)
    else match s.effects c a k with
      | .stop s' p => some (s'.stopHead c a lane k p)
      | .ok s' fl note => some (s'.finish c a lane { k with fl := fl, idx := if note.isEmpty then k.idx else note, phase := .applied })
/-- The meaning of COMMAND_RETIRE. -/
def execCommandRetire (core : Nat) (ag : Agent) (s : State) : Host.Outcome State Fault Refusal := event (retireEv core ag) s

/-! ## Held pushes (R42) -/

/-- The control core's held instruction retires, once the stores of its path can be performed and its FIFOs have room: its pushes are
made and it goes on, or takes the trap of a TRAP or BRK (R42, R231). -/
def State.releaseCC (s : State) (c : Nat) : Option State :=
  let x := s.live c
  match x.held with
  | none => none
  | some (pc, push) =>
    if x.hasRoom (pushFifos .cc push) && !s.pathBlocked c then
      let s := ((s.setLive c { x with heldTrap := none }).drain c).retireCC c push pc
      some (match x.heldTrap with | some p => s.trap c p pc | none => s)
    else none

/-- A finished operation of the chimney controller retires if its pushes can be made, in the control core's peer order: a
VXFER counts in VCNT in that clk (R89, R296). -/
def State.retireOp (s : State) (c : Nat) (o : ChimOp) : Option State :=
  let push := pushFifos .cc (tokOf o.instr).push
  let vx := match o.instr with | .vxfer .. => true | _ => false
  let room := match s.seatCtx c o.ctx o.lesson with | some x => x.hasRoom push | none => true
  if o.done && room then
    let s := s.setCore c { s.core c with ops := (s.core c).ops.erase o }
    some (s.modSeat c o.ctx o.lesson fun x =>
      let x := x.pushTokens push
      if vx then x.setSr snVCNT (x.sr snVCNT + 1) else x)
  else none

/-- The first finished operation that can retire. -/
def State.releaseOp (s : State) (c : Nat) : Option State := (s.core c).ops.findSome? (s.retireOp c)

/-- Every finished operation that can retire. -/
def State.settleOps (s : State) (c : Nat) : State := (s.core c).ops.foldl (fun s o => (s.retireOp c o).getD s) s

/-- A husk leaves its queue: its pushes and its flag increment are made, and words that its LDO left pending become non-executable
(R126; log 40). -/
def State.huskLeave (s : State) (c : Nat) (a : Agent) (lane : Bool) (k : Cmd) : State :=
  let x := s.live c
  let x := match k.instr with
    | .ldo _ _ _ _ _ n => x.markWords ((ldoWords k n.toNat).filter fun i => (x.word i).st = WordState.pending) .nonexec
    | _ => x
  let s := (s.setLive c x).leave c a lane k
  if a = .mx then s.settleMx c else s

/-- HELD_PUSH_RELEASE (R42): what is held at a full FIFO retires once each FIFO has room, a husk too; under the control core's FIFOs
also an operation that the chimney controller holds (R89). -/
def heldEv (c : Nat) (a : Agent) (s : State) : Option State :=
  let x := s.live c
  if !(s.core c).active then none
  else if a = .cc then (match s.releaseCC c with | some t => some t | none => s.releaseOp c)
  else
    let lane := a = .mx && !x.lane.isEmpty
    match (if lane then x.lane.head? else (x.queue a).head?) with
    | none => none
    | some k =>
      if k.phase = .applied ∧ k.stop.isNone ∧ ¬ k.suspended ∧ ¬ (a = .st ∧ k.isMark)
          ∧ x.hasRoom (pushFifos a (tokOf k.instr).push) then
        some (if k.husk then s.huskLeave c a lane k else s.finish c a lane k)
      else none
/-- The meaning of HELD_PUSH_RELEASE. -/
def execHeldPushRelease (core : Nat) (ag : Agent) (s : State) : Host.Outcome State Fault Refusal := event (heldEv core ag) s

/-- What a core's engines hold at retirement released, in the clk in which room is made for it (R42). -/
def State.settleEngines (s : State) (c : Nat) : State := [Agent.ld, .st, .vx, .mx].foldl (fun s a => (heldEv c a s).getD s) s
/-- The pass of a breakpoint on a command goes once the command no longer stands at its head with its pops to make (R152). -/
def Ctx.trimPass (x : Ctx) : Ctx :=
  if x.passed = [] then x
  else { x with passed := x.passed.filter fun b => match b with
    | .pc _ => true
    | .queue a n => match (x.queue a).head? with | some k => k.seq == n && !k.popped | none => false }
/-- What a core's agents hold at retirement released, in the clk in which room is made for it (R42, R89): first the control core's
instruction, then the engines in peer order, then the operations of its chimney controller; where they push one FIFO that has room for
one token, the first of them gets it (DESIGN CHOICE, log 88). Tokens still owed then go back, and what queue heads wait for is noted. -/
def State.settle (s : State) (c : Nat) : State :=
  let s := ((heldEv c .cc s).getD s).settleEngines c
  if (s.core c).active then
    let s := s.settleOps c
    let x := s.live c
    let s := if x.owed = [] ∧ x.passed = [] then s else s.setLive c x.refill.trimPass
    [Agent.ld, .st, .vx, .mx].foldl (fun s a => s.noteHead c a) s
  else s

/-! ## Context switch (R130, R143) -/

/-- The switch of CTXSW n on a core: the live context, which goes on at pc with its pushes made or held, is saved in the
other store and store n becomes live (R143), with a record of KIND 0x05 (R154); the registrar then directs what streams
(R146). R154 gives no meaning of the record's CTX and VALUE beyond its general ones: here CTX is the incoming context's ID and VALUE the
number n of the store (DESIGN CHOICE, log 67). -/
def State.switch (s : State) (c n : Nat) (out : Ctx) : State :=
  let k := s.core c
  let inn := { (if n = 0 then k.sh0.ctx else k.sh1.ctx) with stNext := false }
  let k' := if n = 0 then { k with live := inn, sh0 := {}, sh1 := ⟨.resident, out⟩ }
            else { k with live := inn, sh1 := {}, sh0 := ⟨.resident, out⟩ }
  let s := (s.setCore c k').swapBanks c inn
  (s.trace (hlOf c) { time := s.time, kind := 0x05, core := c, ctx := inn.id, value := n }).arrange c

/-- CTXSW (R130, R143); its wait, if it had one, is over (R155), and what its pops gave room for in the context that it leaves retires in
that clk (R42). -/
def ctxswBody (tk : Tok) (a : BitVec 5) (s : State) : Act :=
  let x := s.ctx
  let c := s.cur
  let k := s.core c
  let v := (x.rg a).toNat
  let st (n : Nat) : ShadowState := if n = 0 then k.sh0.st else k.sh1.st
  if !x.sup then privFault s
  else if 2 ≤ v ∨ st v ≠ .resident ∨ st (1 - v) = .resident ∨ st (1 - v) = .streamIn then fault cACCESS v
  else if st (1 - v) = .streamOut then .wait .shadow v
  else
    let s := if tk.push != 0 then (s.logCC c).drain c else s.logCC c
    let s := if tk.pop != 0 then s.settleEngines c else s
    let x := { s.live c with wait := none, ccPop := 0, latch := none, waitEntry := none, invs := [] }
    .final (s.switch c v (if x.hasRoom (pushFifos .cc tk.push) then { x.pushTokens (pushFifos .cc tk.push) with pc := x.pc + 1 }
      else { x with held := some (x.pc + 1, tk.push) }))
def execCtxsw (tk : Tok) (a : BitVec 5) (s : State) : Host.Outcome State Fault Refusal :=
  ccInstr tk (ctxswBody tk a) s

/-! ## Husks (R126) -/

/-- HUSK_RETIRE (R126): a husk at its queue head makes its pops and pushes and its flag increment, and nothing else, once the rows
that a QDROP found in flight have committed (R211; log 21). On a core that stops or is stopped it does not start (R151), nor before
a breakpoint on it that it has not popped past (R152). -/
def huskEv (c : Nat) (a : Agent) (s : State) : Option State :=
  let x := s.live c
  let lane := a = .mx && !x.lane.isEmpty
  match (if lane then x.lane.head? else (x.queue a).head?) with
  | none => none
  | some k =>
    let tk := tokOf k.instr
    if !(s.core c).active || (s.core c).stopReq || !k.husk || (!k.popped && !lane && (s.core c).bpOn a k.seq)
        || decide (k.committed < k.admitted) then none
    else if !(k.popped || x.hasTokens (popFifos a tk.pop)) then none
    else
      let s := if k.popped then s else s.logHead c a k
      let x := s.live c
      let x := if k.popped then x else x.popTokens (popFifos a tk.pop)
      if x.hasRoom (pushFifos a tk.push) then some ((s.setLive c x).huskLeave c a lane k)
      else some (s.setLive c (x.setHead a lane { k with popped := true, phase := .applied }))
/-- The meaning of HUSK_RETIRE. -/
def execHuskRetire (core : Nat) (ag : Agent) (s : State) : Host.Outcome State Fault Refusal := event (huskEv core ag) s

/-! ## Rows (R205, R211, R329) -/

/-- Commands suspended behind an MXPAR: their admitted rows are discarded (R329). -/
def suspend : List Cmd → List Cmd
  | [] => []
  | k :: r => (if k.phase = .queued ∨ k.husk then k
      else if isRowCmd k.instr then { k with suspended := true, slots := [], admitted := 0, committed := 0 }
      else { k with suspended := true }) :: suspend r

/-- Whether a row command has a row to commit, or one that it is still to admit. -/
def Cmd.rowLeft (k : Cmd) : Bool :=
  decide (k.committed < k.admitted) || (!k.husk && k.stop.isNone && decide (k.admitted < k.rows.length))

/-- MX_ROW_COMMIT (R205): the oldest admitted row of the head commits, also where a later row has stopped it by SELMISS or a QDROP has
made it a husk (R211; log 21); a bad cell makes the slot BAD and stops the command by MXPAR at that row, with every later row
discarded (R211). Where MX is gated, a head with rows left wakes it instead (R302). -/
def rowEv (c : Nat) (s : State) : Option State :=
  let s := s.settleMx c
  let x := s.live c
  match x.mx.head? with
  | none => none
  | some k =>
    if !(s.core c).active || !isRowCmd k.instr || k.suspended || k.phase ≠ .started || !k.rowLeft then none
    else if s.gated c 5 then (if (s.core c).waking.contains 5 then none else some (s.wake c 5))
    else if k.admitted ≤ k.committed then none
    else
      let r := k.rows.getD k.committed ⟨0, 0, 0, 0, true, [], []⟩
      let slot := k.slots.getD k.committed 8
      let next (x : Ctx) (fl : Flags) : State :=
        (s.setLive c (x.setHead .mx false { k with committed := k.committed + 1, fl := k.fl ||| fl })).settleMx c
      if slot = 8 then some (next x 0)
      else match x.commitRow k slot r with
        | some (x', fl) => some (next x' fl)
        | none =>
          let k' := { k with admitted := k.committed, slots := k.slots.take k.committed }
          let p := x.mxpar slot r.i
          let s := s.spoilSlot c slot
          let x := s.live c
          if k.husk then some (s.setLive c { x with mx := k' :: x.mx.tail })
          else some ((s.setLive c { x with mx := k' :: suspend x.mx.tail }).stopHead c .mx false k' p)
/-- The meaning of MX_ROW_COMMIT. -/
def execMxRowCommit (core : Nat) (s : State) : Host.Outcome State Fault Refusal := event (rowEv core) s

end Sys2Proof.Machine
end

