-- ==== Sys2Proof/Machine/Sync.lean ====
section
/-! DEFINITION. Synchronisation words that the control core executes: fences, flags, tickets, atomics, SCOPE and RPOP (R226
to R241). Every write of the model is visible to all once it is performed, so a release only empties the store path. -/

namespace Sys2Proof.Machine

/-- A body that follows a release or reads memory: the path is emptied first, or the instruction waits for it (R118, R228). -/
def released (body : State → Act) (s : State) : Act :=
  if s.pathBlocked s.cur then .wait .fence 0 else body (s.drain s.cur)

/-! ## Fences (R234) -/

/-- FENCE (R234): REL waits until the store path is empty. -/
def fenceBody (sc : BitVec 5) (kind : BitVec 2) (s : State) : Act :=
  let x := s.ctx
  if kind.getLsbD 1 ∧ x.path ≠ [] then .wait .fence 0
  else .done (s.setCtx { x with
    relScope := if kind.getLsbD 1 then some sc else x.relScope
    acqScope := if kind.getLsbD 0 then some sc else x.acqScope }) (x.pc + 1)
def execFence (tk : Tok) (sc : BitVec 5) (kind : BitVec 2) (s : State) : Host.Outcome State Fault Refusal :=
  ccInstr tk (fenceBody sc kind) s

/-! ## Flags (R235, R236) -/

/-- SETF and ADDF: the core's check, then the update of its flag (R235), which waits while the context's state is not there
(R149), also where it has none (DESIGN CHOICE, log 50); ACCESS or ECC where the scope table cannot be read (R46, R64). An instruction that waits has
passed its check and keeps the entry that it read (R240). -/
def flagBody (sc a b : BitVec 5) (rem : BitVec 1) (flag : BitVec 6) (f : W32 → W32 → W32) (s : State) : Act :=
  let x := s.ctx
  let core := if rem = 1 then (x.rg a).toNat else s.cur
  if 2 ^ 11 ≤ core ∨ ¬ coreId core then fault cACCESS core
  else match if x.waitEntry.isSome then none else (s.scopeEcc s.cur x sc.toNat core).or (if x.sup then none else s.mayUseEcc s.cur x core) with
  | some b => fault b.cause b.addr b.sub
  | none =>
  if x.waitEntry.isNone && (!s.inScope s.cur x sc.toNat core || !(x.sup || s.mayUse s.cur x core)) then fault cACCESS core
  else if core ≠ s.cur ∧ (s.core core).whereCtx x.id = none then
    .waitIn (s.setCtx { x with waitEntry := x.waitEntry.or (some (s.entryAt s.cur x sc.toNat).toOption) }) .heldGroup core
  else .done (s.modFlag core x.id flag.toNat (fun o => f o ((x.rg b).setWidth 32)) (s.cur * 8)) (x.pc + 1)
/-- SETF (R235). -/
def execSetf (tk : Tok) (sc a b : BitVec 5) (rem : BitVec 1) (flag : BitVec 6) (s : State) : Host.Outcome State Fault Refusal :=
  ccInstr tk (released (flagBody sc a b rem flag fun _ v => v)) s
/-- ADDF (R235). -/
def execAddf (tk : Tok) (sc a b : BitVec 5) (rem : BitVec 1) (flag : BitVec 6) (s : State) : Host.Outcome State Fault Refusal :=
  ccInstr tk (released (flagBody sc a b rem flag fun o v => o + v)) s

/-- Whether a flag has reached a value, wrap-aware (R236). -/
def flagReached (f v : W32) : Bool := !(f - v).getLsbD 31
/-- A wait under a scope: its entry is read once, when it begins, and the waiting instruction keeps what it read, whatever it waits for
in between (R240); an entry that cannot be read is ACCESS or ECC (R46, R64). -/
def State.scopedWait (s : State) (sc : BitVec 5) (k : WaitKind) (obj : Nat) : Act :=
  let x := s.ctx
  match x.waitEntry with
  | some (some _) => .waitIn s k obj
  | _ => match s.entryAt s.cur x sc.toNat with
    | .error b => fault b.cause b.addr b.sub
    | .ok m => .waitIn (s.setCtx { x with waitEntry := some (some m) }) k obj
/-- The address of a flag in the window of its core, as records name it (R51, R140, R155; log 35). -/
def flagAddr (c n : Nat) : Nat := 0xF000000000000000 + c * 0x800000 + 0x261000 + 4 * n
/-- WAITF (R236). -/
def waitfBody (sc b : BitVec 5) (flag : BitVec 6) (s : State) : Act :=
  let x := s.ctx
  if flagReached (x.flag flag.toNat) ((x.rg b).setWidth 32) then .done s (x.pc + 1)
  else s.scopedWait sc .flag (flagAddr s.cur flag.toNat)
def execWaitf (tk : Tok) (sc b : BitVec 5) (flag : BitVec 6) (s : State) : Host.Outcome State Fault Refusal :=
  ccInstr tk (waitfBody sc b flag) s

/-! ## Targets of tickets and atomics (R239) -/

/-- The checks of R239 on n bytes at a, both rights or the read right alone, and ECC last. -/
def State.target (s : State) (a n : Nat) (write : Bool) (align : Nat) : Acc :=
  let r := match s.reach s.cur a n false true align with
    | .place s p own wr => if write then s.reach s.cur a n true true align else .place s p own wr
    | e => e
  match r with
  | .place t p own wr => if s.eccMet p n false then .trap cECC a p.eccSub else .place (t.meet ((List.range n).map p.add)) p own wr
  | e => e

/-- A word of a ticket: NEXT at +0, SERVING at +8; the ticket is aligned to 16 (R237), and its address is the one that a
trap names, unless a word of it is bad (R140, R239). -/
def State.ticket (s : State) (a off : Nat) (write : Bool) : Acc :=
  if a % 16 ≠ 0 then s.target a 8 write 16
  else match s.target (a + off) 8 write 8 with
    | .trap cause adr sub => .trap cause (if cause = cECC then adr else a) sub
    | r => r

/-- The outcome of a checked access: its trap or wait, or the rest. -/
def Acc.act (r : Acc) (f : State → Place → Act) : Act :=
  match r with
  | .trap cause addr sub => fault cause addr sub
  | .wait k o => .wait k o
  | .place s p _ _ => f s p

/-! ## Tickets (R237) -/

/-- TKT.TAKE (R237). -/
def tktTakeBody (a d : BitVec 5) (s : State) : Act :=
  (s.ticket (s.ctx.rg a).toNat 0 true).act fun s p =>
    let v := leNat (s.bytes p 8)
    let s := s.store p (natLe 8 (v + 1))
    .done (s.setCtx (s.ctx.setG d (BitVec.ofNat 64 v))) (s.ctx.pc + 1)
def execTktTake (tk : Tok) (_sc a d : BitVec 5) (s : State) : Host.Outcome State Fault Refusal :=
  ccInstr tk (released (tktTakeBody a d)) s
/-- TKT.WAIT (R237). -/
def tktWaitBody (sc a b : BitVec 5) (s : State) : Act :=
  let adr := (s.ctx.rg a).toNat
  (s.ticket adr 8 false).act fun s p =>
    if BitVec.ofNat 64 (leNat (s.bytes p 8)) = s.ctx.rg b then .done s (s.ctx.pc + 1) else s.scopedWait sc .ticket adr
def execTktWait (tk : Tok) (sc a b : BitVec 5) (s : State) : Host.Outcome State Fault Refusal :=
  ccInstr tk (released (tktWaitBody sc a b)) s
/-- TKT.DONE (R237). -/
def tktDoneBody (a : BitVec 5) (s : State) : Act :=
  let adr := (s.ctx.rg a).toNat
  (s.ticket adr 8 true).act fun s p =>
    let v := leNat (s.bytes p 8)
    let s := s.store p (natLe 8 (v + 1))
    .done { s with ticketBy := s.ticketBy.put (ticketKey s.cur adr) (s.cur * 8 + 1) } (s.ctx.pc + 1)
def execTktDone (tk : Tok) (_sc a : BitVec 5) (s : State) : Host.Outcome State Fault Refusal :=
  ccInstr tk (released (tktDoneBody a)) s

/-! ## Atomics (R238) -/

/-- Bytes of a type of an atomic: I32 0, I64 1, F32 2, N32 3, N64 4. -/
def tyBytes (ty : Nat) : Nat := if ty = 1 ∨ ty = 4 then 8 else 4
/-- The old value as a register takes it: sign-extended for I32, zero-extended for N32 and F32. -/
def tyOld (ty v : Nat) : W64 := if ty = 0 then BitVec.ofInt 64 (sextNat v 32) else BitVec.ofNat 64 v
/-- AADD. -/
def atomAdd (ty old v : Nat) : Nat := if ty = 2 then (fadd F32 old v 0).1 else (old + v) % 2 ^ (8 * tyBytes ty)
/-- AMIN and AMAX. -/
def atomMin (ty old v : Nat) : Nat :=
  match ty with
  | 2 => (roundTo F32 ((decodeF F32 old).fmin (decodeF F32 v)) 0).1
  | 3 => min old v
  | 4 => min old v
  | _ => let w := 8 * tyBytes ty; if sextNat v w < sextNat old w then v else old
def atomMax (ty old v : Nat) : Nat :=
  match ty with
  | 2 => (roundTo F32 ((decodeF F32 old).fmax (decodeF F32 v)) 0).1
  | 3 => max old v
  | 4 => max old v
  | _ => let w := 8 * tyBytes ty; if sextNat old w < sextNat v w then v else old

/-- One indivisible read and write: f answers the new value, none where no write is performed (R238). -/
def atomBody (a b d : BitVec 5) (ty : BitVec 3) (f : (old v : Nat) → Option Nat) (s : State) : Act :=
  let n := tyBytes ty.toNat
  let v := (s.ctx.rg b).toNat % 2 ^ (8 * n)
  (s.target (s.ctx.rg a).toNat n true n).act fun s p =>
    let old := leNat (s.bytes p n)
    let s := match f old v with | some new => s.store p (natLe n new) | none => s
    .done (s.setCtx (s.ctx.setG d (tyOld ty.toNat old))) (s.ctx.pc + 1)
/-- AADD (R238). -/
def execAadd (tk : Tok) (_sc a b d : BitVec 5) (ty : BitVec 3) (_ord : BitVec 2) (s : State) :
    Host.Outcome State Fault Refusal := ccInstr tk (released (atomBody a b d ty fun o v => some (atomAdd ty.toNat o v))) s
/-- AMIN (R238). -/
def execAmin (tk : Tok) (_sc a b d : BitVec 5) (ty : BitVec 3) (_ord : BitVec 2) (s : State) :
    Host.Outcome State Fault Refusal := ccInstr tk (released (atomBody a b d ty fun o v => some (atomMin ty.toNat o v))) s
/-- AMAX (R238). -/
def execAmax (tk : Tok) (_sc a b d : BitVec 5) (ty : BitVec 3) (_ord : BitVec 2) (s : State) :
    Host.Outcome State Fault Refusal := ccInstr tk (released (atomBody a b d ty fun o v => some (atomMax ty.toNat o v))) s
/-- ACAS (R238): no write where the old value differs. -/
def execAcas (tk : Tok) (_sc a b d c : BitVec 5) (ty : BitVec 3) (_ord : BitVec 2) (s : State) :
    Host.Outcome State Fault Refusal :=
  ccInstr tk (released (fun s => atomBody a b d ty (fun o v =>
    if o = v then some ((s.ctx.rg c).toNat % 2 ^ (8 * tyBytes ty.toNat)) else none) s)) s
/-- ASWP (R238). -/
def execAswp (tk : Tok) (_sc a b d : BitVec 5) (ty : BitVec 3) (_ord : BitVec 2) (s : State) :
    Host.Outcome State Fault Refusal := ccInstr tk (released (atomBody a b d ty fun _ v => some v)) s

/-! ## Scope entries (R240) -/

/-- SCOPE (R240): the bitmap is read, every core of it checked against entry 31, and the entry written. -/
def scopeBody (sc a : BitVec 5) (s : State) : Act :=
  let adr := (s.ctx.rg a).toNat
  if adr % 64 ≠ 0 then (s.access s.cur adr 8 false false 64).act fun _ _ => fault cALIGN adr
  else match s.readRun s.cur adr 32 with
    | .error e => e
    | .ok (s, bs) =>
      let x := s.ctx
      match (List.range 2048).find? fun b => (bs.getD (b / 8) 0).getLsbD (b % 8) && !(coreId b && s.inEntry31 x.id b) with
      | some b => fault cACCESS b
      | none =>
        let base := x.scopeAddr sc.toNat 0
        match s.scopePlace s.cur x base with
        | .error b => fault b.cause b.addr b.sub
        | .ok none => fault cPAGE base
        | .ok (some p) => .done (s.store p bs) (x.pc + 1)
def execScope (tk : Tok) (sc a : BitVec 5) (s : State) : Host.Outcome State Fault Refusal :=
  ccInstr tk (released (scopeBody sc a)) s

/-! ## Result FIFOs (R241) -/

/-- RPOP (R241): the oldest entry of the VX (0) or MX FIFO. -/
def rpopBody (d : BitVec 5) (which : BitVec 2) (s : State) : Act :=
  let x := s.ctx
  match (if which = 0 then x.vxFifo else x.mxFifo) with
  | [] => .wait .resultFifo which.toNat
  | v :: r =>
    let x := if which = 0 then { x with vxFifo := r } else { x with mxFifo := r }
    .done (s.setCtx (x.setG d v)) (x.pc + 1)
def execRpop (tk : Tok) (d : BitVec 5) (which : BitVec 2) (s : State) : Host.Outcome State Fault Refusal :=
  ccInstr tk (rpopBody d which) s

end Sys2Proof.Machine
end

