-- ==== Sys2Proof/Machine/Coll.lean ====
section
/-! DEFINITION. Collectives and repartition (R269 to R288): communicators, the COLL record, its walker and chunks, receive
counters, CWAIT and REPART. -/

namespace Sys2Proof.Machine

/-! ## Communicators (R270, R271) -/

/-- A context's communicator. -/
def State.comm (s : State) (ctx c : Nat) : Option Comm := ((s.context ctx).comms.find? (·.1 = c)).map (·.2)
/-- The state with a defined communicator rewritten. -/
def State.modComm (s : State) (ctx c : Nat) (f : Comm → Comm) : State :=
  match s.comm ctx c with
  | none => s
  | some m => s.setContext ctx { s.context ctx with comms := (s.context ctx).comms.put c (f m) }

/-- Bytes of a CHUNK code (R270). -/
def chunkBytes : Nat → Nat
  | 0 => 4096
  | 1 => 1024
  | 2 => 2048
  | 3 => 8192
  | 4 => 16384
  | 5 => 32768
  | _ => 65536

/-- The node of a member entry, 0xFFF for this package however it is named (R270). -/
def nodeOf (n : Nat) : Nat := if n = 0xFFF then 0xFFF else if n = Config.node then 0xFFF else n

/-- The rank of a core of this package. -/
def Comm.rank (m : Comm) (core : Nat) : Option Nat := m.members.findIdx? fun e => e == (0xFFF, core)
/-- Slot memory that a communicator reserves on a headland (R271). -/
def Comm.slotBytes (m : Comm) (h : Nat) : Nat :=
  if m.members.any fun e => e.1 == 0xFFF && hlOf e.2 == h then m.rslot * chunkBytes m.chunk else 0
/-- Whether a member is in another package. -/
def Comm.remote (m : Comm) : Bool := m.members.any fun e => e.1 != 0xFFF

/-- A communicator from its descriptor words and member entries (R270). -/
def commOf (w : List Nat) (ents : List Nat) : Comm :=
  { rslot := bits (w.getD 0 0) 27 20
    chunk := bits (w.getD 0 0) 18 16
    pri := bits (w.getD 0 0) 13 12
    members := ents.map fun e => (nodeOf (bits e 27 16), bits e 10 0) }

/-- Whether every field of a descriptor is in range and its reserved fields are zero (R270, code 1). -/
def commFieldsOk (w : List Nat) (ents : List Nat) : Bool :=
  let w0 := w.getD 0 0
  decide (bits w0 63 28 = 0 ∧ bits w0 19 19 = 0 ∧ bits w0 15 14 = 0 ∧ bits w0 11 11 = 0)
    && (w.drop 2).all (· == 0)
    && decide (1 ≤ bits w0 10 0 ∧ bits w0 10 0 ≤ 1536 ∧ w.getD 1 0 % 8 = 0)
    && decide (1 ≤ bits w0 27 20 ∧ bits w0 27 20 ≤ 32 ∧ bits w0 18 16 ≠ 7)
    && ents.all fun e => decide (bits e 31 28 = 0 ∧ bits e 15 11 = 0) && coreId (bits e 10 0)

/-- The Zurix links over which a communicator leaves for its remote members (R312). -/
def Comm.links (m : Comm) : List Nat :=
  (((m.members.map (·.1)).filter (· != 0xFFF)).map fun n => (Config.routeLink n).val).dedup
/-- Whether a communicator has a free virtual channel on each link of the routes to its remote members (R271 code 6, R312). -/
def State.channelsOk (s : State) (ctx c : Nat) (m : Comm) : Bool :=
  m.links.all fun l =>
    decide ((s.contexts.map fun e => (e.2.comms.filter fun d =>
      (e.1 != ctx || d.1 != c) && d.2.links.contains l).length).sum < Config.linkChannels l)

/-- Whether records on a communicator are unretired (R271 code 4). -/
def State.commBusy (s : State) (ctx c : Nat) : Bool := s.recs.any fun r => r.ctx == ctx && r.comm == c

/-- The result code of a COMM, the lowest that applies (R271). -/
def State.commCode (s : State) (x : Ctx) (sc c : Nat) (w ents : List Nat) : Nat :=
  let m := commOf w ents
  let freed (h : Nat) : Nat := match s.comm x.id c with | some o => o.slotBytes h | none => 0
  if !commFieldsOk w ents then 1
  else if !(m.members.all fun e => e.1 != 0xFFF || (s.inScope s.cur x sc e.2 && s.inEntry31 x.id e.2)) || m.members.dedup.length ≠ m.members.length then 2
  else if (List.range 8).any fun h => decide (0 < m.slotBytes h ∧ 2 ^ 21 < (s.head h).slotUsed - freed h + m.slotBytes h) then 3
  else if s.commBusy x.id c then 4
  else if !s.channelsOk x.id c m then 6
  else 0

/-- Slot memory given back for one definition and taken for another (R271). -/
def State.reslot (s : State) (old new : Nat → Nat) : State :=
  (List.range 8).foldl (fun s h =>
    if old h = new h then s else s.setHead h { s.head h with slotUsed := (s.head h).slotUsed - old h + new h }) s

/-- Slot memory of an optional definition. -/
def slotsOf (m : Option Comm) (h : Nat) : Nat := match m with | some m => m.slotBytes h | none => 0

/-- A communicator defined, replacing any earlier definition (R271, R276, R280). -/
def State.defineComm (s : State) (ctx c : Nat) (m : Comm) : State :=
  let s := s.reslot (slotsOf (s.comm ctx c)) m.slotBytes
  s.setContext ctx { s.context ctx with comms := (s.context ctx).comms.put c m }

/-- The little-endian words of a run of bytes. -/
def wordsOf (n : Nat) (bs : List Byte) : List Nat := (List.range n).map fun i => leNat ((bs.drop (8 * i)).take 8)

/-- COMM (R271): `remote` is the code that the round trip to the remote members returned, none before it. -/
def commBody (sc a d : BitVec 5) (c : BitVec 4) (remote : Option Nat) (s : State) : Act :=
  let adr := (s.ctx.rg a).toNat
  if adr % 64 ≠ 0 then fault cALIGN adr
  else match s.readRun s.cur adr 8 with
    | .error e => e
    | .ok (s, bs) =>
      let w := wordsOf 8 bs
      let n := bits (w.getD 0 0) 10 0
      let readable := 1 ≤ n ∧ n ≤ 1536 ∧ w.getD 1 0 % 8 = 0
      match (if readable then s.readRun s.cur (w.getD 1 0) ((n + 1) / 2) else .ok (s, [])) with
      | .error e => e
      | .ok (s, ms) =>
        let ents := (List.range n).map fun i => leNat ((ms.drop (4 * i)).take 4)
        let code := s.commCode s.ctx sc.toNat c.toNat w ents
        let m := commOf w ents
        match remote with
        | none =>
          if code = 0 ∧ m.remote then .wait .collective c.toNat
          else
            let s := if code = 0 then s.defineComm s.ctx.id c.toNat m else s
            .done (s.setCtx (s.ctx.setG d (BitVec.ofNat 64 code))) (s.ctx.pc + 1)
        | some r =>
          let code := if code = 0 then r else code
          let s := if code = 0 then s.defineComm s.ctx.id c.toNat m else s
          .done (s.setCtx (s.ctx.setG d (BitVec.ofNat 64 code))) (s.ctx.pc + 1)
/-- COMM (R271): a communicator with remote members waits for COMM_COMPLETE. -/
def execComm (tk : Tok) (sc a d : BitVec 5) (c : BitVec 4) (s : State) : Host.Outcome State Fault Refusal :=
  ccInstr tk (released (commBody sc a d c none)) s

/-- The result code of a COMM.DEL (R271). -/
def State.delCode (s : State) (ctx c : Nat) : Nat :=
  if s.comm ctx c = none then 5 else if s.commBusy ctx c then 4 else 0
/-- A communicator deleted, its slot memory given back (R271). -/
def State.deleteComm (s : State) (ctx c : Nat) : State :=
  let s := s.reslot (slotsOf (s.comm ctx c)) fun _ => 0
  s.setContext ctx { s.context ctx with comms := (s.context ctx).comms.erase c }
/-- COMM.DEL (R271): `remote` as in COMM; one with remote members waits for the round trip to them. -/
def commDelBody (d : BitVec 5) (c : BitVec 4) (remote : Option Nat) (s : State) : Act :=
  let x := s.ctx
  let code := s.delCode x.id c.toNat
  if code = 0 ∧ remote = none ∧ ((s.comm x.id c.toNat).any Comm.remote) then .wait .collective c.toNat
  else
    let code := if code = 0 then remote.getD 0 else code
    let s := if code = 0 then s.deleteComm x.id c.toNat else s
    .done (s.setCtx (s.ctx.setG d (BitVec.ofNat 64 code))) (x.pc + 1)
def execCommDel (tk : Tok) (d : BitVec 5) (c : BitVec 4) (s : State) : Host.Outcome State Fault Refusal :=
  ccInstr tk (commDelBody d c none) s

/-! ## The COLL record (R273, R278) -/

/-- A 64-bit word of a record. -/
def recW (raw : BitVec 1024) (i : Nat) : Nat := (raw.extractLsb' (64 * i) 64).toNat
/-- A record from its bytes. -/
def recOf (bs : List Byte) : BitVec 1024 := BitVec.ofNat 1024 (leNat bs)

/-- Fields of a COLL record (R273). -/
def collNL (raw : BitVec 1024) : Nat := bits (recW raw 0) 13 12
def collOP (raw : BitVec 1024) : Nat := bits (recW raw 0) 6 4
def collTY (raw : BitVec 1024) : Nat := bits (recW raw 0) 8 7
def collRM (raw : BitVec 1024) : Nat := bits (recW raw 0) 11 9
def collLen (raw : BitVec 1024) : Nat := bits (recW raw 1) 31 0
def collCount (raw : BitVec 1024) (l : Nat) : Nat := bits (recW raw (4 + 2 * l)) 31 0
def collK (raw : BitVec 1024) (l : Nat) : Int := sextNat (bits (recW raw (4 + 2 * l)) 63 32) 32
def collSstr (raw : BitVec 1024) (l : Nat) : Int := sextNat (bits (recW raw (5 + 2 * l)) 31 0) 32
def collDstr (raw : BitVec 1024) (l : Nat) : Int := sextNat (bits (recW raw (5 + 2 * l)) 63 32) 32
/-- The levels a record uses. -/
def collLevels (raw : BitVec 1024) : List Nat := List.range (collNL raw + 1)
/-- Lowest and highest value that an affine offset adds to its base. -/
def collExtremes (raw : BitVec 1024) (str : Nat → Int) : Int × Int :=
  (collLevels raw).foldl (fun e l =>
    let v := ((collCount raw l : Int) - 1) * str l
    (e.1 + min 0 v, e.2 + max 0 v)) (0, 0)

/-- Whether a base and its strides meet R278: bit 63 clear, R46 for a virtual address, and every element address a multiple
of 4; and the scratchpad for an offset. -/
def collBaseOk (raw : BitVec 1024) (base : Nat) (virt : Bool) (str : Nat → Int) : Bool :=
  let e := collExtremes raw str
  decide (base < 2 ^ 63) && (!virt || decide (base < 2 ^ 48)) && decide (base % 4 = 0)
    && (collLevels raw).all (fun l => collCount raw l == 1 || decide (str l % 4 = 0))
    && (virt || decide (0 ≤ base + e.1 ∧ base + e.2 + collLen raw ≤ 0x200000))

/-- The addresses that an affine nest gives from a base on, each once. -/
def collOffsets (raw : BitVec 1024) (base : Int) (str : Nat → Int) : List Int :=
  (collLevels raw).foldl (fun l lv =>
    if str lv = 0 ∨ collCount raw lv = 1 then l
    else (l.flatMap fun o => (List.range (collCount raw lv)).map fun i => o + (i : Int) * str lv).dedup) [base]
/-- Whether n bytes at a scratchpad offset lie in the groups of a lease (R330). -/
def inLease (lease : Nat) (off : Int) (n : Nat) : Bool :=
  (List.range 4).all fun g => !(decide (off / 0x80000 ≤ g ∧ g ≤ (off + n - 1) / 0x80000)) || lease.testBit g

/-- The checks of R278 on a COLL record of core c. -/
def State.collOk (s : State) (c : Nat) (x : Ctx) (raw : BitVec 1024) : Bool :=
  let w0 := recW raw 0
  let op := collOP raw
  let skind := bits w0 18 18 = 1
  let dkind := bits w0 19 19 = 1
  let len := collLen raw
  decide (bits w0 63 27 = 0 ∧ op ≤ 4 ∧ collTY raw ≠ 3 ∧ collRM raw ≤ 3)
    && decide (len % 4 = 0 ∧ 4 ≤ len ∧ len ≤ 65536 ∧ (op = 4 → len % 12 = 0))
    && (List.range 4).all (fun l => if l ≤ collNL raw then decide (1 ≤ collCount raw l) else decide (collCount raw l = 0))
    && (List.range 4).all (fun k =>
          let a := recW raw (12 + k)
          decide (bits a 63 39 = 0 ∧ (bits a 38 38 = 1 → 1 ≤ bits a 31 0)))
    && (match s.comm x.id (bits w0 3 0) with | some m => (m.rank c).isSome | none => false)
    && collBaseOk raw (recW raw 2) skind (collSstr raw) && collBaseOk raw (recW raw 3) dkind (collDstr raw)
    && (op == 0 || !dkind)
    && (skind || x.sup || (collOffsets raw (recW raw 2) (collSstr raw)).all fun o => inLease ((s.core c).leaseOf x.id) o len)

/-- Records handed by a core and not retired (R269). -/
def State.handed (s : State) (c : Nat) : Nat := (s.recs.filter fun r => r.core = c).length

/-- A record handed over to the engine. -/
def State.hand (s : State) (r : Rec) : State :=
  { s with recs := s.recs ++ [{ r with rid := s.nextRid }], nextRid := s.nextRid + 1 }

/-- COLL (R269, R273, R278). -/
def collBody (tk : Tok) (a : BitVec 5) (s : State) : Act :=
  let adr := (s.ctx.rg a).toNat
  if 8 ≤ s.handed s.cur then .wait .queueRoom 5
  else if adr % 128 ≠ 0 then fault cALIGN adr
  else match s.readRun s.cur adr 16 with
    | .error e => e
    | .ok (s, bs) =>
      let raw := recOf bs
      let x := s.ctx
      if !s.collOk s.cur x raw then fault cACCESS adr
      else .done (s.hand { rid := 0, core := s.cur, ctx := x.id, lesson := x.lesson, instr := .coll tk a, comm := bits (recW raw 0) 3 0,
                           raw := raw, mshape := x.sr snMSHAPE, sup := x.sup }) (x.pc + 1)
def execColl (tk : Tok) (a : BitVec 5) (s : State) : Host.Outcome State Fault Refusal :=
  ccInstr { tk with push := 0 } (released (collBody tk a)) s

/-! ## CWAIT (R280) -/

/-- The result of a CWAIT, with DONE, OUT and the error since the last one. -/
def State.cwaitResult (s : State) (c ctx k : Nat) : W64 :=
  match s.comm ctx k with
  | none => BitVec.ofNat 64 (2 ^ 63 + 5 * 2 ^ 56)
  | some m =>
    let err := m.err.get 0 c
    let out := (s.recs.filter fun r => r.core = c ∧ r.ctx = ctx ∧ r.comm = k).length
    BitVec.ofNat 64 ((if err = 0 then 0 else 2 ^ 63 + err % 128 * 2 ^ 56) + out % 65536 * 2 ^ 40 + m.done.get 0 c % 2 ^ 32)

/-- CWAIT (R280). -/
def cwaitBody (d : BitVec 5) (p : BitVec 1) (k : BitVec 4) (s : State) : Act :=
  let x := s.ctx
  if p = 0 ∧ (s.comm x.id k.toNat).isSome ∧ (s.recs.any fun r => r.core == s.cur && r.ctx == x.id && r.comm == k.toNat) then
    .wait .collective k.toNat
  else
    let v := s.cwaitResult s.cur x.id k.toNat
    let s := s.modComm x.id k.toNat fun m => { m with err := m.err.erase s.cur }
    .done (s.setCtx (s.ctx.setG d v)) (x.pc + 1)
def execCwait (tk : Tok) (d : BitVec 5) (p : BitVec 1) (c : BitVec 4) (s : State) : Host.Outcome State Fault Refusal :=
  ccInstr tk (cwaitBody d p c) s

/-! ## Pages and places of the engines (R57, R149, R279, R302) -/

/-- What an engine meets at a virtual address: a page that is not valid, one whose rights forbid the access, a table word that is
uncorrectable, or its place. -/
inductive EngPage where
  | absent
  | forbidden
  | ecc (p : Place)
  | at (p : Place)

/-- What keeps an engine from a run of bytes: the first address whose page is not valid, rights, or a table word (R64, R278,
R279). -/
inductive EngBad where
  | absent (va : Int)
  | forbidden
  | ecc (p : Place)
deriving DecidableEq, Repr

/-- The translation of an engine through the tables of a context (R279): with user rights, or, for the registrar and the
sequencers, without. -/
def State.engPage (s : State) (ctx : Nat) (root : W64) (va : Int) (write : Bool) (user : Bool := true) : EngPage :=
  if va < 0 ∨ 2 ^ 48 ≤ va then .forbidden
  else match s.walk ctx root va.toNat with
    | .fault => .absent
    | .ecc p => .ecc p
    | .page e =>
      if s.pageMissing e.tgt (e.pa + (va.toNat - e.va)) then .absent
      else if (user && !e.usr) || (write && !e.w) || (!write && !e.r) then .forbidden
      else .at (physPlace e.tgt (e.pa + (va.toNat - e.va)))

/-- PTBASE of a record's seat. -/
def State.recRoot (s : State) (r : Rec) : W64 :=
  match s.seatCtx r.core r.ctx r.lesson with | some x => x.root | none => (s.context r.ctx).ptbase

/-- The run of n bytes at a virtual address: the places, or what the first byte that cannot be reached meets. -/
def State.engRun (s : State) (ctx : Nat) (root : W64) (va : Int) (n : Nat) (write : Bool) (user : Bool := true) : Except EngBad (List Place) :=
  (List.range n).foldr (fun i r => match s.engPage ctx root (va + i) write user, r with
    | .absent, _ => .error (.absent (va + i))
    | .forbidden, _ => .error .forbidden
    | .ecc p, _ => .error (.ecc p)
    | .at p, .ok l => .ok (p :: l)
    | _, .error e => .error e) (.ok [])

/-- Whether bytes of a core's window must wait for an access from outside the core (R57, R149). -/
def State.engBlocked (s : State) (l : List Place) : Bool := l.any (s.blocked 2048)
/-- The gated units of places, which the access wakes (R302). -/
def State.engGated (s : State) (l : List Place) : List (Nat × Nat) :=
  (l.filterMap fun p => match p with
    | .win c _ off => if s.gated c (unitOf off) then some (c, unitOf off) else none
    | _ => none).dedup
/-- Those units woken; none where every one wakes already. -/
def State.engWake (s : State) (l : List (Nat × Nat)) : Option State :=
  let w := l.filter fun u => !(s.core u.1).waking.contains u.2
  if w.isEmpty then none else some (w.foldl (fun s u => s.wake u.1 u.2) s)

/-- COLLPAGE raised to seat 0 of the class of a record (R140, R279), naming the page of an address. -/
def State.raiseCollpage (s : State) (r : Rec) (hl : Nat) (va : Nat) : State :=
  match (s.lesson r.ctx r.lesson).bind fun l => l.seats.find? fun se => se.idx = 0 with
  | none => s
  | some se => s.pendSeat se.core r.ctx r.lesson
      { cause := cCOLLPAGE, agent := 5, sub := r.comm, addr := va / 4096 * 4096, detail := (s.head hl).park.length }

/-- A record with an error noted: the first prevails. -/
def Rec.fail (r : Rec) (cause : Nat) : Rec := if r.err = 0 then { r with err := cause } else r
/-- The state with a record rewritten. -/
def State.modRec (s : State) (rid : Nat) (f : Rec → Rec) : State := { s with recs := s.recs.map fun r => if r.rid = rid then f r else r }

/-- An uncorrectable word met by a record: CAUSE 0x0B, a black-box record, and an ECC trap left pending on the core that handed it
over (R157, R278). -/
def State.recEcc (s : State) (r : Rec) (p : Place) : State :=
  ((s.modRec r.rid fun r => r.fail cECC).eccBox r.core 5 r.ctx p.faultAddr).pendSeat r.core r.ctx r.lesson
    { cause := cECC, agent := 5, opc := opcOf r.instr, sub := p.eccSub, addr := p.faultAddr }

/-! ## Receive counters (R276) -/

/-- A counter that has reached its EXP while armed: it loses EXP, disarms and increments its flag (R276). -/
def State.raiseCounter (s : State) (ctx c core k src : Nat) : State :=
  match s.comm ctx c with
  | none => s
  | some m =>
    let t := m.counters.get {} (core * 4 + k)
    match t.armed with
    | none => s
    | some (exp, flag) =>
      if exp ≤ t.count then
        (s.modComm ctx c fun m => { m with counters := m.counters.put (core * 4 + k) { count := t.count - exp, armed := none } }).addFlag
          core ctx flag 1 (src * 8 + 5)
      else s

/-- Words counted into a counter (R276). -/
def State.countWords (s : State) (ctx c core k n src : Nat) : State :=
  (s.modComm ctx c fun m =>
    let t := m.counters.get {} (core * 4 + k)
    { m with counters := m.counters.put (core * 4 + k) { t with count := t.count + n } }).raiseCounter ctx c core k src

/-- The arm entries of a record performed at its start (R274, R276). -/
def State.arm (s : State) (r : Rec) : State :=
  (List.range 4).foldl (fun s k =>
    let a := recW r.raw (12 + k)
    if bits a 38 38 = 1 then
      (s.modComm r.ctx r.comm fun m =>
        let t := m.counters.get {} (r.core * 4 + k)
        { m with counters := m.counters.put (r.core * 4 + k) { t with armed := some (bits a 31 0, bits a 37 32) } }).raiseCounter
          r.ctx r.comm r.core k r.core
    else s) s

/-! ## The walker (R272, R274) -/

/-- Whether a record is a REPART. -/
def Rec.isRepart (r : Rec) : Bool := match r.instr with | .repart .. => true | _ => false

/-- Counts of a record's levels, outermost first, and the number of its iterations. -/
def Rec.counts (r : Rec) : List Nat := (collLevels r.raw).map (collCount r.raw)
def Rec.total (r : Rec) : Nat := r.counts.foldl (· * ·) 1
/-- The indices of an iteration, level 0 outermost. -/
def iterIdx (counts : List Nat) (n : Nat) : List Nat :=
  (counts.reverse.foldl (fun (e : Nat × List Nat) c => (e.1 / c, e.1 % c :: e.2)) (n, [])).2
/-- An affine sum over the levels. -/
def affine (f : Nat → Int) (idx : List Nat) : Int := (idx.zipIdx.map fun e => f e.2 * (e.1 : Int)).sum

/-- The peer of an iteration (R274). -/
def Rec.peerOf (r : Rec) (rank n : Nat) : Nat :=
  let idx := iterIdx r.counts r.iter
  ((affine (collK r.raw) idx + sextNat (bits (recW r.raw 1) 63 32) 32 + (if bits (recW r.raw 0) 14 14 = 1 then (rank : Int) else 0)) % (n : Int)).toNat
/-- Source and destination of an iteration (R274). -/
def Rec.srcOf (r : Rec) : Int := recW r.raw 2 + affine (collSstr r.raw) (iterIdx r.counts r.iter)
def Rec.dstOf (r : Rec) : Int := recW r.raw 3 + affine (collDstr r.raw) (iterIdx r.counts r.iter)

/-- A record past its current transfer. -/
def Rec.nextIter (r : Rec) : Rec := { r with iter := r.iter + 1, sent := 0, gathered := [] }

/-- Chunks that have left for another package and are not yet applied there: on their way, or held by a link that retrains
(R272, R277, R313). -/
def State.departed (s : State) : List Chunk := (s.fabricOut ++ s.links.flatMap fun l => l.2.held).map (·.2)

/-- Slots of a communicator that chunks for a headland occupy (R272): until the chunk is applied or parked, in another package as
in this one. -/
def State.slotsInUse (s : State) (ctx c node hl : Nat) : Nat :=
  ((s.chunks ++ s.departed).filter fun k => k.ctx = ctx ∧ k.comm = c ∧ k.node = node ∧ hlOf k.dst = hl).length

/-- The bank groups that a context's lessons lease on a core: those of its slots, and of a seat there that is pre-empted, whose
state an access waits for (R149, R330). -/
def State.peerLease (s : State) (core ctx : Nat) : Nat :=
  ((s.ctxsOn core).filter (·.id == ctx)).foldl (fun m y => m ||| s.ctxLease core y) ((s.core core).leaseOf ctx)

/-- The next chunk of a record emitted, its transfer dropped (R278), its walker paused (R279) or finished; none while no slot
is free or the source must wait. A destination below address 0 is no address of R46 and is dropped as one (log 52). -/
def State.emit (s : State) (r : Rec) : Option State :=
  match s.comm r.ctx r.comm with
  | none => some (s.modRec r.rid fun r => { r with walked := true })
  | some m =>
    if r.total ≤ r.iter then some (s.modRec r.rid fun r => { r with walked := true })
    else
      let peer := m.members.getD (r.peerOf ((m.rank r.core).getD 0) m.members.length) (0xFFF, r.core)
      let w0 := recW r.raw 0
      let len := collLen r.raw
      let n := min (chunkBytes m.chunk) (len - r.sent)
      let dst := r.dstOf
      let dvirt := bits w0 19 19 = 1
      let drop (cause : Nat) : Option State := some (s.modRec r.rid fun r => (r.fail cause).nextIter)
      if m.rslot ≤ s.slotsInUse r.ctx r.comm peer.1 (hlOf peer.2) then none
      else if !dvirt && peer.1 == 0xFFF && !r.sup && !inLease (s.peerLease peer.2 r.ctx) dst len then drop cACCESS
      else if dst + r.sent < 0 then drop cACCESS
      else
        let src := r.srcOf + r.sent
        let places := if bits w0 18 18 = 1 then s.engRun r.ctx (s.recRoot r) src n false
          else .ok ((List.range n).map fun i => .win r.core r.ctx (src.toNat + i))
        match places with
        | .error (.absent va) => some ((s.modRec r.rid fun r => { r with paused := true }).raiseCollpage r (hlOf r.core) va.toNat)
        | .error .forbidden => drop cACCESS
        | .error (.ecc p) => some ((s.recEcc r p).modRec r.rid Rec.nextIter)
        | .ok ps =>
          if s.engBlocked ps then none
          else match s.engGated ps with
            | g :: gs => s.engWake (g :: gs)
            | [] =>
              let good := ps.takeWhile fun p => !s.badUnit p
              let bad := ps[good.length]?
              let bs := good.map s.byte
              let s := s.meet good
              let mean := collOP r.raw = 4
              let last := bad.isSome || decide (len ≤ r.sent + n)
              let data := if mean then (if last then r.gathered ++ bs else []) else bs
              let k : Chunk := { cid := s.nextCid, rid := r.rid, ctx := r.ctx, comm := r.comm, iter := r.iter, len := len,
                                 src := r.core, node := peer.1, dst := peer.2,
                                 addr := (dst + (if mean then 0 else r.sent)).toNat, virt := dvirt, bytes := data, op := collOP r.raw,
                                 ty := collTY r.raw, rm := collRM r.raw, cnt := decide (bits w0 15 15 = 1), tidx := bits w0 17 16,
                                 mshape := r.mshape }
              let s := if data.isEmpty && last then s else { s with chunks := s.chunks ++ [k], nextCid := s.nextCid + 1 }
              let s := match bad with | some p => s.recEcc r p | none => s
              some (s.modRec r.rid fun r =>
                let r := if last then r.nextIter else { r with sent := r.sent + n, gathered := if mean then r.gathered ++ bs else [] }
                { r with walked := decide (r.total ≤ r.iter) })

/-- Whether an earlier record of the same core and communicator keeps a record from walking: one that has not finished. -/
def State.walkerBusy (s : State) (r : Rec) : Bool :=
  s.recs.any fun q => q.core == r.core && q.ctx == r.ctx && q.comm == r.comm && decide (q.rid < r.rid) && !q.walked

/-- Whether the walker of a record's communicator in its headland's engine is paused (R279). -/
def State.walkerPaused (s : State) (r : Rec) : Bool :=
  s.recs.any fun q => q.paused && q.ctx == r.ctx && q.comm == r.comm && hlOf q.core == hlOf r.core

/-- PRI of a record's communicator, and the number under which an engine notes it as served. -/
def State.recPri (s : State) (r : Rec) : Nat := match s.comm r.ctx r.comm with | some m => m.pri | none => 0
def Rec.commKey (r : Rec) : Nat := 1 + r.ctx * 16 + r.comm

/-- The records that the engine of a headland may walk in the order in which it turns to them: the highest PRI first, and among
communicators of equal PRI round-robin from the one after that last served (R272). -/
def State.walkers (s : State) (h : Nat) : List Rec :=
  let l := s.recs.filter fun r =>
    hlOf r.core == h && r.started && !r.walked && !s.walkerPaused r && !r.isRepart && !s.walkerBusy r
  let l := List.insertionSort (fun p q => p.commKey ≤ q.commKey) l
  [3, 2, 1, 0].flatMap fun p =>
    let l := l.filter fun r => s.recPri r = p
    let last := (s.head h).served.get 0 p
    (l.filter fun r => last < r.commKey) ++ l.filter fun r => r.commKey ≤ last

/-- One emission of a record, its communicator noted as served by its engine if it sent a chunk (R272). -/
def State.emitServe (s : State) (r : Rec) : Option State :=
  (s.emit r).map fun t =>
    if t.nextCid = s.nextCid then t
    else t.setHead (hlOf r.core) { t.head (hlOf r.core) with served := (t.head (hlOf r.core)).served.put (s.recPri r) r.commKey }

/-- One emission: that of the first engine that can make one, of the first of its records that can. -/
def State.emitNext (s : State) : Option State := (List.range 8).findSome? fun h => (s.walkers h).findSome? s.emitServe

/-- Emissions until none can be made. -/
def State.pump : Nat → State → State
  | 0, s => s
  | n + 1, s => match s.emitNext with | none => s | some s' => State.pump n s'

/-- Whether a record may start (R277, R284). -/
def State.mayStart (s : State) (r : Rec) : Bool :=
  !r.started && s.recs.all fun q => !(q.core == r.core && q.ctx == r.ctx && q.comm == r.comm && decide (q.rid < r.rid))
    || (q.started && !q.isRepart)

/-- Bank groups of a scratchpad footprint. -/
def spanGroups (off size : Nat) : List Nat :=
  (List.range 4).filter fun g => decide (off / 0x80000 ≤ g ∧ g ≤ (off + size - 1) / 0x80000)

/-- The gated units of a core that the areas of a REPART touch (R302). -/
def State.repGates (s : State) (r : Rec) : List (Nat × Nat) :=
  ((r.saved.flatMap fun e => if e.2.isEmpty then [] else spanGroups e.1 e.2.length).dedup.filter (s.gated r.core)).map fun u => (r.core, u)

/-- COLL_RECORD_START (R274): a record starts, arms its counters and walks its nest as far as slots and pages allow; a
started record whose walk waited goes on. A REPART wakes the gated groups that it touches first (R302). -/
def recStartEv (rid : Nat) (s : State) : Option State :=
  match s.recs.find? (·.rid = rid) with
  | none => none
  | some r =>
    if s.mayStart r then
      if r.isRepart && !(s.repGates r).isEmpty then s.engWake (s.repGates r) else
      let s := s.modRec rid fun r => { r with started := true }
      some (if r.isRepart then s else (s.arm r).pump 4096)
    else if r.started && !r.walked && !r.isRepart then s.emitNext.map (State.pump 4096)
    else none
def execCollRecordStart (rid : Nat) (s : State) : Host.Outcome State Fault Refusal := event (recStartEv rid) s

/-! ## Arrivals (R275, R278, R279) -/

/-- What is left of a chunk's transfer dropped: its other chunks, and the rest that its record has not emitted. Dropped from an
uncorrectable word on, the earlier chunks, which may still be parked, keep their words (R278). -/
def State.dropRest (s : State) (k : Chunk) (word : Bool) : State :=
  let left (q : Chunk) : Bool := !(q.rid == k.rid && q.iter == k.iter && (!word || decide (k.cid ≤ q.cid)))
  { s with
    chunks := s.chunks.filter left
    fabricOut := s.fabricOut.filter fun e => left e.2
    links := s.links.map fun l => (l.1, { l.2 with held := l.2.held.filter fun e => left e.2 })
    heads := s.heads.map fun h => (h.1, { h.2 with park := h.2.park.filter left })
    recs := s.recs.map fun (r : Rec) => if r.rid = k.rid ∧ r.iter = k.iter ∧ !r.isRepart then
      (let r := r.nextIter; { r with walked := decide (r.total ≤ r.iter) }) else r }

/-- Format code of TY (R273). -/
def tyFmt : Nat → Nat
  | 0 => 0x0C
  | 1 => 0x0F
  | _ => 0x01

/-- The bytes of a chunk applied at their places (R275): the state, the bytes applied, and the place of an uncorrectable
word that ended them (R278). -/
def State.applyBytes (s : State) (k : Chunk) (ps : List Place) : State × Nat × Option Place :=
  if k.op = 0 then
    let ws := ps.zip k.bytes
    let good := ws.takeWhile fun w => !(s.badUnit w.1 && !coversUnit ws w.1)
    (s.writeSet good, good.length, (ws[good.length]?).map (·.1))
  else
    (List.range (k.bytes.length / 4)).foldl (fun (r : State × Nat × Option Place) i =>
      let q := (ps.drop (4 * i)).take 4
      if r.2.2.isSome then r
      else match q.find? r.1.badUnit with
        | some p => (r.1, r.2.1, some p)
        | none =>
          let d := leNat (q.map r.1.byte)
          let s := r.1.meet q
          let v := leNat ((k.bytes.drop (4 * i)).take 4)
          (s.writeSet (q.zip (natLe 4 (redUpdate (tyFmt k.ty) (k.op - 1) k.rm d v))), r.2.1 + 4, none)) (s, 0, none)

/-- The states of a MEAN transfer merged (R258, R259, R275), under the pair of the context that handed the record over
(log 22); a state counts if all its three words came. -/
def State.applyMean (s : State) (k : Chunk) (pr : Pair) : State × Nat × Option Place :=
  let n := k.len / 12
  (List.range n).foldl (fun (r : State × Nat × Option Place) i =>
    let at3 (t : Nat) : Nat := 4 * (t * n + i)
    if r.2.2.isSome ∨ k.bytes.length < at3 2 + 4 then r
    else
      let q (t : Nat) : List Place := (List.range 4).map fun b => .win k.dst k.ctx (k.addr + at3 t + b)
      match ([0, 1, 2].flatMap q).find? r.1.badUnit with
      | some p => (r.1, r.2.1, some p)
      | none =>
        let old (t : Nat) : Nat := leNat ((q t).map r.1.byte)
        let inc (t : Nat) : Nat := leNat ((k.bytes.drop (at3 t)).take 4)
        let m := meanMergeAt pr k.mshape ⟨old 0, old 1, old 2⟩ ⟨inc 0, inc 1, inc 2⟩
        ((r.1.meet ([0, 1, 2].flatMap q)).writeSet ((q 0).zip (natLe 4 m.n) ++ (q 1).zip (natLe 4 m.m) ++ (q 2).zip (natLe 4 m.s)), r.2.1 + 12, none))
    (s, 0, none)

/-- A chunk out of the network, its slot free. -/
def State.takeChunk (s : State) (cid : Nat) : State := { s with chunks := s.chunks.filter fun q => q.cid != cid }

/-- A chunk moved to the park store of its receiving engine (R279); none when the store is full. -/
def State.parkChunk (s : State) (k : Chunk) : Option State :=
  let h := s.head (hlOf k.dst)
  if 64 ≤ h.park.length then none
  else
    let s := s.takeChunk k.cid
    some (s.setHead (hlOf k.dst) { h with park := h.park ++ [k] })

/-- Whether two chunks are of one sender and communicator and one of them may write a location of the other: they go to one
receiver, or by virtual addresses that overlap to any of a package (R277). -/
def Chunk.sameWay (q k : Chunk) : Bool :=
  q.ctx == k.ctx && q.comm == k.comm && q.src == k.src && q.node == k.node
    && (q.dst == k.dst || (q.virt && k.virt && decide (q.addr < k.addr + k.bytes.length ∧ k.addr < q.addr + q.bytes.length)))
/-- Whether an earlier chunk of the same sender and communicator to an overlapping location is parked: order for one location is
kept (R277). -/
def State.parkedBefore (s : State) (k : Chunk) : Bool :=
  (s.heads.flatMap fun h => h.2.park).any fun q => q.sameWay k && decide (q.cid < k.cid)
    && decide (q.addr < k.addr + k.bytes.length ∧ k.addr < q.addr + q.bytes.length)

/-- A breakwater row that has arrived for a REPART, as far as a word that is uncorrectable and that it covers only in part: its bytes
stand in the record until the retirement, and free values in memory (R64, R288). -/
def State.stageRow (s : State) (k : Chunk) (r : Rec) (ps : List Place) : State × Nat × Option Place :=
  let ws := ps.zip k.bytes
  let good := ws.takeWhile fun w => !(s.badUnit w.1 && !coversUnit ws w.1)
  let fresh := (good.filter fun w => !r.veiled.any fun v => v.1 == w.1).zipIdx.map fun w => (w.1.1, Config.freeParticle s.freeCtr w.2)
  let t := fresh.foldl (fun s v => s.setByteAt v.1 v.2) { s with freeCtr := s.freeCtr + 1 }
  (t.modRec r.rid fun q => { q with bwNew := q.bwNew ++ good, veiled := q.veiled ++ fresh }, good.length, (ws[good.length]?).map (·.1))

/-- A chunk applied at its places: written, accumulated or merged, and counted (R275, R276); a row of a breakwater is staged (R288). -/
def State.applyChunk (s : State) (k : Chunk) (r : Option Rec) (ps : List Place) : State :=
  let pr : Pair := match r.bind fun r => s.seatCtx r.core r.ctx r.lesson with
    | some x => x.pair (shPair k.mshape)
    | none => Ctx.pair {} (shPair k.mshape)
  let (s', n, bad) := if k.op = 4 then (if k.bytes.isEmpty then (s, 0, none) else s.applyMean k pr)
    else match r.filter Rec.isRepart with
      | some r => s.stageRow k r ps
      | none => s.applyBytes k ps
  let s' := match bad, r with
    | some p, some r => (s'.dropRest k true).recEcc r p
    | _, _ => s'.takeChunk k.cid
  if k.cnt then s'.countWords k.ctx k.comm k.dst k.tidx (n / 4) k.src else s'

/-- A chunk for another package: it leaves over the link of its route, which holds it while it retrains (R312, R313). -/
def State.depart (s : State) (k : Chunk) : State :=
  let l := (Config.routeLink k.node).val
  let s := s.takeChunk k.cid
  let k' := s.links.get {} l
  if k'.retraining then { s with links := s.links.put l { k' with held := k'.held ++ [(k.node, k)] } }
  else { s with fabricOut := s.fabricOut ++ [(k.node, k)] }

/-- The place of the uncorrectable word that a chunk meets in another package (R278; log 54). -/
def Chunk.farPlace (k : Chunk) : Place :=
  if k.virt then (if Config.farHost k.cid then .host (Config.farWord k.cid) else .tier2 (Config.farWord k.cid))
  else .win k.dst k.ctx (k.addr + Config.farWord k.cid % k.len)

/-- The arrival in another package of a chunk that has left for it, its slot free; chunks for one location arrive in order (R272, R277).
Whether it is applied there, or its transfer dropped, is a free value (R278; log 54). -/
def State.landed (s : State) (cid : Nat) : Option State :=
  match s.fabricOut.find? (·.2.cid = cid) with
  | none => none
  | some (_, k) =>
    if s.departed.any fun q => decide (q.cid < cid) && q.sameWay k then none
    else
      let t := { s with fabricOut := s.fabricOut.filter fun e => e.2.cid != cid }
      match Config.farEnd cid, s.recs.find? (·.rid = k.rid) with
      | 0, _ => some t
      | 1, _ => some ((t.dropRest k false).modRec k.rid fun r => r.fail cACCESS)
      | _, some r => some ((t.dropRest k true).recEcc r k.farPlace)
      | _, none => some t

/-- CHUNK_ARRIVAL (R275): chunks of one sender and communicator to one receiver or location arrive in order (R277); a chunk for
another package leaves for it, and arrives there at a later CHUNK_ARRIVAL. -/
def chunkEv (cid : Nat) (s : State) : Option State :=
  match s.chunks.find? (·.cid = cid) with
  | none => s.landed cid
  | some k =>
    let r := s.recs.find? (·.rid = k.rid)
    if s.chunks.any fun q => decide (q.cid < cid) && q.sameWay k then none
    else if k.node ≠ 0xFFF then some (s.depart k)
    else if k.virt then
      if s.parkedBefore k then s.parkChunk k
      else
        let root := match r with | some r => s.recRoot r | none => (s.context k.ctx).ptbase
        match s.engRun k.ctx root k.addr k.bytes.length true with
        | .error (.absent va) => (s.parkChunk k).map fun s => match r with | some r => s.raiseCollpage r (hlOf k.dst) va.toNat | none => s
        | .error .forbidden => some ((s.dropRest k false).modRec k.rid fun r => r.fail cACCESS)
        | .error (.ecc p) => some (match r with | some r => (s.dropRest k true).recEcc r p | none => s.takeChunk k.cid)
        | .ok ps => some (s.applyChunk k r ps)
    else
      let n := if k.op = 4 then (if k.bytes.isEmpty then 0 else k.len) else k.bytes.length
      let ps : List Place := (List.range n).map fun i => .win k.dst k.ctx (k.addr + i)
      if s.engBlocked ps then none
      else match s.engGated ps with
        | g :: gs => s.engWake (g :: gs)
        | [] => some (s.applyChunk k r ps)
def execChunkArrival (cid : Nat) (s : State) : Host.Outcome State Fault Refusal := event (chunkEv cid) s

/-! ## Retirement of records (R89, R277, R287) -/

/-- LFLAG and LFE of a record. -/
def Rec.lflag (r : Rec) : Option Nat :=
  let w0 := recW r.raw 0
  if r.isRepart then (if bits w0 24 24 = 1 then some (bits w0 23 18) else none)
  else if bits w0 26 26 = 1 then some (bits w0 25 20) else none

/-- A record whose effects are made: its flag is incremented once, and it retires with its pushes, or is held while a FIFO
they name is full (R89, R277). -/
def State.retireRec (s : State) (r : Rec) : Option State :=
  let s' := if r.done then s else match r.lflag with
    | some n => s.addFlag r.core r.ctx n 1 (r.core * 8 + 5)
    | none => s
  let push := pushFifos .cc (tokOf r.instr).push
  let room := match s'.seatCtx r.core r.ctx r.lesson with | some x => x.hasRoom push | none => true
  if room then
    let s := s'.modSeat r.core r.ctx r.lesson fun x => x.pushTokens push
    let s := s.modComm r.ctx r.comm fun m =>
      { m with done := m.done.put r.core ((m.done.get 0 r.core + 1) % 2 ^ 32)
               err := if r.err = 0 then m.err else m.err.put r.core r.err }
    some { s with recs := s.recs.filter fun q => q.rid != r.rid }
  else if r.done then none
  else some (s'.modRec r.rid fun r => { r with done := true })

/-- Whether a chunk of a record is not yet applied: in the network, parked, or on its way to another package (R277). -/
def State.recBusy (s : State) (rid : Nat) : Bool :=
  (s.chunks ++ s.departed ++ s.heads.flatMap fun h => h.2.park).any (·.rid == rid)

/-- COLL_RECORD_RETIRE (R277): every transfer has been applied or dropped. -/
def recRetireEv (rid : Nat) (s : State) : Option State :=
  match s.recs.find? (·.rid = rid) with
  | none => none
  | some r =>
    if r.isRepart || !r.started || !r.walked || s.recBusy rid then none
    else s.retireRec r
def execCollRecordRetire (rid : Nat) (s : State) : Host.Outcome State Fault Refusal := event (recRetireEv rid) s

/-! ## REPART (R283 to R288) -/

/-- Fields of a REPART record (R283). -/
def repDim (raw : BitVec 1024) : Nat := if bits (recW raw 0) 5 5 = 1 then 3 else 2
def repK (raw : BitVec 1024) : Nat := bits (recW raw 0) 10 6
def repLog2B (raw : BitVec 1024) : Nat := bits (recW raw 0) 17 13
def repUnit (raw : BitVec 1024) : Bool := bits (recW raw 0) 12 12 = 1
def repRsz (raw : BitVec 1024) : Nat := bits (recW raw 1) 23 16
def repNP (raw : BitVec 1024) : Nat := bits (recW raw 2) 31 0
def repCap (raw : BitVec 1024) : Nat := bits (recW raw 3) 31 0
def repBwcap (raw : BitVec 1024) : Nat := bits (recW raw 3) 63 32
/-- Offset of coordinate field a, 0 x. -/
def repOff (raw : BitVec 1024) (a : Nat) : Nat := bits (recW raw 1) (31 + 8 * a) (24 + 8 * a)
def repLoff (raw : BitVec 1024) : Nat := bits (recW raw 1) 55 48
/-- Bytes of the status block for N members (R287). -/
def statusSize (n : Nat) : Nat := 0x40 + 8 * (n - 1)

/-- The extent of a particle or receive object in the own scratchpad, if it meets R283. -/
def repObject (c : Nat) (o : ObjEntry) (rsz : Nat) : Option (Nat × Nat) :=
  match onChip c o.home with
  | none => none
  | some (core, off) =>
    let n := o.dims.getD 0 0 * rsz
    if o.kind = 3 ∧ o.fmt = 0x12 ∧ o.rank = 2 ∧ core = c ∧ o.dims.getD 1 0 = rsz ∧ o.strides.getD 0 0 = rsz ∧ o.strides.getD 1 0 = 1
        ∧ off + n ≤ 0x200000 then some (off, n) else none

/-- The three areas of a REPART in the own scratchpad: POBJ, ROBJ and the status block, as offset and size. -/
def State.repAreas (s : State) (c : Nat) (x : Ctx) (raw : BitVec 1024) (n : Nat) : Option (List (Nat × Nat)) :=
  match repObject c (s.objEntry x.id (bits (recW raw 1) 15 0)) (repRsz raw), repObject c (s.objEntry x.id (bits (recW raw 2) 47 32)) (repRsz raw) with
  | some p, some r => some [p, r, (recW raw 5, statusSize n)]
  | _, _ => none

/-- The checks of a REPART record (R278, R283). -/
def State.repOk (s : State) (c : Nat) (x : Ctx) (raw : BitVec 1024) : Bool :=
  let w0 := recW raw 0
  let w1 := recW raw 1
  let rsz := repRsz raw
  let d := repDim raw
  let fieldOk (off : Nat) : Bool := decide (off % 4 = 0 ∧ off + 4 ≤ rsz)
  match s.comm x.id (bits w0 3 0) with
  | none => false
  | some m =>
    let po := s.objEntry x.id (bits w1 15 0)
    let ro := s.objEntry x.id (bits (recW raw 2) 47 32)
    decide (bits w0 63 25 = 0 ∧ bits w1 63 56 = 0 ∧ bits (recW raw 2) 63 48 = 0) && (List.range 7).all (fun i => recW raw (9 + i) == 0)
      && (m.rank c).isSome
      && decide (1 ≤ repK raw ∧ repK raw ≤ 21 ∧ repLog2B raw ≤ 16 ∧ repLog2B raw ≤ d * repK raw)
      && decide (rsz % 4 = 0 ∧ 8 ≤ rsz ∧ rsz ≤ 64)
      && (List.range d).all (fun a => fieldOk (repOff raw a)) && (repUnit raw || fieldOk (repLoff raw))
      && decide (recW raw 4 % 64 = 0 ∧ recW raw 4 < 2 ^ 48) && decide (recW raw 5 % 64 = 0)
      && po.rd && po.wr && ro.wr && decide (repNP raw ≤ po.dims.getD 0 0 ∧ repCap raw ≤ ro.dims.getD 0 0)
      && (match s.repAreas c x raw m.members.length with
          | none => false
          | some l =>
            l.all (fun a => decide (a.1 + a.2 ≤ 0x200000) && (x.sup || (List.range 4).all fun g =>
              !(decide (0 < a.2 ∧ a.1 / 0x80000 ≤ g ∧ g ≤ (a.1 + a.2 - 1) / 0x80000)) || ((s.core c).leaseOf x.id).testBit g))
            && decide (l.Pairwise fun a b => a.1 + a.2 ≤ b.1 ∨ b.1 + b.2 ≤ a.1 ∨ a.2 = 0 ∨ b.2 = 0))

/-- Scratchpad bytes of a core, and the core with some of them replaced. -/
def State.padBytes (s : State) (c off n : Nat) : List Byte := Mem.read (s.core c).scratch off n
def State.padWrite (s : State) (c off : Nat) (bs : List Byte) : State :=
  s.setCore c { s.core c with scratch := SMap.fill 0 (s.core c).scratch off bs.length fun i => bs.getD i 0 }

/-- The words of a run that are written whole good again; of those written in part a correctable error is met (R64). -/
def State.padHeal (s : State) (c off n : Nat) : State :=
  let k := s.core c
  let left (w : Nat) : Bool := !decide (off ≤ 8 * w ∧ 8 * w + 8 ≤ off + n)
  let s := s.setCore c { k with badWords := k.badWords.filter left, softWords := k.softWords.filter left }
  s.correctPad c ((s.core c).softWords.filter fun w => decide (8 * w < off + n ∧ off < 8 * w + 8))

/-- The bytes of the breakwater of a REPART record that its engine can write now, with their places (R286). -/
def State.breakwater (s : State) (x : Ctx) (raw : BitVec 1024) : List (Place × Byte) :=
  (List.range (repBwcap raw * repRsz raw)).filterMap fun i => match s.engPage x.id x.root (recW raw 4 + i : Nat) true with
    | .at p => some (p, s.byte p)
    | _ => none

/-- A REPART handed over: the record keeps what its three areas hold, of an uncorrectable word a free value (DESIGN CHOICE, log 75), and
its breakwater, and until it retires they read as free values (R288). -/
def State.handRepart (s : State) (c : Nat) (x : Ctx) (tk : Tok) (a : BitVec 5) (raw : BitVec 1024) (areas : List (Nat × Nat)) : State :=
  let saved := areas.map fun e => (e.1, (s.padBytes c e.1 e.2).zipIdx.map fun b =>
    if s.badUnit (.win c x.id (e.1 + b.2)) then Config.freeParticle s.freeCtr (2 ^ 48 + e.1 + b.2) else b.1)
  let free (i : Nat) : Byte := Config.freeParticle s.freeCtr i
  let bw := s.breakwater x raw
  let far := bw.zipIdx.map fun w => (w.1.1, free (2 ^ 64 + w.2))
  let near := areas.flatMap fun e => (List.range e.2).map fun i => (Place.win c x.id (e.1 + i), free (e.1 + i))
  let s := s.hand { rid := 0, core := c, ctx := x.id, lesson := x.lesson, instr := .repart tk a, comm := bits (recW raw 0) 3 0,
                    raw := raw, mshape := x.sr snMSHAPE, sup := x.sup, saved := saved, bwOld := bw, veiled := near ++ far }
  let s := areas.foldl (fun s e => s.padWrite c e.1 ((List.range e.2).map fun i => free (e.1 + i))) s
  { (far.foldl (fun s v => s.setByteAt v.1 v.2) s) with freeCtr := s.freeCtr + 1 }

/-- The record of a REPART into whose areas a program has written: what they are to hold, and the particles of its POBJ, are free values
(R288). -/
def Rec.unspecified (r : Rec) (n : Nat) : Rec :=
  let free (i : Nat) : List Byte → List Byte := fun l => (List.range l.length).map fun j => Config.freeParticle n (i + j)
  let each (i : Nat) (l : List (Place × Byte)) : List (Place × Byte) := l.zipIdx.map fun w => (w.1.1, Config.freeParticle n (i + w.2))
  { r with
    touched := true
    saved := r.saved.map fun e => (e.1, free e.1 e.2)
    out := r.out.map fun o => (o.1, free (2 ^ 32 + o.1) o.2.1, o.2.2)
    spill := r.spill.map fun w => (w.1, free (2 ^ 64 + w.1) w.2)
    bwOld := each (2 ^ 72) r.bwOld
    bwNew := each (2 ^ 80) r.bwNew }

/-- Whether a place of a REPART's areas stands in the scratchpad of its core, not in its context's save area, or in memory (R147). -/
def State.shows (s : State) (r : Rec) : Place → Bool
  | .win _ _ off => match s.seatCtx r.core r.ctx r.lesson with | some x => !s.bankKept r.core x (bankOf off) | none => true
  | _ => true

/-- Whether a program has written one of the areas of a REPART that has not retired: something other than the free value that the model
has put there stands in it (R288; log 56). -/
def State.trespassed (s : State) (r : Rec) : Bool :=
  r.isRepart && !r.done && !r.walked && r.veiled.any fun v => s.shows r v.1 && s.byte v.1 != v.2

/-- Free values anew in the areas of such a REPART, whose contents are unspecified from then on (R288). -/
def State.reveil (s : State) (r : Rec) : State :=
  let v := r.veiled.zipIdx.map fun w => if s.shows r w.1.1 then (w.1.1, Config.freeParticle s.freeCtr (2 ^ 88 + w.2)) else w.1
  let t := (v.filter fun w => s.shows r w.1).foldl (fun s w => s.setByteAt w.1 w.2) s
  { (t.modRec r.rid fun q => { q.unspecified s.freeCtr with veiled := v }) with freeCtr := s.freeCtr + 1 }
/-- What a step of the machine has written into the areas of unretired REPARTs, made unspecified (R288). -/
def State.veil (s : State) : State := s.recs.foldl (fun s r => if s.trespassed r then s.reveil r else s) s

/-- REPART (R269, R278, R283). -/
def repartBody (tk : Tok) (a : BitVec 5) (s : State) : Act :=
  let adr := (s.ctx.rg a).toNat
  if 8 ≤ s.handed s.cur then .wait .queueRoom 5
  else if adr % 128 ≠ 0 then fault cALIGN adr
  else match s.readRun s.cur adr 16 with
    | .error e => e
    | .ok (s, bs) =>
      let raw := recOf bs
      let x := s.ctx
      if !s.repOk s.cur x raw then fault cACCESS adr
      else
        let n := match s.comm x.id (bits (recW raw 0) 3 0) with | some m => m.members.length | none => 1
        .done (s.handRepart s.cur x tk a raw ((s.repAreas s.cur x raw n).getD [])) (x.pc + 1)
def execRepart (tk : Tok) (a : BitVec 5) (s : State) : Host.Outcome State Fault Refusal :=
  ccInstr { tk with push := 0 } (released (repartBody tk a)) s

/-- A particle in flight: key, load, source rank and index, and its bytes. -/
structure Particle where
  key : Nat
  load : Nat
  rank : Nat
  idx : Nat
  bytes : List Byte

/-- The load of a particle: its F32 load × 2^16, to nearest even, saturated at 2^40 − 1 (R285). -/
def loadOf (b : Nat) : Nat :=
  match decodeF F32 b with
  | .nan => 0
  | .inf n => if n then 0 else 2 ^ 40 - 1
  | v => (satN (roundInt 0 (v.toRat * 65536)) 40).toNat

/-- The particles of a member's REPART (R285). -/
def Rec.particles (r : Rec) (rank : Nat) : List Particle :=
  let raw := r.raw
  let rsz := repRsz raw
  let fmt := if bits (recW raw 0) 11 11 = 1 then 0x0F else 0x01
  let rows := (r.saved.headD (0, [])).2
  (List.range (repNP raw)).map fun i =>
    let bs := (rows.drop (i * rsz)).take rsz
    let word (off : Nat) : Nat := leNat ((bs.drop off).take 4)
    let q := (List.range (repDim raw)).map fun a =>
      let box := recW raw (6 + a)
      quant (decodeElem fmt (word (repOff raw a)) 0 0) (decodeF F32 (bits box 31 0)) (decodeF F32 (bits box 63 32)) (repK raw)
    { key := curveKey (repK raw) (bits (recW raw 0) 4 4 = 1) q
      load := if repUnit raw then 65536 else loadOf (word (repLoff raw))
      rank := rank
      idx := i
      bytes := bs }

/-- Whether the REPARTs of an operation agree (R284). -/
def repAgree (l : List Rec) : Bool :=
  let f (r : Rec) : List Nat := [bits (recW r.raw 0) 17 4, repRsz r.raw, recW r.raw 6, recW r.raw 7, recW r.raw 8]
  match l with
  | [] => true
  | r :: rs => rs.all fun q => f q == f r

/-- The first buckets s_0 to s_N of the ranks (R285): H is the histogram over members, L its saturated sum. -/
def splits (h : List Nat) (n : Nat) : List Nat × Nat :=
  let total := min h.sum (2 ^ 40 - 1)
  let cums := (h.foldl (fun (e : Nat × List Nat) v => (e.1 + v, e.2 ++ [e.1 + v])) (0, [])).2
  let t (j : Nat) : Nat := (cums.findIdx? fun cu => decide (j * total ≤ cu * n)).getD (h.length - 1)
  ((0 :: (List.range (n - 1)).map fun j => t (j + 1) + 1) ++ [h.length], total)

/-- The rank that owns a bucket. -/
def ownerOf (sp : List Nat) (n b : Nat) : Nat := (((List.range n).filter fun j => decide (sp.getD j 0 ≤ b)).getLast?).getD 0

/-- The order of R286: key, source rank, source index. -/
def Particle.le (p q : Particle) : Bool :=
  decide (p.key < q.key) || (p.key == q.key && (decide (p.rank < q.rank) || (p.rank == q.rank && decide (p.idx ≤ q.idx))))

/-- A status block (R287). -/
def statusBytes (nown ndue nrecv nspill nret total : Nat) (keys : List Nat) : List Byte :=
  natLe 4 nown ++ natLe 4 ndue ++ natLe 4 nrecv ++ natLe 4 nspill ++ natLe 4 nret ++ natLe 4 (ndue - nrecv - nspill)
    ++ natLe 8 0 ++ natLe 8 total ++ natLe 24 0 ++ keys.flatMap (natLe 8)

/-- Bytes with those at the start replaced. -/
def overwrite (old new : List Byte) : List Byte := new ++ old.drop new.length

/-- The area of a record kept at the hand-over: 0 POBJ, 1 ROBJ, 2 the status block. -/
def Rec.area (r : Rec) (i : Nat) : Nat × List Byte := r.saved.getD i (0, [])

/-- The operation computed for the records of all members, in rank order: what each writes at its retirement (R284 to R287).
Rows of POBJ beyond the retained ones are free values. -/
def repCompute (free : Nat) (l : List Rec) : List Rec :=
  let n := l.length
  if !repAgree l then
    l.map fun r =>
      { r.fail 0x07 with
        ready := true
        out := [((r.area 0).1, (r.area 0).2, 0), ((r.area 1).1, (r.area 1).2, 0),
                ((r.area 2).1, statusBytes (repNP r.raw) 0 0 0 (repNP r.raw) 0 (List.replicate (n - 1) 0), statusSize n)] }
  else
    let raw := (l.headD { rid := 0, core := 0, ctx := 0, lesson := 0, instr := .eret ⟨0, 0⟩, comm := 0, raw := 0, mshape := 0 }).raw
    let sh := repDim raw * repK raw - repLog2B raw
    let ps := l.zipIdx.map fun e => e.1.particles e.2
    let hist := (List.range (2 ^ repLog2B raw)).map fun b =>
      (ps.map fun m => min ((m.filter fun p => p.key / 2 ^ sh = b).map (·.load)).sum (2 ^ 40 - 1)).sum
    let (sp, total) := splits hist n
    let keys := (List.range (n - 1)).map fun j => sp.getD (j + 1) 0 * 2 ^ sh
    let due (j : Nat) : List Particle :=
      List.insertionSort (fun p q => Particle.le p q = true) (ps.flatten.filter fun p => ownerOf sp n (p.key / 2 ^ sh) = j)
    let kept := (l.zipIdx.flatMap fun e => (due e.2).drop (repCap e.1.raw + repBwcap e.1.raw))
    l.zipIdx.map fun e =>
      let r := e.1
      let d := due e.2
      let recv := d.take (repCap r.raw)
      let spill := (d.drop (repCap r.raw)).take (repBwcap r.raw)
      let ret := ((ps.getD e.2 []).filter fun p => kept.any fun q => q.rank == e.2 && q.idx == p.idx)
      let rsz := repRsz r.raw
      let rows := ret.flatMap (·.bytes)
      let rest := (List.range (repNP r.raw * rsz - rows.length)).map fun i => Config.freeParticle free (2 ^ 32 * e.2 + i)
      { r with
        ready := true
        out := [((r.area 0).1, overwrite (r.area 0).2 (rows ++ rest), repNP r.raw * rsz),
                ((r.area 1).1, overwrite (r.area 1).2 (recv.flatMap (·.bytes)), recv.length * rsz),
                ((r.area 2).1, statusBytes (repNP r.raw) d.length recv.length spill.length ret.length total keys, statusSize n)]
        spill := spill.zipIdx.map fun p => (recW r.raw 4 + p.2 * rsz, p.1.bytes) }

/-- The REPART of a member in another package: its record and its particles are free values (R284; log 55). No communicator has its
number, so that no record of this package is taken for it. -/
def State.farRepart (s : State) (r : Rec) (e : Nat × Nat) : Rec :=
  let raw := Config.farRecord s.freeCtr e.1 e.2
  { rid := s.nextRid, core := e.2, ctx := r.ctx, lesson := r.lesson, instr := r.instr, comm := 16, raw := raw, mshape := r.mshape, started := true
    saved := [(0, (List.range (repNP raw * repRsz raw)).map fun i => Config.freeParticle s.freeCtr (2 ^ 96 + (e.1 * 2048 + e.2) * 2 ^ 48 + i))] }

/-- The started REPARTs of all members of a record's communicator, in rank order, but of a lesson that has faulted, whose REPART
moves nothing more (R269); none while one of this package is missing (R284). -/
def State.repPeers (s : State) (r : Rec) : Option (List Rec) :=
  match s.comm r.ctx r.comm with
  | none => none
  | some m => m.members.mapM fun e =>
      if e.1 ≠ 0xFFF then some (s.farRepart r e)
      else s.recs.find? fun q => q.ctx == r.ctx && q.comm == r.comm && q.core == e.2 && q.isRepart && q.started && !q.walked && !q.ready

/-- The breakwater rows of a record sent on as the communicator's slots allow: each is a chunk to its own member at a virtual
address, which is applied, parked or dropped as any arrival is (R272, R279, R286). -/
def State.repSpill (s : State) (r : Rec) : Option State :=
  let slots := match s.comm r.ctx r.comm with | some m => m.rslot | none => r.spill.length
  let n := slots - s.slotsInUse r.ctx r.comm 0xFFF (hlOf r.core)
  let row (w : Nat × List Byte) (cid : Nat) : Chunk :=
    { cid := cid, rid := r.rid, ctx := r.ctx, comm := r.comm, iter := cid, len := w.2.length, src := r.core, dst := r.core
      addr := w.1, virt := true, bytes := w.2, op := 0, ty := 0, rm := 0, cnt := false, tidx := 0, mshape := r.mshape }
  let ks := (r.spill.take n).zipIdx.map fun e => row e.1 (s.nextCid + e.2)
  if ks.isEmpty then none
  else
    let s := { s with chunks := s.chunks ++ ks, nextCid := s.nextCid + ks.length }
    some (s.modRec r.rid fun q => { q with spill := q.spill.drop n })

/-- An area of a REPART written at its retirement: its old bytes come back, and the first n of the new ones are written, as far as a
word that is uncorrectable and not written whole (R64, R278, R286, R287). -/
def State.repArea (s : State) (r : Rec) (off : Nat) (old new : List Byte) (n : Nat) : State × Option Place :=
  let at_ (i : Nat) : Place := .win r.core r.ctx (off + i)
  let cut := (List.range n).find? fun i =>
    s.badUnit (at_ i) && !decide (off ≤ (off + i) / 8 * 8 ∧ (off + i) / 8 * 8 + 8 ≤ off + n)
  let m := cut.getD n
  ((s.padWrite r.core off (new.take m ++ old.drop m)).padHeal r.core off m, cut.map at_)

/-- Whether the areas of a REPART must wait for their core (R57, R149, R288). -/
def State.repBlocked (s : State) (r : Rec) : Bool :=
  s.engBlocked (r.saved.flatMap fun e => if e.2.isEmpty then [] else
    (List.range ((e.2.length - 1) / 0x80000 + 1)).map (fun i => .win r.core r.ctx (e.1 + i * 0x80000)) ++ [.win r.core r.ctx (e.1 + e.2.length - 1)])

/-- What a ready REPART writes and its retirement: the breakwater rows first, and once each of them is applied or dropped, and the
gated groups of its areas are awake, the areas and what the breakwater holds with them (R286 to R288, R302). -/
def State.repFinish (s : State) (r : Rec) : Option State :=
  if r.done then s.retireRec r
  else if !r.spill.isEmpty then s.repSpill r
  else if s.recBusy r.rid || s.repBlocked r then none
  else match s.repGates r with
    | g :: gs => s.engWake (g :: gs)
    | [] =>
      let rows := (List.range (repNP r.raw * repRsz r.raw)).map fun i => Place.win r.core r.ctx ((r.area 0).1 + i)
      let source := rows.find? s.badUnit
      let s := s.meet rows
      let (s, q) := r.out.zipIdx.foldl (fun (e : State × Option Place) o =>
        let t := e.1.repArea r o.1.1 (r.area o.2).2 o.1.2.1 o.1.2.2
        (t.1, e.2.or t.2)) (s, none)
      let s := (r.bwOld.foldl (fun s w => s.setByteAt w.1 w.2) s).writeSet r.bwNew
      let s := match source.or q with | some p => s.recEcc r p | none => s
      s.retireRec ((s.recs.find? (·.rid = r.rid)).getD r)

/-- REPART_RETIRE (R284 to R287): once every member's REPART is there the operation is computed, and the member's own writes
are made. A record whose lesson has faulted only leaves (R269). -/
def repRetireEv (rid : Nat) (s : State) : Option State :=
  match s.recs.find? (·.rid = rid) with
  | none => none
  | some r =>
    if !r.isRepart || !r.started then none
    else if r.walked then (if s.recBusy rid then none else s.retireRec { r with done := true })
    else if r.ready then s.repFinish r
    else match s.repPeers r with
      | none => none
      | some l =>
        let l' := ((repCompute s.freeCtr l).filter fun q => q.comm == r.comm).map fun q => if q.touched then q.unspecified (s.freeCtr + 1) else q
        let s := { s with freeCtr := s.freeCtr + 2, recs := s.recs.map fun q => (l'.find? (·.rid = q.rid)).getD q }
        some (match l'.find? (·.rid = rid) with
          | some r => (s.repFinish r).getD s
          | none => s)
def execRepartRetire (rid : Nat) (s : State) : Host.Outcome State Fault Refusal := event (repRetireEv rid) s

end Sys2Proof.Machine
end

