-- ==== Sys2Proof/Machine/Vertical.lean ====
section
/-! DEFINITION. Stacked layers (R295 to R302): VXFER, PGREQ, the power gates and TIDE. -/

namespace Sys2Proof.Machine

/-! ## VXFER (R295, R296) -/

/-- Source, destination and size of a VXFER: the registers in the window layouts of R52. -/
def vxSpan (dir kind : BitVec 1) (r n : BitVec 5) (ga : Nat) : Nat × Nat × Nat :=
  let reg := if kind = 1 then 0x240000 + r.toNat * 0x8000 else 0x200000 + r.toNat * 0x1000
  let size := if kind = 1 then 0x8000 else (n.toNat + 1) * 0x1000
  if dir = 1 then (reg, ga, size) else (ga, reg, size)

/-- An operation handed to the chimney controller; a ninth waits (R295). -/
def State.handOp (s : State) (o : ChimOp) : State := s.setCore s.cur { s.core s.cur with ops := (s.core s.cur).ops ++ [o] }

/-- VXFER at the hand-over (R295). The TVAL of a refused one is the whole of G[ga], and a ninth operation waits before the checks (DESIGN
CHOICE, log 92). -/
def vxferBody (i : Instr) (a : BitVec 5) (dir kind : BitVec 1) (r n : BitVec 5) (s : State) : Act :=
  let x := s.ctx
  let ga := (x.rg a).toNat
  let size := (vxSpan dir kind r n ga).2.2
  if 8 ≤ (s.core s.cur).ops.length then .wait .chimneyOps 0
  else if 2 ^ 21 ≤ ga ∨ 0x200000 < ga + size ∨ (x.sup = false ∧ ¬ (spanGroups ga size).all ((s.core s.cur).leaseOf x.id).testBit) then fault cACCESS ga
  else if ga % 64 ≠ 0 then fault cALIGN ga
  else .done (s.handOp { instr := i, ga := x.rg a, ctx := x.id, lesson := x.lesson }) (x.pc + 1)
def execVxfer (tk : Tok) (a : BitVec 5) (dir kind : BitVec 1) (r n : BitVec 5) (s : State) : Host.Outcome State Fault Refusal :=
  ccInstr { tk with push := 0 } (released (vxferBody (.vxfer tk a dir kind r n) a dir kind r n)) s

/-- The units of an operation: the groups of its footprint, and VX or MX (R302). -/
def ChimOp.units (o : ChimOp) : List Nat :=
  match o.instr with
  | .vxfer _ _ dir kind r n => spanGroups o.ga.toNat (vxSpan dir kind r n o.ga.toNat).2.2 ++ [if kind = 1 then 5 else 4]
  | _ => []

/-- The transfer of a VXFER made, up to an uncorrectable word (R296): the state and whether it met one. -/
def State.vxMove (s : State) (c : Nat) (o : ChimOp) (src dst size : Nat) : State × Option Place :=
  let at' (b i : Nat) : Place := .win c o.ctx (b + i)
  let good := (List.range size).takeWhile fun i => !s.badRead (at' src i)
  let s' := (s.meet (good.map (at' src))).writeSet (good.map fun i => (at' dst i, s.byte (at' src i)))
  (s', if good.length < size then some (at' src good.length) else none)

/-- A VXFER that waits for nothing makes its writes and retires, or is held; after an uncorrectable word it leaves without
counting or pushing, and an ECC trap is left pending (R296). -/
def State.vxRun (s : State) (c : Nat) (o : ChimOp) : Option State :=
  match o.instr with
  | .vxfer _ _ dir kind r n =>
    if o.done then s.retireOp c o
    else
      let (src, dst, size) := vxSpan dir kind r n o.ga.toNat
      let ends := [src, src + size - 1, dst, dst + size - 1].map fun off => (Place.win c o.ctx off)
      if s.engBlocked ends then none
      else match (o.units.filter (s.gated c)).map fun u => (c, u) with
        | g :: gs => s.engWake (g :: gs)
        | [] =>
          match s.vxMove c o src dst size with
          | (s, some p) =>
            let s := s.setCore c { s.core c with ops := (s.core c).ops.erase o }
            some ((s.eccBox c 6 o.ctx p.faultAddr).pendSeat c o.ctx o.lesson { cause := cECC, agent := 6, opc := opcOf o.instr, sub := p.eccSub, addr := p.faultAddr })
          | (s, none) =>
            let o' := { o with done := true }
            let s := s.setCore c { s.core c with ops := (s.core c).ops.map fun q => if q = o then o' else q }
            some ((s.retireOp c o').getD s)
  | _ => none

/-- VXFER_RETIRE (R296): the first VXFER of a core that can go on. -/
def vxferEv (c : Nat) (s : State) : Option State := (s.core c).ops.findSome? (s.vxRun c)
def execVxferRetire (core : Nat) (s : State) : Host.Outcome State Fault Refusal := event (vxferEv core) s

/-! ## Power gates (R300 to R302) -/

/-- The unit a PGREQ names, none for other operations. -/
def ChimOp.off (o : ChimOp) : Option Nat := match o.instr with | .pgreqOff _ u => some u.toNat | _ => none
def ChimOp.on (o : ChimOp) : Option Nat := match o.instr with | .pgreqOn _ u => some u.toNat | _ => none

/-- The operations of a core that meet a test marked as finished, and those that can retired. -/
def State.finishOps (s : State) (c : Nat) (f : ChimOp → Bool) : State :=
  (s.setCore c { s.core c with ops := (s.core c).ops.map fun (o : ChimOp) => if f o then { o with done := true } else o }).settleOps c

/-- The check of a PGREQ at the hand-over (R300). The TVAL of a refused one is the number of its unit, and a ninth operation waits before
the check (DESIGN CHOICE, log 92). -/
def pgreqBody (unit : Nat) (k : State → State) (s : State) : Act :=
  let x := s.ctx
  if 8 ≤ (s.core s.cur).ops.length then .wait .chimneyOps 0
  else if unit < 4 ∧ x.sup = false ∧ ¬ ((s.core s.cur).leaseOf x.id).testBit unit then fault cACCESS unit
  else .done (k s) (x.pc + 1)

/-- PGREQ.OFF (R300, R301): handed over; it is deferred until GATE_OFF. -/
def execPgreqOff (tk : Tok) (unit : BitVec 4) (s : State) : Host.Outcome State Fault Refusal :=
  ccInstr { tk with push := 0 } (released (pgreqBody unit.toNat fun s =>
    s.handOp { instr := .pgreqOff tk unit, ga := 0, ctx := s.ctx.id, lesson := s.ctx.lesson })) s
/-- PGREQ.ON (R300 to R302): it cancels a deferred OFF of the unit, and both retire; it wakes a gated unit, and otherwise
retires at once. -/
def pgreqOnBody (tk : Tok) (unit : BitVec 4) : State → Act :=
  pgreqBody unit.toNat fun s =>
    let c := s.cur
    let s := s.handOp { instr := .pgreqOn tk unit, ga := 0, ctx := s.ctx.id, lesson := s.ctx.lesson }
    let gated := s.gated c unit.toNat
    let s := s.finishOps c fun o => o.off = some unit.toNat || (o.on = some unit.toNat && !gated)
    if gated then s.wake c unit.toNat else s
def execPgreqOn (tk : Tok) (unit : BitVec 4) (s : State) : Host.Outcome State Fault Refusal :=
  ccInstr { tk with push := 0 } (released (pgreqOnBody tk unit)) s

/-- The bank groups of the executing core that a handed record names, as source or as the destination of a transfer to itself, or, of
a REPART, by its objects and status block (R301). -/
def State.recGroups (s : State) (r : Rec) : List Nat :=
  if r.isRepart then r.saved.flatMap fun e => if e.2.isEmpty then [] else spanGroups e.1 e.2.length
  else
    let w0 := recW r.raw 0
    let self : List Rec := match s.comm r.ctx r.comm with
      | some m => ((List.range r.total).map fun i => { r with iter := i }).filter fun q =>
          m.members[q.peerOf ((m.rank r.core).getD 0) m.members.length]? == some (0xFFF, r.core)
      | none => []
    (if bits w0 18 18 = 0 then (collOffsets r.raw (recW r.raw 2) (collSstr r.raw)).flatMap fun o => spanGroups o.toNat (collLen r.raw) else []) ++
    (if bits w0 19 19 = 0 then self.flatMap fun q => spanGroups q.dstOf.toNat (collLen r.raw) else [])

/-- Whether a PGREQ.OFF of a unit is deferred (R301): VX and MX by their own queues, a bank group by every footprint and hold that
touches it, and VX and the leased groups by chimney entries. -/
def State.gateDeferred (s : State) (c u : Nat) : Bool :=
  let x := s.live c
  let cmds := x.ld ++ x.st ++ x.vx ++ x.mx ++ x.lane
  ((s.core c).active && (
    (u == 4 && !x.vx.isEmpty) || (u == 5 && !(x.mx ++ x.lane).isEmpty)
    || cmds.any (fun k => k.groups.contains u)
    || (!x.chimney.isEmpty && (u == 4 || (decide (u < 4) && (s.ctxLease c x).testBit u)))))
  || (decide (u < 4) && (s.core c).ops.any (fun o => o.units.contains u))
  || s.recs.any (fun r => r.core == c && (s.recGroups r).contains u)

/-- GATE_OFF (R301): the unit is gated and the PGREQ retires. -/
def gateOffEv (c u : Nat) (s : State) : Option State :=
  let k := s.core c
  if !k.ops.any (fun o => o.off == some u && !o.done) || s.gateDeferred c u || k.waking.contains u then none
  else
    let s := s.setCore c { k with gated := if k.gated.contains u then k.gated else k.gated ++ [u] }
    some (s.finishOps c fun o => o.off == some u)
def execGateOff (core gate : Nat) (s : State) : Host.Outcome State Fault Refusal := event (gateOffEv core gate) s

/-- UNIT_WAKE_COMPLETE (R302): the unit is awake, and each PGREQ.ON of it retires; an MX that wakes admits rows again. -/
def wakeEv (c u : Nat) (s : State) : Option State :=
  let k := s.core c
  if !k.waking.contains u then none
  else
    let s := s.setCore c { k with gated := k.gated.filter (· != u), waking := k.waking.filter (· != u) }
    some ((if u = 5 then s.settleMx c else s).finishOps c fun o => o.on == some u)
def execUnitWakeComplete (core gate : Nat) (s : State) : Host.Outcome State Fault Refusal := event (wakeEv core gate) s

/-! ## The tide (R298, R299) -/

/-- TIDE (R299): TIDEPRI of the context; it takes effect at a TIDE_HALF_BOUNDARY. -/
def execTide (tk : Tok) (v : BitVec 1) (s : State) : Host.Outcome State Fault Refusal :=
  ccInstr tk (ctxNext fun x => x.setSr snTIDEPRI (v.setWidth 64)) s

/-- Whether the upper layer of a core holds the right to full rate (R298). -/
def State.upperRight (s : State) (c : Nat) : Bool := s.ebb ^^ (s.core c).tideNow

/-- TIDE_HALF_BOUNDARY (R298, R299): once CYCLE has passed a multiple of 128 the half is that of CYCLE; once it has passed one of
256 the TIDEPRI of each core's context takes effect. It is looked for wherever clk pass, before anything else happens in that
clk. -/
def tideEv (s : State) : Option State :=
  if s.cycle / 128 = s.tideHalf then none
  else some { s with
      ebb := decide (s.cycle / 128 % 2 = 1)
      tideHalf := s.cycle / 128
      cores := if s.cycle / 256 = s.tideHalf / 2 then s.cores
        else s.cores.map fun e => (e.1, { e.2 with tideNow := e.2.active && (e.2.live.sr snTIDEPRI).getLsbD 0 }) }
/-- The clocks dt clk later, and the tide with them. -/
def State.pass (s : State) (dt : Nat) : State := (tideEv (s.advance dt)).getD (s.advance dt)
def execTideHalfBoundary (s : State) : Host.Outcome State Fault Refusal := event tideEv s

end Sys2Proof.Machine
end

