-- ==== Sys2Proof/Machine/Resume.lean ====
section
/-! DEFINITION. The control core between instructions: fetch, the trap it takes at a boundary, waits that end, pushes that go
on, WAITSTUCK, the store path and remote loads (R40, R41, R45, R101, R108, R118, R134 to R141). -/

namespace Sys2Proof.Machine

/-! ## Fetch (R101, R114, R135) -/

/-- What a fetch at the pc meets. -/
inductive Fetch where
  | word (w : W64)
  | bad
  | pending (i : Nat)
deriving DecidableEq, Repr

/-- The fetch of a control core: from the supervisor store of 64 KiB under SUP, otherwise from the 256 KiB of instruction
memory, where only an executable word may be fetched (R101, R135). An instruction that waits is the word that was fetched, whatever
an LDO has marked or FWSW switched since (R102, R316). -/
def State.fetch (s : State) (c : Nat) : Fetch :=
  let x := s.live c
  let i := x.pc.toNat
  if x.sup then (if i < 8192 then .word (x.latch.getD (s.svWord c i)) else .bad)
  else if 32768 ≤ i then .bad
  else match x.latch, (x.word i).st with
    | some w, _ => .word w
    | none, .exec => .word (x.word i).w
    | none, .nonexec => .bad
    | none, .pending => .pending i

/-- The instruction word at the pc, if it can be fetched. -/
def State.wordAt (s : State) (c : Nat) : Option Instr :=
  match s.fetch c with
  | .word w => decode w
  | _ => none

/-! ## Pending causes (R138, R141) -/

/-- Whether a stop precedes another: ECC first, then by clk, then in peer order (R141). -/
def Pend.before (p q : Pend) : Bool :=
  let e (r : Pend) : Nat := if r.cause = cECC then 0 else 1
  decide (e p < e q) || (e p == e q && (decide (p.clk < q.clk) || (p.clk == q.clk && decide (p.agent < q.agent))))

/-- Whether a cause is a pending stop, or an ECC that a handed operation left. -/
def Pend.isStop (p : Pend) : Bool := !([cPREEMPT, cTIMER, cCOLLPAGE].contains p.cause)

/-- The first pending stop. -/
def firstStop (l : List Pend) : Option Pend :=
  (l.filter Pend.isStop).foldl (fun b p => match b with
    | none => some p
    | some q => if p.before q then some p else some q) none

/-- The first pending cause of a boundary (R141): none while INH is set. -/
def Ctx.firstPend (x : Ctx) : Option Pend :=
  if x.inh then none
  else match x.pend.find? (·.cause = cPREEMPT), x.pend.find? (·.cause = cTIMER), firstStop x.pend, x.pend.find? (·.cause = cCOLLPAGE) with
    | some p, _, _, _ => some p
    | none, some p, _, _ => some p
    | none, none, some p, _ => some p
    | none, none, none, p => p

/-- Whether a control core stands at an instruction boundary of an active context. -/
def State.atBoundary (s : State) (c : Nat) : Bool :=
  let k := s.core c
  k.active && !k.live.waitStart && !k.live.halted && !k.stopReq && k.live.held.isNone
/-- Whether it fetches: a seat that has exited runs only a handler (R38). -/
def Ctx.fetches (x : Ctx) : Bool := !x.parked
/-- Whether its instruction may go on: at a boundary with nothing pending. -/
def State.mayGo (s : State) (c : Nat) : Bool := s.atBoundary c && (s.live c).fetches && (s.live c).firstPend.isNone

/-- A pending cause taken: it is pending no more, the wait that it ends is logged, and the trap's restart index is the next
instruction (R136, R138, R155). -/
def State.takePend (s : State) (c : Nat) (p : Pend) : State :=
  let s := s.logCC c
  let x := s.live c
  (s.setLive c { x with pend := x.pend.erase p }).trap c p x.pc

/-- TRAP_ENTRY (R136, R141): the first pending cause, or the FETCH fault of the word at the pc. -/
def trapEv (c : Nat) (s : State) : Option State :=
  let x := s.live c
  if !s.atBoundary c then none
  else match x.firstPend with
    | some p => some (s.takePend c p)
    | none =>
      if x.fetches && s.fetch c = .bad then some ((s.logCC c).trap c { cause := cFETCH, addr := x.pc.toNat, clk := s.cycle } x.pc)
      else none
def execTrapEntry (core : Nat) (s : State) : Host.Outcome State Fault Refusal := event (trapEv core) s

/-! ## Instructions that wait (R41, R49, R108) -/

/-- The tokens and the body of a word that may wait for more than its tokens. -/
def resumeBody : Instr → Option (Tok × (State → Act))
  | .ld tk d a b size off => some (tk, ldBody d a b size off false)
  | .st tk d a b size off => some (tk, stBody d a b size off)
  | .tlbinv tk a b bc mode => some (tk, tlbinvBody a b bc mode)
  | .ctxsw tk a => some (tk, ctxswBody tk a)
  | .fence tk sc kind => some (tk, fenceBody sc kind)
  | .setf tk sc a b rem flag => some (tk, released (flagBody sc a b rem flag fun _ v => v))
  | .addf tk sc a b rem flag => some (tk, released (flagBody sc a b rem flag fun o v => o + v))
  | .waitf tk sc b flag => some (tk, waitfBody sc b flag)
  | .tktTake tk _ a d => some (tk, released (tktTakeBody a d))
  | .tktWait tk sc a b => some (tk, released (tktWaitBody sc a b))
  | .tktDone tk _ a => some (tk, released (tktDoneBody a))
  | .aadd tk _ a b d ty _ => some (tk, released (atomBody a b d ty fun o v => some (atomAdd ty.toNat o v)))
  | .amin tk _ a b d ty _ => some (tk, released (atomBody a b d ty fun o v => some (atomMin ty.toNat o v)))
  | .amax tk _ a b d ty _ => some (tk, released (atomBody a b d ty fun o v => some (atomMax ty.toNat o v)))
  | .acas tk _ a b d g ty _ => some (tk, released (fun s => atomBody a b d ty (fun o v =>
      if o = v then some ((s.ctx.rg g).toNat % 2 ^ (8 * tyBytes ty.toNat)) else none) s))
  | .aswp tk _ a b d ty _ => some (tk, released (atomBody a b d ty fun _ v => some v))
  | .scope tk sc a => some (tk, released (scopeBody sc a))
  | .rpop tk d which => some (tk, rpopBody d which)
  | .comm tk sc a d k => some (tk, released (commBody sc a d k none))
  | .commDel tk d k => some (tk, commDelBody d k none)
  | .coll tk a => some ({ tk with push := 0 }, released (collBody tk a))
  | .cwait tk d p k => some (tk, cwaitBody d p k)
  | .repart tk a => some ({ tk with push := 0 }, released (repartBody tk a))
  | .vxfer tk a dir kind r n => some ({ tk with push := 0 }, released (vxferBody (.vxfer tk a dir kind r n) a dir kind r n))
  | i => (engineOf i).map fun _ => (⟨0, 0⟩, pushBody i)

/-- A state rewritten as if another core's control core moved. -/
def State.onCore (s : State) (c : Nat) (f : State → State) : State := { f { s with cur := c } with cur := s.cur }

/-- A waiting instruction of core c executed again, where it waits for one of some kinds and now goes on: it completes, traps or
waits for something else. -/
def State.resumeWith (s : State) (c : Nat) (kinds : List WaitKind) (alt : Instr → Option (Tok × (State → Act))) : Option State :=
  if !s.mayGo c then none
  else match (s.live c).wait with
    | none => none
    | some w =>
      if !kinds.contains w.kind then none
      else match (s.wordAt c).bind alt with
        | none => none
        | some (tk, body) =>
          let s' := s.onCore c fun s => s.runCC c tk body
          if (s'.live c).wait = some w then none else some s'

/-- The words that wait for the return of a remote load, a full queue of the chimney controller, and so on, each by its event. -/
def State.resume (s : State) (c : Nat) (kinds : List WaitKind) : Option State := s.resumeWith c kinds resumeBody

/-- TLBINV_COMPLETE (R50, R131). -/
def execTlbinvComplete (core : Nat) (s : State) : Host.Outcome State Fault Refusal := event (fun s => s.resume core [.tlbinv]) s
/-- QUEUE_ROOM_RESUME (R41, R269, R295). PGREQ waits here too. -/
def queueRoomEv (c : Nat) (s : State) : Option State :=
  s.resumeWith c [.queueRoom, .chimneyOps] fun i => match i with
    | .pgreqOff tk u => some ({ tk with push := 0 }, released (pgreqBody u.toNat fun s =>
        s.handOp { instr := .pgreqOff tk u, ga := 0, ctx := s.ctx.id, lesson := s.ctx.lesson }))
    | .pgreqOn tk u => some ({ tk with push := 0 }, released (pgreqOnBody tk u))
    | i => resumeBody i
def execQueueRoomResume (core : Nat) (s : State) : Host.Outcome State Fault Refusal := event (queueRoomEv core) s
/-- TLB_PIN_RESUME (R49). -/
def execTlbPinResume (core : Nat) (s : State) : Host.Outcome State Fault Refusal := event (fun s => s.resume core [.tlbPin]) s
/-- FLAG_WAIT_SATISFIED (R236). -/
def execFlagWaitSatisfied (core : Nat) (s : State) : Host.Outcome State Fault Refusal := event (fun s => s.resume core [.flag]) s
/-- TICKET_WAIT_SATISFIED (R237). -/
def execTicketWaitSatisfied (core : Nat) (s : State) : Host.Outcome State Fault Refusal := event (fun s => s.resume core [.ticket]) s
/-- RESULT_FIFO_ARRIVAL (R241). -/
def execResultFifoArrival (core : Nat) (s : State) : Host.Outcome State Fault Refusal := event (fun s => s.resume core [.resultFifo]) s
/-- CWAIT_SATISFIED (R280). -/
def execCwaitSatisfied (core : Nat) (s : State) : Host.Outcome State Fault Refusal :=
  event (fun s => s.resumeWith core [.collective] fun i => match i with
    | .cwait tk d p k => some (tk, cwaitBody d p k)
    | _ => none) s
/-- COMM_COMPLETE (R271): the round trip to the remote members returns a code. -/
def execCommComplete (core : Nat) (code : Nat) (s : State) : Host.Outcome State Fault Refusal :=
  event (fun s => s.resumeWith core [.collective] fun i => match i with
    | .comm tk sc a d k => some (tk, released (commBody sc a d k (some code)))
    | .commDel tk d k => some (tk, commDelBody d k (some code))
    | _ => none) s

/-- REMOTE_LOAD_RETURN (R118): the stores of the path are performed first, and the value returns. -/
def remoteLoadEv (c : Nat) (s : State) : Option State :=
  s.resumeWith c [.remoteLoad] fun i => match i with
    | .ld tk d a b size off => some (tk, released (ldBody d a b size off true))
    | _ => none
def execRemoteLoadReturn (core : Nat) (s : State) : Host.Outcome State Fault Refusal := event (remoteLoadEv core) s

/-- STORE_PERFORMED (R118): the oldest store of a path reaches its target, which wakes first if it is gated (R302). -/
def storeEv (c : Nat) (s : State) : Option State :=
  match (s.live c).path with
  | [] => none
  | w :: _ =>
    if !(s.core c).active || s.blocked c w.place then none
    else match s.gateAt w.place with
      | some u => if (s.core u.1).waking.contains u.2 then none else some (s.wake u.1 u.2)
      | none => some (s.performStore c)
def execStorePerformed (core : Nat) (s : State) : Host.Outcome State Fault Refusal := event (storeEv core) s

/-- PENDING_FETCH_RELEASE (R101): the LDO has retired, and the fetch ends: the word faults FETCH, or is executed as the next
instruction. -/
def pendingFetchEv (c : Nat) (s : State) : Option State :=
  let x := s.live c
  match x.wait with
  | none => none
  | some w =>
    if !s.mayGo c || w.kind != .pendingFetch then none
    else match s.fetch c with
      | .pending _ => none
      | .bad => some ((s.endWait c).trap c { cause := cFETCH, addr := x.pc.toNat, clk := s.cycle } x.pc)
      | .word _ => some (s.endWait c)
def execPendingFetchRelease (core : Nat) (s : State) : Host.Outcome State Fault Refusal := event (pendingFetchEv core) s

/-- Whether a breakpoint on the index at the pc stops the core before the word there executes (R152). -/
def Core.pcStop (k : Core) : Bool := k.bps.any fun b => b.2 == .pc k.live.pc.toNat && !k.live.passed.contains b.2

/-- COMMAND_PUSH (R40): the control core, standing at a command word, checks and pushes it. -/
def pushEv (c : Nat) (w : W64) (s : State) : Option State :=
  if !s.mayGo c || s.fetch c ≠ .word w || (s.core c).pcStop then none
  else match decode w with
    | none => none
    | some i => match engineOf i with
      | none => none
      | some _ => some (s.onCore c fun s => s.runCC c ⟨0, 0⟩ (pushBody i))
def execCommandPush (core : Nat) (word : BitVec 64) (s : State) : Host.Outcome State Fault Refusal := event (pushEv core word) s

/-! ## WAITSTUCK (R45, R49, R101, R150, R198, R241, R292, R293) -/

/-- Whether a wait of a control core is over: its instruction would go on now. -/
def State.waitOver (s : State) (c : Nat) (w : Wait) : Bool :=
  match w.kind with
  | .token => (match s.wordAt c with | some i => (s.live c).canPop (tokOf i).pop | none => false)
  | .pendingFetch => (pendingFetchEv c s).isSome
  | .queueRoom => (queueRoomEv c s).isSome
  | .chimneyOps => (queueRoomEv c s).isSome
  | .remoteLoad => true
  | k => (s.resume c [k]).isSome
/-- Whether a control core has exited, halted or is itself waiting, with no trap to take (R45). -/
def State.ccIdle (s : State) (c : Nat) : Bool :=
  let x := s.live c
  x.halted || (x.firstPend.isNone
    && (x.parked || (x.held.isNone && (match x.wait with | some w => !s.waitOver c w | none => false))))
/-- Commands of an agent, queued or in flight. -/
def Ctx.cmdsOf (x : Ctx) (a : Agent) : List Cmd := if a = .mx then x.mx ++ x.lane else x.queue a

/-- Whether an operation that the control core of a core has handed over is in flight (R45, R89). -/
def State.handedInFlight (s : State) (c : Nat) : Bool :=
  let x := s.live c
  (s.recs.any fun r => r.core == c && r.ctx == x.id && r.lesson == x.lesson)
    || (s.core c).ops.any fun o => o.ctx == x.id && o.lesson == x.lesson

/-- Whether a token of a FIFO can still be supplied: it is there, or its producer can act (R45). -/
def State.tokenSupplied (s : State) (c n : Nat) : Bool :=
  let x := s.live c
  let p := agentOf (n / 4)
  decide (0 < x.tokens.get 0 n) || (if p = .cc then !s.ccIdle c || s.handedInFlight c else !(x.cmdsOf p).isEmpty)

/-- The first of the FIFOs that a wait names which is empty and can no longer be supplied (R45). -/
def State.stuckFifo (s : State) (c : Nat) (l : List Nat) : Option Nat := l.find? fun n => !s.tokenSupplied c n
/-- The FIFOs that the waiting word of a control core pops. -/
def State.awaitedFifos (s : State) (c : Nat) (w : Wait) : List Nat :=
  match s.wordAt c with | some i => popFifos .cc (tokOf i).pop | none => [w.obj]

/-- Whether the wait of a queue head can still be supplied. -/
def State.headSupplied (s : State) (c : Nat) (a : Agent) (k : Cmd) (w : WaitKind × Nat) : Bool :=
  let x := s.live c
  match w.1 with
  | .token => (s.stuckFifo c (popFifos a (tokOf k.instr).pop)).isNone
  | .resultFifo => !s.ccIdle c
  | _ => match k.instr with
    | .chpush .. => !s.ccIdle c || x.st.any fun q => !q.husk && (match q.instr with | .chpop .. => true | _ => false)
    | _ => !s.ccIdle c || x.vx.any fun q => !q.husk && (match q.instr with | .chpush .. => true | _ => false)

/-- Whether an engine is idle or waits at its head, or at that of the repair lane. -/
def Ctx.engineIdle (x : Ctx) (a : Agent) : Bool :=
  match (if a = .mx ∧ x.lane ≠ [] then x.lane else x.queue a) with
  | [] => true
  | k :: _ => (x.headWait a k).isSome || x.markWaits a k || (k.husk && !k.popped && !x.hasTokens (popFifos a (tokOf k.instr).pop))

/-- Whether every agent of a seat is idle with an empty queue, or waits; a pre-empted seat can still supply (R45). -/
def State.seatQuiet (s : State) (core ctx num : Nat) : Bool :=
  let x := s.live core
  (s.core core).active && x.isOf ctx num && s.ccIdle core && [Agent.ld, .st, .vx, .mx].all x.engineIdle

/-- Whether a handed record names a flag of a core. -/
def Rec.namesFlag (r : Rec) (core n : Nat) : Bool :=
  r.core == core && (r.lflag == some n || (!r.isRepart && (List.range 4).any fun k =>
    let a := recW r.raw (12 + k)
    decide (bits a 38 38 = 1 ∧ bits a 37 32 = n)))
/-- Whether the destinations of a record on a communicator cover an address of a ticket as the waiting core knows it: those of the
transfers of a COLL, at the peer of each in this package or by virtual address, and the areas, the status block and the breakwater of a
REPART (R45, R274, R286, R287). -/
def Rec.coversTicket (r : Rec) (m : Option Comm) (core a : Nat) : Bool :=
  if r.isRepart then
    let meets (lo n : Nat) : Bool := decide (lo < ticketKey core a + 16 ∧ ticketKey core a < lo + n)
    r.saved.any (fun e => meets (0xF000000000000000 + r.core * 0x800000 + e.1) e.2.length)
      || meets (recW r.raw 4) (repBwcap r.raw * repRsz r.raw)
  else match m with
    | none => false
    | some m => (List.range r.total).any fun i =>
      let q := { r with iter := i }
      let peer := m.members.getD (q.peerOf ((m.rank r.core).getD 0) m.members.length) (0xFFF, r.core)
      let base : Int := (if bits (recW r.raw 0) 19 19 = 1 then 0 else 0xF000000000000000 + peer.2 * 0x800000 : Nat)
      let key : Int := ticketKey core a
      peer.1 == 0xFFF && decide (base + q.dstOf < key + 16 ∧ key < base + q.dstOf + collLen r.raw)

/-- Whether an outstanding command or record names a flag of a core, for a context (R45). -/
def State.flagNamed (s : State) (ctx core n : Nat) : Bool :=
  s.everyCtx.any (fun e => e.2.id == ctx && (e.2.ld ++ e.2.st).any fun k => flagOf k.instr == some n && k.flagCore e.1 == core)
    || s.recs.any fun r => r.ctx == ctx && r.namesFlag core n
/-- Whether the footprint of an outstanding command, its validity mask with it, or of a record covers a ticket (R45, R62). -/
def State.ticketCovered (s : State) (ctx core a : Nat) : Bool :=
  s.everyCtx.any (fun e => e.2.id == ctx && (e.2.ld ++ e.2.st).any fun k => !k.husk &&
      (k.maskAddrs 2 ++ k.maskAddrs 3 ++ (k.uses.filter fun u => !u.read).flatMap fun u => u.addrs 2 ++ u.addrs 3).any fun b =>
        let d := ticketKey e.1 b
        decide (ticketKey core a ≤ d ∧ d < ticketKey core a + 16))
    || s.recs.any fun r => r.ctx == ctx && r.coversTicket (s.comm r.ctx r.comm) core a

/-- Whether the scope of a waiting instruction contains a core: an entry 2 to 30 as the instruction read it (R240). -/
def State.waitInScope (s : State) (c : Nat) (x : Ctx) (sc core : Nat) : Bool :=
  match x.waitEntry with
  | some (some m) => if sc = 0 ∨ sc = 1 ∨ sc = 31 then s.inScope c x sc core else m.getLsbD core
  | _ => s.inScope c x sc core

/-- Whether a scope admits another lesson of the waiting context (R45). -/
def State.admitsOther (s : State) (c : Nat) (x : Ctx) (sc : Nat) : Bool :=
  let other (h : Option SlotHold) : Bool := match h with | some h => decide (h.ctx = x.id ∧ h.num ≠ x.lesson) | none => false
  s.cores.any (fun e => (other e.2.slot0 || other e.2.slot1) && s.waitInScope c x sc e.1)
    || s.everyCtx.any fun e => e.2.id == x.id && e.2.lesson != x.lesson && s.waitInScope c x sc e.1

/-- The scope that the waiting word names. -/
def State.waitScope (s : State) (c : Nat) : Nat :=
  match s.wordAt c with
  | some (.waitf _ sc _ _) => sc.toNat
  | some (.tktWait _ sc _ _) => sc.toNat
  | _ => 0

/-- Whether the wait of a control core can still be supplied, or is over; waits that never raise WAITSTUCK always can. -/
def State.waitSupplied (s : State) (c : Nat) (w : Wait) : Bool :=
  let x := s.live c
  let others (named : Bool) : Bool :=
    named || s.admitsOther c x (s.waitScope c)
      || !(match s.lesson x.id x.lesson with | some l => l.seats.all (fun se => s.seatQuiet se.core x.id x.lesson) | none => true)
  match w.kind with
  | .token => s.waitOver c w || (s.stuckFifo c (s.awaitedFifos c w)).isNone
  | .flag => (s.resume c [.flag]).isSome || others (s.flagNamed x.id c (w.obj % 0x1000 / 4))
  | .ticket => (s.resume c [.ticket]).isSome || others (s.ticketCovered x.id c w.obj)
  | .resultFifo =>
    if w.obj = 0 then !x.vxFifo.isEmpty || x.vx.any fun k => !k.husk && (match k.instr with | .vtog .. => true | _ => false)
    else !x.mxFifo.isEmpty || (x.mx ++ x.lane).any fun k => !k.husk && (match k.instr with | .mxstat .. => true | _ => false)
  | .tlbPin => (s.resume c [.tlbPin]).isSome || [Agent.ld, .st, .vx, .mx].any fun a => (x.cmdsOf a).any (fun k => !k.pins.isEmpty) &&
      !(match x.queue a with
        | k :: _ => (match x.headWait a k with | some (.token, n) => n / 4 == 0 | _ => false)
        | [] => false)
  | .pendingFetch => (match s.fetch c with | .pending _ => false | _ => true)
    || x.ld.any fun k => (match k.instr with | .ldo .. => true | _ => false)
  | _ => true

/-- WAITSTUCK (R45, R137, R150): a precise trap of a waiting control core, or a stop of a waiting queue head with no pop made. The
clk of a wait count from its start, those too in which the context was not active (DESIGN CHOICE, log 76). -/
def stuckEv (c : Nat) (a : Agent) (s : State) : Option State :=
  let x := s.live c
  let wdog := (x.sr snWDOG).toNat
  if wdog = 0 ∨ ¬ (s.core c).active ∨ x.halted then none
  else if a = .cc then
    match x.wait with
    | none => none
    | some w =>
      if !s.mayGo c || decide (s.cycle - w.since ≤ wdog) || s.waitSupplied c w then none
      else
        let adr := if w.kind = .token then (s.stuckFifo c (s.awaitedFifos c w)).getD w.obj else w.obj
        some ((s.logWait c 0 w).trap c
        { cause := cWAITSTUCK, opc := s.opcAt c, sub := w.kind.code, addr := adr, detail := s.cycle - w.since, clk := s.cycle } x.pc)
  else
    let lane := a = .mx && !x.lane.isEmpty
    match (if lane then x.lane.head? else (x.queue a).head?) with
    | none => none
    | some k =>
      match x.headWait a k with
      | none => none
      | some w =>
        if decide (s.cycle - k.since ≤ wdog) || s.headSupplied c a k w then none
        else
          let adr := if w.1 = .token then (s.stuckFifo c (popFifos a (tokOf k.instr).pop)).getD w.2 else w.2
          some ((s.logWait c (agentNum a) ⟨w.1, adr, k.since⟩).stopHead c a lane k
            { cause := cWAITSTUCK, sub := w.1.code, addr := adr, detail := s.cycle - k.since })
def execWaitstuck (core : Nat) (ag : Agent) (s : State) : Host.Outcome State Fault Refusal := event (stuckEv core ag) s

end Sys2Proof.Machine
end

