-- ==== Sys2Proof/Machine/Registrar.lean ====
section
/-! DEFINITION. The registrar and the stack sequencers (R20, R22 to R38, R143 to R148): the launch window, the checks of a
record, placement and attempts, pre-emption, the copies and the start of a lesson, its end, time slices and streams. -/

namespace Sys2Proof.Machine

/-! ## The launch window (R306, R307) -/

/-- LAUNCH_WINDOW_WRITE (R307): bytes written into a page's window; a write that covers its last word pushes the window as
one record, or sets OVF when 64 records wait. An unbound page ignores it (R306). -/
def launchEv (page off : Nat) (bs : List Byte) (s : State) : Option State :=
  let p := s.page page
  if 256 ≤ page ∨ p.bound = none ∨ bs = [] ∨ 0x80 < off + bs.length then none
  else
    let w := Mem.write p.window off bs
    let p := { p with window := w }
    some (if 0x78 < off ∨ off + bs.length < 0x80 then s.setPage page p
      else if 64 ≤ p.launch.length then s.setPage page { p with ovf := true }
      else s.setPage page { p with launch := p.launch ++ [BitVec.ofNat 1024 (leNat (Mem.read w 0 128))] })
def execLaunchWindowWrite (page : Nat) (off : Nat) (bytes : List (BitVec 8)) (s : State) : Host.Outcome State Fault Refusal :=
  event (launchEv page off bytes) s

/-! ## The lesson record (R22 to R24) -/

/-- A 64-bit word of a record at byte offset 8 i, and its fields. -/
def lw (r : BitVec 1024) (i : Nat) : Nat := (r.extractLsb' (64 * i) 64).toNat
def lCTX (r : BitVec 1024) : Nat := bits (lw r 0) 63 48
def lPRI (r : BitVec 1024) : Nat := bits (lw r 0) 47 46
def lLEASE (r : BitVec 1024) : Nat := bits (lw r 0) 45 42
def lD (r : BitVec 1024) : Nat := 2 ^ bits (lw r 0) 41 40
def lH (r : BitVec 1024) : Nat := bits (lw r 0) 39 36 + 1
def lW (r : BitVec 1024) : Nat := bits (lw r 0) 35 32 + 1
def lENTRY (r : BitVec 1024) : Nat := bits (lw r 0) 31 17
def lPROG (r : BitVec 1024) : Nat := bits (lw r 0) 15 0
def lABLEN (r : BitVec 1024) : Nat := bits (lw r 1) 63 32
def lNPRE (r : BitVec 1024) : Nat := bits (lw r 1) 28 24
def lNARG (r : BitVec 1024) : Nat := bits (lw r 1) 23 20
def lNPLN (r : BitVec 1024) : Nat := bits (lw r 1) 19 16
def lKIND (r : BitVec 1024) (l : Nat) : Nat := bits (lw r 1) (5 + 2 * l) (4 + 2 * l)
def lNLVL (r : BitVec 1024) : Nat := bits (lw r 1) 2 0
def lABADDR (r : BitVec 1024) : Nat := lw r 2
def lLIST (r : BitVec 1024) : Nat := lw r 3
def lBEGIN (r : BitVec 1024) (l : Nat) : Nat := bits (lw r (4 + l)) 31 0
def lEND (r : BitVec 1024) (l : Nat) : Nat := bits (lw r (4 + l)) 63 32
def lARG (r : BitVec 1024) (i : Nat) : Nat := lw r (10 + i)

/-- The levels a record uses, at their limit at most, and the number of its entries. -/
def lLevels (r : BitVec 1024) : List Nat := List.range (min (lNLVL r) 6)
def lCount (r : BitVec 1024) : Nat := lNPRE r + lNPLN r

/-- The entry list as the registrar reads it through the context's tables; none if it cannot be read (R24). -/
def State.entryList (s : State) (ctx : Nat) (r : BitVec 1024) : Option (List (BitVec 128)) :=
  if lLIST r % 16 ≠ 0 then none
  else match s.engRun ctx (s.context ctx).ptbase (lLIST r) (16 * lCount r) false false with
    | .error _ => none
    | .ok ps =>
      let bs := ps.map s.byte
      some ((List.range (lCount r)).map fun i => BitVec.ofNat 128 (leNat ((bs.drop (16 * i)).take 16)))

/-- Fields of a prefetch entry and of a plane entry (R23). -/
def eW (e : BitVec 128) (i : Nat) : Nat := (e.extractLsb' (64 * i) 64).toNat
def preROWS (e : BitVec 128) : Nat := bits (eW e 0) 43 32
def preOFF (e : BitVec 128) : Nat := 64 * bits (eW e 0) 30 18
def preBG (e : BitVec 128) : Nat := bits (eW e 0) 17 16
def preOBJ (e : BitVec 128) : Nat := bits (eW e 0) 15 0
def plnOBJ (e : BitVec 128) : Nat := bits (eW e 0) 35 20
def plnROLE (e : BitVec 128) : Nat := bits (eW e 0) 19 19
def plnSLOT (e : BitVec 128) : Nat := bits (eW e 0) 18 16
def plnTAG (e : BitVec 128) : Nat := bits (eW e 0) 15 0
def entROW0 (e : BitVec 128) : Nat := bits (eW e 1) 31 0

/-- Bytes of a row of an object, and its pitch in a bank group (R23). -/
def rowBytes (o : ObjEntry) : Nat := if o.rank = 1 then 64 else (o.dims.getD (o.rank - 1) 0 * elemBits o.fmt + 7) / 8
def rowPitch (o : ObjEntry) : Nat := (rowBytes o + 63) / 64 * 64
/-- Rows that an object has for a prefetch (R23). -/
def rowCount (o : ObjEntry) : Nat :=
  if o.rank = 1 then ((o.dims.getD 0 0 * elemBits o.fmt + 7) / 8 + 63) / 64 else o.dims.getD (o.rank - 2) 0

/-- Whether no two elements of a list are equal. -/
def distinct {α : Type} [DecidableEq α] (l : List α) : Bool := l.dedup.length == l.length

/-- The reason codes of R24 that a record of a page bound to a context meets, each with its condition. KIND, END below BEGIN and
more than one level of a spatial kind are looked for on the levels below NLVL (of the last two R24 does not say on which: DESIGN
CHOICE, log 78). -/
def State.recordFaults (s : State) (ctx : Nat) (r : BitVec 1024) : List (Nat × Bool) :=
  let lv := lLevels r
  let po := s.objEntry ctx (lPROG r)
  let list := s.entryList ctx r
  let es := list.getD []
  let pre := es.take (lNPRE r)
  let pln := es.drop (lNPRE r)
  [(1, decide (bits (lw r 0) 16 16 ≠ 0 ∨ bits (lw r 1) 31 29 ≠ 0 ∨ bits (lw r 1) 3 3 ≠ 0)
      || pre.any (fun e => decide (bits (eW e 0) 63 44 ≠ 0 ∨ bits (eW e 1) 63 32 ≠ 0))
      || pln.any (fun e => decide (bits (eW e 0) 63 36 ≠ 0 ∨ bits (eW e 1) 63 32 ≠ 0))),
   (2, decide (12 < lH r)),
   (3, decide (6 < lNLVL r ∨ 6 < lNARG r ∨ 8 < lNPLN r ∨ 16 < lNPRE r) || lv.any (fun l => lKIND r l == 3)
      || decide (1 < (lv.filter fun l => lKIND r l = 1).length ∨ 1 < (lv.filter fun l => lKIND r l = 2).length)
      || lv.any (fun l => decide (lEND r l < lBEGIN r l))),
   (4, !(po.kind != 0 && po.fmt == 0x12 && po.rank == 1 && po.rd && po.ov
        && decide (po.dims.getD 0 0 % 8 = 0 ∧ po.dims.getD 0 0 ≤ 262144 ∧ lENTRY r < po.dims.getD 0 0 / 8))),
   (5, decide (lABLEN r % 64 ≠ 0 ∨ 65536 < lABLEN r ∨ (lABLEN r ≠ 0 ∧ lLEASE r = 0))),
   (6, list.isNone
      || pre.any (fun e =>
          let o := s.objEntry ctx (preOBJ e)
          o.kind == 0 || preROWS e == 0 || !(lLEASE r).testBit (preBG e)
            || decide (0x80000 < preOFF e + preROWS e * rowPitch o))
      || pln.any (fun e => if plnROLE e = 1 then plnOBJ e != 0 else (s.objEntry ctx (plnOBJ e)).kind == 0)
      || !distinct (pln.map plnSLOT) || !distinct (pln.map fun e => (plnTAG e, plnROLE e))),
   (7, lCTX r != ctx)]

/-- Whether the headland of the registrar that serves is up (R20, R314). -/
def State.registrarUp (s : State) : Bool := !(s.head (if s.standby then 4 else 0)).down

/-- LESSON_RECORD_CHECK (R24): the oldest record of a page's launch FIFO rejected with its lowest reason, or accepted and
numbered. The slice that the supervisor has configured by then is the lesson's (DESIGN CHOICE, log 80). -/
def recordEv (page : Nat) (s : State) : Option State :=
  let p := s.page page
  match p.bound, p.launch with
  | some ctx, r :: rest =>
    if !s.registrarUp then none else
    let s' := s.setPage page { p with launch := rest }
    match (s.recordFaults ctx r).find? (·.2) with
    | some f => some (s'.complete ctx (2 ^ 32 - 1) 2 f.1)
    | none =>
      let c := s'.context ctx
      let l : Lesson := { ctx := ctx, num := c.nextNum, rcd := r, entries := (s.entryList ctx r).getD [], slice := c.slice.getD 1200000 }
      some { s'.setContext ctx { c with nextNum := (c.nextNum + 1) % 2 ^ 32 } with lessons := s'.lessons ++ [l] }
  | _, _ => none
def execLessonRecordCheck (page : Nat) (s : State) : Host.Outcome State Fault Refusal := event (recordEv page) s

/-! ## Placement (R27, R28, R32, R316, R318) -/

/-- Whether a slot is available to a lesson of a priority (R27). -/
def slotFree (h : Option SlotHold) (pri : Nat) : Bool := match h with | none => true | some h => decide (h.pri < pri)

/-- The slot of a core that an attempt takes (R29): an empty one first, else that of the lesson of lower priority. -/
def Core.pickSlot (k : Core) (pri : Nat) : Option Nat :=
  match slotFree k.slot0 pri, slotFree k.slot1 pri with
  | false, false => none
  | true, false => some 0
  | false, true => some 1
  | true, true => match k.slot0, k.slot1 with
    | none, _ => some 0
    | _, none => some 1
    | some a, some b => if b.pri < a.pri then some 1 else some 0

/-- Whether a seat may be taken: not marked for retirement, nor unavailable, nor on a headland that stays in reset (R314, R318). -/
def State.seatUp (s : State) (core : Nat) : Bool :=
  !(s.core core).retiring && !(s.core core).unavailable && !(s.head (hlOf core)).down
/-- Whether a seat may be given to a queued lesson: one that may be taken, where the sequencer of its headland does not wait to switch
images (R316). -/
def State.seatOpen (s : State) (core : Nat) : Bool :=
  s.seatUp core && !(s.head (hlOf core)).fwPending.any fun k => decide (2 ≤ k)

/-- The core at a column and row of a headland (R10). -/
def coreAt (hl x y : Nat) : Nat := hl * 256 + y * 16 + x
/-- The columns and rows of a rectangle, row by row. -/
def rect (w h : Nat) : List (Nat × Nat) := (List.range h).flatMap fun y => (List.range w).map fun x => (x, y)

/-- The first origin of a headland, in row-major order, whose rectangle is free (R28). -/
def State.origin (s : State) (r : BitVec 1024) (hl : Nat) : Option (Nat × Nat) :=
  (rect 16 12).find? fun o => decide (o.1 + lW r ≤ 16 ∧ o.2 + lH r ≤ 12) && (rect (lW r) (lH r)).all fun p =>
    let c := coreAt hl (o.1 + p.1) (o.2 + p.2)
    s.seatOpen c && ((s.core c).pickSlot (lPRI r)).isSome

/-- The aligned groups of d headlands (R27). -/
def groupsOfD (d : Nat) : List (List Nat) := (List.range (8 / d)).map fun g => (List.range d).map (g * d + ·)

/-- The placement of a new lesson: the seats of the first group with a rectangle on every headland (R28, R36). -/
def State.place (s : State) (r : BitVec 1024) : Option (List Seat) :=
  (groupsOfD (lD r)).findSome? fun g =>
    match g.mapM (s.origin r) with
    | none => none
    | some os => some ((g.zip os).zipIdx.flatMap fun e => (rect (lW r) (lH r)).map fun p =>
        let c := coreAt e.1.1 (e.1.2.1 + p.1) (e.1.2.2 + p.2)
        { core := c, slot := ((s.core c).pickSlot (lPRI r)).getD 0, x := p.1, y := p.2, ord := e.2
          idx := e.2 * (lW r * lH r) + p.2 * lW r + p.1 })

/-- The seats that an attempt for a lesson reserves: its claim if it is pre-empted (R32), where every seat of it may be taken (R318;
log 83), a switch of images waiting for it or not, since that waits for the lesson to end (R316). -/
def State.seatsFor (s : State) (l : Lesson) : Option (List Seat) :=
  if l.st = .preempted then
    (if l.seats.all fun se => s.seatUp se.core && slotFree ((s.core se.core).slot se.slot) l.pri then some l.seats else none)
  else s.place l.rcd

/-- Whether a lesson is attempted before another (R30, R31): by priority, the pre-empted first, contexts round-robin after the
one last admitted, then by number. -/
def State.attemptBefore (s : State) (a b : Lesson) : Bool :=
  let rank (l : Lesson) : List Nat :=
    [3 - l.pri, if l.st = .preempted then 0 else 1,
     match s.lastAdmitted with | none => l.ctx | some c => (l.ctx + 65536 - c - 1) % 65536, l.num]
  let lt : List Nat → List Nat → Bool := fun p q => decide (p < q)
  lt (rank a) (rank b)

/-- The waiting lessons that have a placement, with their seats (R28, R32). -/
def State.candidates (s : State) : List (Lesson × List Seat) :=
  s.lessons.filterMap fun l =>
    if (l.st = .queued ∨ l.st = .preempted) ∧ l.backoff = none then (s.seatsFor l).map fun p => (l, p) else none
/-- The first of some attempts in the order of R30. -/
def State.firstAttempt (s : State) (l : List (Lesson × List Seat)) : Option (Lesson × List Seat) :=
  l.foldl (fun (b : Option (Lesson × List Seat)) c => match b with
    | none => some c
    | some d => if s.attemptBefore c.1 d.1 then some c else some d) none
/-- The first n of some attempts in the order of R30. -/
def State.firstAttempts (s : State) : Nat → List (Lesson × List Seat) → List (Lesson × List Seat)
  | 0, _ => []
  | n + 1, l => match s.firstAttempt l with
    | none => []
    | some a => a :: s.firstAttempts n (l.erase a)
/-- The attempts that the registrar runs at once, four at most (R29, R30). -/
def State.attempts (s : State) : List (Lesson × List Seat) := s.firstAttempts 4 s.candidates
/-- The lesson attempted next with its seats (R28, R30): none where no waiting lesson has a placement. -/
def State.nextAttempt (s : State) : Option (Lesson × List Seat) := s.firstAttempt s.candidates

/-! ## Commit and eviction (R29 to R33) -/

/-- A lesson evicted by a commit on some cores: running or draining, it is pre-empted on every seat and keeps its claim; admitted,
its copies are abandoned and it is queued afresh (R31). The seats that the commit takes are arranged once it has taken them
(R146). -/
def State.evict (s : State) (ctx num : Nat) (taken : List Nat) : State :=
  match s.lesson ctx num with
  | none => s
  | some v =>
    if v.st = .admitted then
      let s := s.modLesson ctx num fun l => { l with st := .queued, k := 0, backoff := none, seats := [], reported := [] }
      v.seats.foldl (fun s se => s.releaseSeat ctx num se) s
    else
      let s := s.modLesson ctx num fun l => { l with st := .preempted, wasDraining := decide (l.st = .draining) }
      v.seats.foldl (fun s se =>
        let s := s.setCore se.core ((s.core se.core).setSlot se.slot none)
        if taken.contains se.core then s else s.arrange se.core) s

/-- The context state that a commit makes on a seat: flags zero, nothing loaded (R33). -/
def freshCtx (ctx num : Nat) : Ctx := { id := ctx, lesson := num, waitStart := true }

/-- A seat committed: the lesson that holds its slot is evicted, the slot taken, and a new lesson's context made the active one where
the core has none and none of higher priority is on its way to it, else put in its save area (R31, R33, R148). -/
def State.commitSeat (s : State) (l : Lesson) (taken : List Nat) (se : Seat) : State :=
  let s := match (s.core se.core).slot se.slot with | some h => s.evict h.ctx h.num taken | none => s
  let h : SlotHold := { ctx := l.ctx, num := l.num, pri := l.pri, lease := l.lease }
  let k := (s.core se.core).setSlot se.slot (some h)
  let s := if l.st = .preempted then s.setCore se.core k
    else if k.active ∨ k.wanted ≠ some h then { s.setCore se.core k with saves := s.saves.put (saveKey se.core l.ctx l.num) ⟨freshCtx l.ctx l.num⟩ }
    else (s.setCore se.core { k with active := true, live := freshCtx l.ctx l.num }).swapBanks se.core (freshCtx l.ctx l.num)
  s.arrange se.core

/-- A commit (R29): every seat taken in one step; a new lesson is admitted, a pre-empted one goes on where it was. -/
def State.commit (s : State) (l : Lesson) (seats : List Seat) : State :=
  let s := seats.foldl (fun s se => s.commitSeat l (seats.map (·.core)) se) s
  let st : LessonState := if l.st = .preempted then (if l.wasDraining then .draining else .running) else .admitted
  let s := s.modLesson l.ctx l.num fun l => { l with st := st, k := 0, backoff := none, seats := seats, reported := [] }
  { s with lastAdmitted := some l.ctx }

/-- Bits [5:0] of the registrar's counter, which advances with every clk from a phase that is open (R29). -/
def State.jitter (s : State) : Nat := (s.cycle + Config.registrarPhase s.phase) % 64

/-- A failed attempt: k grows, and the lesson is withheld for 64 × 2^min(k, 6) clk plus the jitter (R29). -/
def State.failAttempt (s : State) (l : Lesson) : State :=
  let k := l.k + 1
  s.modLesson l.ctx l.num fun l => { l with k := k, backoff := some (s.cycle + 64 * 2 ^ min k 6 + s.jitter) }

/-- Whether attempt j of those that run at once and another of them reserve one slot of a core (R29). -/
def State.contends (s : State) (j c : Nat) : Bool :=
  match s.attempts[j]? with
  | none => false
  | some (_, seats) => seats.any fun se => se.core == c && s.attempts.zipIdx.any fun e => e.2 != j && e.1.2.any fun q => q.core == c && q.slot == se.slot

/-- RESERVATION_ATTEMPT (R29): the first attempt in the order of R30 commits; or, `contended`, attempt j of those that run at once
fails, since another of them holds the slot that it reserves on core c (log 61). -/
def attemptEv (contended : Option (Nat × Nat)) (s : State) : Option State :=
  if !s.registrarUp then none
  else match contended with
    | none => s.nextAttempt.map fun a => s.commit a.1 a.2
    | some (j, c) => if s.contends j c then s.attempts[j]?.map fun a => s.failAttempt a.1 else none
def execReservationAttempt (contended : Option (Nat × Nat)) (s : State) : Host.Outcome State Fault Refusal := event (attemptEv contended) s

/-- BACKOFF_EXPIRY (R29). -/
def backoffEv (ctx num : Nat) (s : State) : Option State :=
  match (s.lesson ctx num).bind (·.backoff) with
  | some t => if t ≤ s.cycle then some (s.modLesson ctx num fun l => { l with backoff := none }) else none
  | none => none
def execBackoffExpiry (ctx : Nat) (num : Nat) (s : State) : Host.Outcome State Fault Refusal := event (backoffEv ctx num) s

/-- REGISTRAR_TAKEOVER (R20, R157): the other registrar, on a headland that is up, serves; the reservations that the attempts of that
moment hold are released, and their lessons restart admission with a count of zero (log 61). -/
def takeoverEv (s : State) : Option State :=
  if (s.head (if s.standby then 0 else 4)).down then none else
  let held := s.attempts.map fun a => (a.1.ctx, a.1.num)
  let s := { s with
    standby := !s.standby
    phase := s.phase + 1
    lessons := s.lessons.map fun (l : Lesson) =>
      if l.st = LessonState.reserving then { l with st := .queued, k := 0, backoff := none, seats := [] }
      else if held.contains (l.ctx, l.num) then { l with k := 0 } else l }
  some (s.blackBox (if s.standby then 4 else 0) { time := s.time, kind := 0x16, code := (Config.eventCode 0x16 2).toNat })
def execRegistrarTakeover (s : State) : Host.Outcome State Fault Refusal := event takeoverEv s

/-! ## The copies of a start (R23, R33, R34) -/

/-- A fault of a sequencer's copy: its cause, and for ECC the core it copies for and the address of the word (R34, R157). -/
structure SeqBad where
  cause : Nat
  core : Nat := 0
  addr : Nat := 0
deriving DecidableEq, Repr
/-- ECC of a place as a copy for a core meets it. -/
def Place.seqEcc (p : Place) (core : Nat) : SeqBad := ⟨cECC, core, p.faultAddr⟩

/-- What a part of the copies comes to: done, a fault, each with the state it leaves, or a wait for gated units (R302), or for a held
group or an absent context (none named). -/
inductive SeqRes (α : Type) where
  | done (s : State) (a : α)
  | bad (s : State) (b : SeqBad)
  | waits (l : List (Nat × Nat))
/-- The next part of the copies, where the one before is done. -/
def SeqRes.next {α β : Type} (r : SeqRes α) (f : State → α → SeqRes β) : SeqRes β :=
  match r with
  | .done s a => f s a
  | .bad s b => .bad s b
  | .waits l => .waits l

/-- Places that a sequencer reads: the correctable errors of their scratchpad words and tier-1 bursts are corrected and counted (R63,
R64, R317). -/
def State.seqMeet (s : State) (ps : List Place) : State :=
  let hit := s.softTier1.filter fun e => ps.any fun p => match p with
    | .tier1 st h off => decide (e.1 = st * 2 ^ 32 + h ∧ e.2 / 8 = off / 64)
    | _ => false
  (hit.foldl (fun s e => s.correctTier1 e.1 [e.2]) s).meet ps

/-- Places read for a core, `late` where the object's deadline has passed: the wait for gated units and held groups, then ECC or
EXPIRED; the places before an uncorrectable one have been read (R34, R57, R64, R302). -/
def State.seqRead (s : State) (core : Nat) (late : Bool) (ps : List Place) : SeqRes (List Place) :=
  let gates := s.engGated ps
  if !gates.isEmpty || s.engBlocked ps then .waits gates
  else if late && !(ps.head?.map s.badRead).getD false then .bad s { cause := cEXPIRED }
  else match ps.find? s.badRead with
    | some p => .bad (s.seqMeet (ps.takeWhile fun q => !s.badRead q)) (p.seqEcc core)
    | none => .done (s.seqMeet ps) ps

/-- The places of bytes of an object as a sequencer reads them for a seat, or the cause of its fault: PAGE, ACCESS, then ECC or
EXPIRED (R34). -/
def State.seqSource (s : State) (core ctx : Nat) (o : ObjEntry) (offs : List Nat) : SeqRes (List Place) :=
  let root := (s.context ctx).ptbase
  let at1 (off : Nat) : Except SeqBad Place := match o.kind with
    | 1 => .ok (.tier1 (bits o.home 34 32) (bits o.home 31 0) off)
    | 2 => match s.engPage ctx root (o.addr off : Nat) false false with
      | .absent => .error { cause := cPAGE }
      | .forbidden => .error { cause := cACCESS }
      | .ecc p => .error (p.seqEcc core)
      | .at p => .ok p
    | _ => match onChip core (o.addr off) with
      | some p => .ok (.win p.1 ctx p.2)
      | none => .error { cause := cACCESS }
  match offs.mapM at1 with
  | .error e => .bad s e
  | .ok ps => s.seqRead core (decide (o.life = 1 ∧ o.deadline ≤ s.time)) ps

/-- Bytes that a sequencer writes into a seat's bank group: its save area keeps them where it keeps the group, or where the bytes of
another context stand in the group (R147); else the group's unit wakes first (R302), and a part of an uncorrectable word faults ECC,
with no byte of the run written (R64; log 79). -/
def State.seqWrite (s : State) (core : Nat) (x : Ctx) (off : Nat) (bs : List Byte) : SeqRes Unit :=
  let g := off / 0x80000
  if s.bankKept core x g || s.bankOwners core x g ≠ [] then
    let key := saveKey core x.id x.lesson * 4 + g
    .done { s with bankSaves := s.bankSaves.put key (SMap.fill 0 (s.bankSaves.get [] key) (off % 0x80000) bs.length fun i => bs.getD i 0) } ()
  else if s.gated core g then .waits [(core, g)]
  else match s.partialBad (placeRun (.win core x.id off) bs) with
    | some p => .bad s (p.seqEcc core)
    | none => .done ((s.padWrite core off bs).padHeal core off bs.length) ()

/-- The program object copied into a seat's instruction image, each word scanned (R33). -/
def State.copyProgram (s : State) (l : Lesson) (se : Seat) : SeqRes Unit :=
  let o := s.objEntry l.ctx (lPROG l.rcd)
  let n := o.dims.getD 0 0
  if !(o.kind != 0 && o.rd && o.ov) then .bad s { cause := cOBJ }
  else (s.seqSource se.core l.ctx o (List.range n)).next fun s ps =>
    let bs := ps.map s.byte
    let ws := (List.range (n / 8)).map fun i => BitVec.ofNat 64 (leNat ((bs.drop (8 * i)).take 8))
    if ws.any fun w => scan w != 0 then .bad s { cause := cOVERLAY }
    else .done (s.modSeat se.core l.ctx l.num fun x => { x with words := ws.zipIdx.map fun e => (e.2, ⟨e.1, .exec⟩) }) ()

/-- The bits of a row of an object packed as its row stands (R23, R70). -/
def State.rowBits (s : State) (core ctx : Nat) (o : ObjEntry) (row : Nat) : SeqRes (List Byte) :=
  if o.rank = 1 then
    let total := (o.dims.getD 0 0 * elemBits o.fmt + 7) / 8
    (s.seqSource core ctx o ((List.range (min 64 (total - 64 * row))).map (64 * row + ·))).next fun s ps => .done s (ps.map s.byte)
  else
    let n := o.dims.getD (o.rank - 1) 0
    let eb := elemBits o.fmt
    let idx (j : Nat) : Nat := row * o.strides.getD (o.rank - 2) 0 + j * o.strides.getD (o.rank - 1) 0
    let offs := (List.range n).flatMap fun j => let (b, k, _) := packing eb (idx j); (List.range k).map (b + ·)
    (s.seqSource core ctx o offs).next fun s _ =>
      let f := s.finder core ctx [] (s.context ctx).ptbase
      .done s (natLe (rowBytes o) ((List.range n).foldl (fun v j => v + s.rawElem f o eb (idx j) * 2 ^ (eb * j)) 0))

/-- Parts of the copies taken in order until one faults or waits. -/
def runAll {α : Type} (f : State → α → SeqRes Unit) : List α → State → SeqRes Unit
  | [], s => .done s ()
  | a :: r, s => (f s a).next fun s _ => runAll f r s

/-- A prefetch entry performed for a seat (R23, R33). -/
def State.copyPrefetch (s : State) (l : Lesson) (se : Seat) (e : BitVec 128) : SeqRes Unit :=
  let o := s.objEntry l.ctx (preOBJ e)
  let row0 := entROW0 e + (if bits (eW e 0) 31 31 = 1 then preROWS e * se.idx else 0)
  if o.kind = 0 ∨ ¬ o.rd ∨ rowCount o < row0 + preROWS e then .bad s { cause := cOBJ }
  else runAll (fun s i => (s.rowBits se.core l.ctx o (row0 + i)).next fun s bs =>
      s.seqWrite se.core (freshCtx l.ctx l.num) (preBG e * 0x80000 + preOFF e + i * rowPitch o) bs) (List.range (preROWS e)) s

/-- The highest bank group of a lease, and the offset of the argument block (R33, R37). -/
def topGroup (lease : Nat) : Nat := (((List.range 4).filter lease.testBit).getLast?).getD 0
def argOff (r : BitVec 1024) : Nat := (topGroup (lLEASE r) + 1) * 0x80000 - lABLEN r

/-- The argument block copied to the top of the highest leased group (R33). -/
def State.copyArgs (s : State) (l : Lesson) (se : Seat) : SeqRes Unit :=
  let n := lABLEN l.rcd
  if n = 0 then .done s ()
  else match s.engRun l.ctx (s.context l.ctx).ptbase (lABADDR l.rcd) n false false with
    | .error (.absent _) => .bad s { cause := cPAGE }
    | .error .forbidden => .bad s { cause := cACCESS }
    | .error (.ecc p) => .bad s (p.seqEcc se.core)
    | .ok ps => (s.seqRead se.core false ps).next fun s ps =>
      s.seqWrite se.core (freshCtx l.ctx l.num) (argOff l.rcd) (ps.map s.byte)

/-- A seat's context with a plane slot changed: where it is the active one, MX of the core wakes first (R302). -/
def State.planeWrite (s : State) (l : Lesson) (se : Seat) (f : Ctx → Ctx) : SeqRes Unit :=
  let x := s.live se.core
  if (s.core se.core).active && decide (x.id = l.ctx ∧ x.lesson = l.num) && s.gated se.core 5 then .waits [(se.core, 5)]
  else .done (s.modSeat se.core l.ctx l.num f) ()

/-- A plane entry performed for a seat: PDIR, then PLOAD from the object's rows or, for role G, a clear (R23, R33). The object may have
any home, one in paged memory too, which R206 forbids a PLOAD (DESIGN CHOICE, log 79). -/
def State.copyPlane (s : State) (l : Lesson) (se : Seat) (e : BitVec 128) : SeqRes Unit :=
  let slot := plnSLOT e
  let tag : BitVec 16 := BitVec.ofNat 16 (plnTAG e)
  if plnROLE e = 1 then
    s.planeWrite l se fun x => (x.setDir slot tag true).clearSlot slot false
  else
    let o := s.objEntry l.ctx (plnOBJ e)
    let row0 := entROW0 e
    let ext := if o.rank = 1 then 1 else o.dims.getD (o.rank - 2) 0
    let w := min 64 (o.dims.getD (o.rank - 1) 0)
    let rows := min (if quadFmt o.fmt then 256 else 64) (ext - row0)
    let raw : BitVec 256 := BitVec.ofNat 256 (plnOBJ e * 2 ^ 240 + (if o.rank = 1 then 0 else row0 * 2 ^ (160 - 32 * (o.rank - 2))))
    let st : RStream := { raw := raw, ctx := l.ctx, obj := o, sobj := s.objEntry l.ctx o.sobj, zobj := s.objEntry l.ctx o.zobj }
    if ext ≤ row0 ∨ !(st.fieldsOk false true false false false && (matrixFmt o.fmt || o.fmt == 0x01 || o.fmt == 0x11) && quadOk st)
        ∨ !st.tileOk true rows w false then .bad s { cause := cOBJ }
    else
      let es := (List.range rows).flatMap fun k => st.rowEles true w k none
      let cs := es.filterMap fun e => match e with | .at c => some c | _ => none
      let offs (eb : Nat) (is : List Nat) : List Nat :=
        is.flatMap fun i => let (b, n, _) := packing eb i; (List.range n).map (b + ·)
      let srcs := [(o, offs (elemBits o.fmt) (cs.map st.idx))]
        ++ (if scaled o.fmt then [(st.sobj, offs st.sobj.ebits (cs.map st.scaleIdx))] else [])
        ++ (if (obBits o.fmt).isSome then [(st.zobj, offs st.zobj.ebits (cs.map st.zpIdx))] else [])
      (runAll (fun s p => (s.seqSource se.core l.ctx p.1 p.2).next fun s _ => .done s ()) srcs s).next fun s _ =>
        let f := s.finder se.core l.ctx [] (s.context l.ctx).ptbase
        let data := es.map (s.readNum f st)
        s.planeWrite l se fun x => (x.setDir slot tag false).loadSlot slot w o.fmt data

/-- The copies of a seat in the order of R33. -/
def State.copySeat (l : Lesson) (s : State) (se : Seat) : SeqRes Unit :=
  let n := lNPRE l.rcd
  (s.copyProgram l se).next fun s _ =>
  (runAll (fun s e => s.copyPrefetch l se e) (l.entries.take n) s).next fun s _ =>
  (s.copyArgs l se).next fun s _ => runAll (fun s e => s.copyPlane l se e) (l.entries.drop n) s

/-- The seats of a lesson on a headland. -/
def Lesson.seatsOn (l : Lesson) (hl : Nat) : List Seat := l.seats.filter fun se => hlOf se.core = hl

/-- The copies of a headland's seats for an admitted lesson that it has not reported (R33); none where there is nothing to
copy. -/
def State.copies (s : State) (hl ctx num : Nat) : Option (SeqRes Unit) :=
  match s.lesson ctx num with
  | none => none
  | some l =>
    if l.st ≠ .admitted ∨ l.reported.contains hl ∨ (l.seatsOn hl).isEmpty then none
    else some (runAll (State.copySeat l) (l.seatsOn hl) s)

/-- RESIDENCY_REPORT (R33): every copy of a headland retires, and its sequencer reports; where a copy meets a gated unit the unit
wakes first (R302). -/
def reportEv (hl ctx num : Nat) (s : State) : Option State :=
  match s.copies hl ctx num with
  | some (.done s _) => some (s.modLesson ctx num fun l => { l with reported := l.reported ++ [hl] })
  | some (.waits l) => s.engWake l
  | _ => none
def execResidencyReport (hl : Nat) (ctx : Nat) (num : Nat) (s : State) : Host.Outcome State Fault Refusal :=
  event (reportEv hl ctx num) s

/-- LESSON_COPY_FAULT (R34, R157): a copy of a headland faults, and the lesson retires faulted with its cause; a gated unit that a
copy before it meets wakes first (R302). -/
def copyFaultEv (hl ctx num : Nat) (s : State) : Option State :=
  match s.copies hl ctx num with
  | some (.bad s b) => some ((if b.cause = cECC then s.eccBox b.core 0 ctx b.addr else s).endLesson ctx num 3 b.cause)
  | some (.waits l) => s.engWake l
  | _ => none
def execLessonCopyFault (hl : Nat) (ctx : Nat) (num : Nat) (s : State) : Host.Outcome State Fault Refusal :=
  event (copyFaultEv hl ctx num) s

/-! ## Start (R35 to R37) -/

/-- The range of a level on a seat (R35). -/
def levelRange (r : BitVec 1024) (se : Seat) (l : Nat) : Nat × Nat :=
  let b := lBEGIN r l
  let c := lEND r l - b
  let part (i n : Nat) : Nat × Nat := (b + c * i / n, b + c * (i + 1) / n)
  match lKIND r l with
  | 1 => part (se.y * lW r + se.x) (lW r * lH r)
  | 2 => part se.ord (lD r)
  | _ => (b, b + c)

/-- The architectural state of a seat at its start (R37): what the copies and other seats have written stays. -/
def State.startCtx (s : State) (l : Lesson) (se : Seat) (x : Ctx) : Ctx :=
  let r := l.rcd
  let c := s.context l.ctx
  let n := lW r * lH r * lD r
  let g : List (Nat × W64) := [(1, BitVec.ofNat 64 se.idx), (2, BitVec.ofNat 64 n),
      (3, if lABLEN r = 0 then 0 else BitVec.ofNat 64 (2 ^ 63 + argOff r))]
    ++ (List.range 6).map fun i => (4 + i, if i < lNARG r then BitVec.ofNat 64 (lARG r i) else 0)
  let sys : SMap W64 := [(snSEAT, BitVec.ofNat 64 se.idx), (snCLASSSZ, BitVec.ofNat 64 n)]
    ++ ((lLevels r).map fun i => let v := levelRange r se i; (snLVL0 + i, BitVec.ofNat 64 (v.2 * 2 ^ 32 + v.1)))
    ++ [(snWDOG, c.wdog.getD Config.wdogCfg), (snSCOPEBASE, c.scopebase), (snPTBASE, c.ptbase), (snPREEMPT, BitVec.ofNat 64 l.slice)]
  { freshCtx l.ctx l.num with
    waitStart := false
    pc := BitVec.ofNat 64 (lENTRY r)
    g := g
    sys := sys
    f := x.f
    flagBy := x.flagBy
    words := x.words
    planes := x.planes
    dir := x.dir
    badSlot := x.badSlot
    pend := x.pend }

/-- A seat started: every unit of its core open, and a TIMER that waited for the start raised (R37, R146; log 72). -/
def State.startSeat (s : State) (l : Lesson) (se : Seat) : State :=
  let s := (s.setCore se.core (s.core se.core).openGates).modSeat se.core l.ctx l.num (s.startCtx l se)
  let s := s.arrange se.core
  if (s.core se.core).timerDue then s.raiseTimer se.core else s

/-- LESSON_START (R33, R37): every sequencer has reported, and the seats start. -/
def startLessonEv (ctx num : Nat) (s : State) : Option State :=
  match s.lesson ctx num with
  | none => none
  | some l =>
    if l.st ≠ .admitted ∨ ¬ l.seats.all fun se => l.reported.contains (hlOf se.core) then none
    else
      let s := s.modLesson ctx num fun l => { l with st := .running }
      some (l.seats.foldl (fun s se => s.startSeat l se) s)
def execLessonStart (ctx : Nat) (num : Nat) (s : State) : Host.Outcome State Fault Refusal := event (startLessonEv ctx num) s

/-! ## The end of a lesson (R26, R38) -/

/-- Whether a seat of a draining lesson has nothing left. -/
def State.seatDrained (s : State) (l : Lesson) (se : Seat) : Bool :=
  (match s.seatCtx se.core l.ctx l.num with
    | some x => x.ld.isEmpty && x.st.isEmpty && x.vx.isEmpty && x.mx.isEmpty && x.lane.isEmpty && x.path.isEmpty && x.held.isNone
    | none => true)
  && !((s.core se.core).ops.any fun o => o.ctx == l.ctx && o.lesson == l.num)

/-- LESSON_RETIRE (R26, R38). -/
def retireLessonEv (ctx num : Nat) (s : State) : Option State :=
  match s.lesson ctx num with
  | none => none
  | some l =>
    if l.st ≠ .draining ∨ ¬ l.seats.all (s.seatDrained l) ∨ s.recs.any fun r => r.ctx = ctx ∧ r.lesson = num then none
    else some (s.endLesson ctx num 1 0)
def execLessonRetire (ctx : Nat) (num : Nat) (s : State) : Host.Outcome State Fault Refusal := event (retireLessonEv ctx num) s

/-- SUPERVISOR_LESSON_END (R26): a running or pre-empted lesson ends faulted. -/
def lessonEndEv (ctx num cause : Nat) (s : State) : Option State :=
  match s.lesson ctx num with
  | none => none
  | some l => if l.st = .running ∨ l.st = .preempted then some (s.endLesson ctx num 3 cause) else none
def execSupervisorLessonEnd (ctx : Nat) (num : Nat) (cause : Nat) (s : State) : Host.Outcome State Fault Refusal :=
  event (lessonEndEv ctx num cause) s

/-! ## Time slices and streams (R31, R144, R146) -/

/-- TIME_SLICE_EXPIRY (R31): PREEMPT of a seat's active context is zero; TIMER is raised on each seat of the class where its
lesson is active and shares the seat with an equal, and every seat reloads. A slice configured as zero never expires (DESIGN
CHOICE, log 80). -/
def sliceEv (core : Nat) (s : State) : Option State :=
  let x := s.live core
  match s.lesson x.id x.lesson with
  | none => none
  | some l =>
    if ¬ (s.core core).active ∨ x.waitStart ∨ x.sr snPREEMPT ≠ 0 ∨ l.slice = 0 then none
    else some (l.seats.foldl (fun s se =>
      let s := if (s.core se.core).active && (s.live se.core).isOf l.ctx l.num then s.raiseTimer se.core else s
      s.modSeat se.core l.ctx l.num fun x => x.setSr snPREEMPT (BitVec.ofNat 64 l.slice)) s)
def execTimeSliceExpiry (core : Nat) (s : State) : Host.Outcome State Fault Refusal := event (sliceEv core) s

/-- CONTEXT_STREAM_COMPLETE (R144, R146): a store has streamed in or out; a failed CRC on the way in ends the lesson with
ECC. -/
def streamEv (core n : Nat) (ok : Bool) (s : State) : Option State :=
  let k := s.core core
  let sh := k.store n
  if 2 ≤ n then none
  else match sh.st with
    | .streamOut =>
      let s := s.setCore core (k.setStore n {})
      let s := { s with saves := s.saves.put (saveKey core sh.ctx.id sh.ctx.lesson) ⟨sh.ctx⟩ }
      let s := if s.evicted sh.ctx then
          ((List.range 4).filter fun g => (s.ctxLease core sh.ctx).testBit g && !s.bankKept core sh.ctx g).foldl
            (fun s g => s.bankOut core sh.ctx g) s
        else s
      some (s.arrange core)
    | .streamIn =>
      if ok then
        let s := s.setCore core (k.setStore n { sh with st := .resident })
        let s := { s with saves := s.saves.erase (saveKey core sh.ctx.id sh.ctx.lesson) }
        let s := s.arrange core
        some (if (s.core core).timerDue then s.raiseTimer core else s)
      else some ((s.setCore core (k.setStore n {})).endLesson sh.ctx.id sh.ctx.lesson 3 cECC)
    | _ => none
def execContextStreamComplete (core : Nat) (store : Nat) (crcOk : Bool) (s : State) : Host.Outcome State Fault Refusal :=
  event (streamEv core store crcOk) s

end Sys2Proof.Machine
end

