-- ==== Sys2Proof/Machine/Ring.lean ====
section
/-! DEFINITION. The command rings (R309 to R311) and the commands of the sequencers and prefects: objects, the DRAM stack,
the scanner, the trace ring, context pages, repair, tier-2 sites and firmware (R58, R59, R70, R99, R154, R306, R310, R316,
R318 to R320). -/

namespace Sys2Proof.Machine

/-! ## Slots (R309) -/

/-- A command slot: its number and the fields of its words 0 to 2. -/
structure Slot where
  num : Nat
  op : Nat
  ctx : Nat
  obj : Nat
  hl : Nat
  low : Nat
  a : Nat
  b : Nat
deriving DecidableEq, Repr

/-- The address of slot k of a headland's ring. -/
def slotAddr (hl k : Nat) : Nat := Config.ringBase hl + 0x40 + 32 * (k % 510)

/-- A 64-bit word of tier-2. -/
def State.t2word (s : State) (a : Nat) : Nat := leNat (s.bytes (.tier2 a) 8)

/-- The slot that the sequencer of a headland performs next, as far as it has read TAIL; none while it has none. -/
def State.slot (s : State) (hl : Nat) : Option Slot :=
  let k := s.t2word (Config.ringBase hl + 8)
  if 8 ≤ hl ∨ (s.head hl).down ∨ (s.head hl).tail ≤ k then none
  else
    let w0 := s.t2word (slotAddr hl k)
    some { num := k, op := bits w0 63 56, ctx := bits w0 47 32, obj := bits w0 31 16, hl := bits w0 15 8, low := bits w0 7 0,
           a := s.t2word (slotAddr hl k + 8), b := s.t2word (slotAddr hl k + 16) }

/-- A slot answered (R309): RESULT, STATUS, then HEAD. RESULT is a free value where the command states none. -/
def State.answer (s : State) (hl : Nat) (sl : Slot) (status : Nat) (result : Option W64) : State :=
  let v := result.getD (Config.freeReport s.freeCtr)
  let s := if result.isNone then { s with freeCtr := s.freeCtr + 1 } else s
  ((s.store (.tier2 (slotAddr hl sl.num + 24)) (natLe 8 v.toNat)).store (.tier2 (slotAddr hl sl.num + 6)) [BitVec.ofNat 8 status]).store
    (.tier2 (Config.ringBase hl + 8)) (natLe 8 (sl.num + 1))

/-- STATUS codes (R309). -/
def stDone : Nat := 0
def stBadField : Nat := 1
def stWrongState : Nat := 2
def stNoCapacity : Nat := 3
def stRefused : Nat := 4

/-- What a command comes to: it waits, or it answers a status and a result, with its effect. -/
abbrev Reply := Option (State × Nat × Option W64)

/-- A command performed: its slot is next, and a non-zero reserved field is answered without effect (R310). -/
def ringCmd (ops : Slot → Bool) (f : Slot → State → Reply) (hl : Nat) (s : State) : Option State :=
  match s.slot hl with
  | none => none
  | some sl =>
    if !ops sl then none
    else if sl.low ≠ 0 then some (s.answer hl sl stBadField none)
    else match f sl s with
      | none => none
      | some (s', st, r) => some (s'.answer hl sl st r)

/-- Commands of the table (R310). -/
def knownOp (op : Nat) : Bool := (decide (1 ≤ op) && decide (op ≤ 8)) || (decide (0x10 ≤ op) && decide (op ≤ 0x15))

/-- RING_POLL (R309, R310): TAIL is read; a slot whose OP is no command's is answered. -/
def pollEv (hl : Nat) (s : State) : Option State :=
  if 8 ≤ hl ∨ (s.head hl).down then none
  else
    let t := s.t2word (Config.ringBase hl)
    let s' := s.setHead hl { s.head hl with tail := t }
    match s'.slot hl with
    | some sl => if !knownOp sl.op then some (s'.answer hl sl stBadField none) else if t = (s.head hl).tail then none else some s'
    | none => if t = (s.head hl).tail then none else some s'
def execRingPoll (hl : Nat) (s : State) : Host.Outcome State Fault Refusal := event (pollEv hl) s

/-! ## Objects (R58, R59, R70, R311) -/

/-- The entry that an image of 128 bytes gives (R58). -/
def imageEntry (bs : List Byte) : ObjEntry :=
  let w (off n : Nat) : Nat := leNat ((bs.drop off).take n)
  let w0 := w 0 8
  let rank := bits w0 55 53
  { kind := bits w0 63 62
    fmt := bits w0 60 56
    rank := rank
    rd := decide (bits w0 52 52 = 1)
    wr := decide (bits w0 51 51 = 1)
    ov := decide (bits w0 50 50 = 1)
    emir := decide (bits w0 49 49 = 1)
    eval := decide (bits w0 48 48 = 1)
    life := bits w0 47 46
    qaxis := bits w0 45 43
    owner := bits w0 31 16
    home := w 8 8
    dims := (List.range rank).map fun i => w (0x10 + 4 * i) 4
    strides := (List.range rank).map fun i => w (0x28 + 8 * i) 6
    blen := w 0x58 1
    zobj := w 0x62 2
    sobj := w 0x60 2
    deadline := w 0x68 8 }

/-- Whether an image is free of reserved values and non-zero reserved fields, and meets the packing rules of R70. -/
def imageOk (bs : List Byte) : Bool :=
  let w (off n : Nat) : Nat := leNat ((bs.drop off).take n)
  let w0 := w 0 8
  let o := imageEntry bs
  let step := if elemBits o.fmt = 4 then 2 else if elemBits o.fmt = 6 then 4 else 1
  decide (o.kind ≠ 0 ∧ bits w0 61 61 = 0 ∧ 1 ≤ o.fmt ∧ o.fmt ≤ 0x12 ∧ 1 ≤ o.rank ∧ o.rank ≤ 6 ∧ o.life ≤ 1)
    && decide (o.qaxis < o.rank ∨ o.qaxis = 7) && decide (bits w0 42 32 = 0 ∧ bits w0 15 0 = 0)
    && decide (o.kind ≠ 1 ∨ bits o.home 63 35 = 0)
    && ((List.range 6).all fun i => decide (i < o.rank ∨ w (0x10 + 4 * i) 4 = 0) && w (0x28 + 8 * i + 6) 2 == 0)
    && decide (w 0x59 7 = 0 ∧ w 0x64 4 = 0 ∧ w 0x70 16 = 0)
    && (step == 1 || (o.strides.getLastD 0 == 1 && o.dims.getLastD 0 % step == 0 && o.strides.dropLast.all fun t => t % step == 0))

/-- Bytes that an object takes of its home. -/
def ObjEntry.extent (o : ObjEntry) : Nat :=
  if o.dims.any (· == 0) then 0
  else (((o.dims.zip o.strides).map fun e => (e.1 - 1) * e.2).sum * elemBits o.fmt + elemBits o.fmt + 7) / 8

/-- Usable bytes of a stack (R15, R310, R320): its capacity less what spares have replaced. -/
def State.usable (s : State) (hl : Nat) : Nat :=
  (Config.identCfg.extractLsb' 20 8).toNat * 2 ^ 30 - Config.rowBytes * (s.head hl).sparedRows.length
    - Config.bankBytes * (s.head hl).sparedBanks.length
/-- Bytes of a stack that extents take. -/
def State.allocated (s : State) (hl : Nat) : Nat :=
  ((s.contexts.flatMap fun c => c.2.objs).map fun e =>
    if e.2.kind = 1 ∧ bits e.2.home 34 32 = hl then e.2.extent else 0).sum

/-- OCREATE (R310, R311): the index is empty, and for KIND 01 the prefect of stack HL allocates the extent; one in reset refuses (R314,
log 66). -/
def ocreateCmd (sl : Slot) (s : State) : Reply :=
  let bs := s.bytes (.tier2 sl.a) 128
  let o := imageEntry bs
  if sl.obj = 0 ∨ imageOk bs = false ∨ (o.kind = 1 ∧ 8 ≤ sl.hl) then some (s, stBadField, none)
  else if (s.objEntry sl.ctx sl.obj).kind ≠ 0 then some (s, stWrongState, none)
  else
    let put (s : State) (o : ObjEntry) : State :=
      let c := s.context sl.ctx
      s.setContext sl.ctx { c with objs := c.objs.put sl.obj o, counts := c.counts.erase sl.obj }
    if o.kind ≠ 1 then some (put s o, stDone, none)
    else if (s.head sl.hl).down then some (s, stRefused, none)
    else if s.usable sl.hl < s.allocated sl.hl + o.extent then some (s, stNoCapacity, none)
    else
      let h := s.head sl.hl
      some (put (s.setHead sl.hl { h with nextHandle := h.nextHandle + 1 }) { o with home := sl.hl * 2 ^ 32 + h.nextHandle },
        stDone, some (BitVec.ofNat 64 h.nextHandle))
def execOcreate (hl : Nat) (s : State) : Host.Outcome State Fault Refusal := event (ringCmd (·.op == 0x01) ocreateCmd hl) s

/-- ODESTROY (R59, R310): waits until the in-flight count is zero, then empties the entry and frees its extent. -/
def odestroyCmd (sl : Slot) (s : State) : Reply :=
  let c := s.context sl.ctx
  let o := s.objEntry sl.ctx sl.obj
  if o.kind = 0 then some (s, stWrongState, none)
  else if c.counts.get 0 sl.obj ≠ 0 then none
  else
    let s := s.setContext sl.ctx { c with objs := c.objs.erase sl.obj, counts := c.counts.erase sl.obj }
    let key := bits o.home 34 32 * 2 ^ 32 + bits o.home 31 0
    some (if o.kind = 1 then { s with tier1 := s.tier1.erase key, badTier1 := s.badTier1.filter (·.1 != key) } else s, stDone, none)
def execOdestroy (hl : Nat) (s : State) : Host.Outcome State Fault Refusal := event (ringCmd (·.op == 0x02) odestroyCmd hl) s

/-- OLIFE (R59, R310): rewrites LIFE and DEADLINE once the commands that name the entry have retired. -/
def olifeCmd (sl : Slot) (s : State) : Reply :=
  let c := s.context sl.ctx
  let o := s.objEntry sl.ctx sl.obj
  if 2 ≤ sl.a then some (s, stBadField, none)
  else if o.kind = 0 then some (s, stWrongState, none)
  else if c.counts.get 0 sl.obj ≠ 0 then none
  else some (s.setContext sl.ctx { c with objs := c.objs.put sl.obj { o with life := sl.a, deadline := sl.b } }, stDone, none)
def execOlife (hl : Nat) (s : State) : Host.Outcome State Fault Refusal := event (ringCmd (·.op == 0x03) olifeCmd hl) s

/-! ## The stack (R310, R320) -/

/-- Words with a correctable error that a range of a stack holds: base and size in bytes, as ARGA and ARGB give them (DESIGN CHOICE,
log 25). -/
def State.softIn (s : State) (hl base size : Nat) : List (Nat × Nat) :=
  s.softTier1.filter fun e => e.1 / 2 ^ 32 == hl && (List.range 8).any fun i =>
    let b := Config.stackByte hl (e.1 % 2 ^ 32) (8 * e.2 + i)
    decide (base ≤ b ∧ b < base + size)
/-- SCRUB (R310): the range is read and corrected; RESULT is the corrected count. -/
def scrubCmd (sl : Slot) (s : State) : Reply :=
  if 8 ≤ sl.hl then some (s, stBadField, none)
  else if (s.head sl.hl).down then some (s, stRefused, none)
  else
    let l := s.softIn sl.hl sl.a sl.b
    some (l.foldl (fun s e => s.correctTier1 e.1 [e.2]) s, stDone, some (BitVec.ofNat 64 l.length))
def execScrub (hl : Nat) (s : State) : Host.Outcome State Fault Refusal := event (ringCmd (·.op == 0x04) scrubCmd hl) s

/-- A row or a bank of a stack remapped to a spare, if one is left. -/
def State.spareRow (s : State) (hl row : Nat) : Option State :=
  let h := s.head hl
  if Config.spareRows hl ≤ h.sparedRows.length then none
  else some (s.setHead hl { h with sparedRows := h.sparedRows ++ [row], corrected := h.corrected.filter (·.1 != row) })
def State.spareBank (s : State) (hl bank : Nat) : Option State :=
  let h := s.head hl
  if Config.spareBanks hl ≤ h.sparedBanks.length then none
  else some (s.setHead hl { h with sparedBanks := h.sparedBanks ++ [bank] })
/-- The key of a row: bank * 2^24 + row. -/
def rowKey (bank row : Nat) : Nat := bank * 2 ^ 24 + row

/-- SPARE (R310). -/
def spareCmd (sl : Slot) (s : State) : Reply :=
  if 8 ≤ sl.hl ∨ bits sl.a 63 32 ≠ 0 ∨ 2 ≤ sl.b then some (s, stBadField, none)
  else if (s.head sl.hl).down then some (s, stRefused, none)
  else match (if sl.b = 0 then s.spareRow sl.hl (rowKey (bits sl.a 7 0) (bits sl.a 31 8)) else s.spareBank sl.hl (bits sl.a 7 0)) with
    | some s' => some (s', stDone, none)
    | none => some (s, stNoCapacity, none)
def execSpare (hl : Nat) (s : State) : Host.Outcome State Fault Refusal := event (ringCmd (·.op == 0x05) spareCmd hl) s

/-- CAPREP (R310, R320). -/
def caprepCmd (sl : Slot) (s : State) : Reply :=
  if 8 ≤ sl.hl then some (s, stBadField, none)
  else if (s.head sl.hl).down then some (s, stRefused, none)
  else some (s, stDone, some (BitVec.ofNat 64 (s.usable sl.hl)))
def execCaprep (hl : Nat) (s : State) : Host.Outcome State Fault Refusal := event (ringCmd (·.op == 0x06) caprepCmd hl) s

/-- THERM (R310): a temperature in [15:0], a free value. -/
def thermCmd (sl : Slot) (s : State) : Reply :=
  if 8 ≤ sl.hl then some (s, stBadField, none)
  else if (s.head sl.hl).down then some (s, stRefused, none)
  else some ({ s with freeCtr := s.freeCtr + 1 }, stDone, some (Config.freeReport s.freeCtr &&& 0xFFFF))
def execTherm (hl : Nat) (s : State) : Host.Outcome State Fault Refusal := event (ringCmd (·.op == 0x07) thermCmd hl) s

/-- RETEN (R310): a time in ms, a free value. -/
def retenCmd (sl : Slot) (s : State) : Reply :=
  some (s, if 8 ≤ sl.hl then stBadField else if (s.head sl.hl).down then stRefused else stDone, none)
def execReten (hl : Nat) (s : State) : Host.Outcome State Fault Refusal := event (ringCmd (·.op == 0x08) retenCmd hl) s

/-! ## The scanner, the trace ring, context pages (R99, R154, R306) -/

/-- The scan result word of a page's words (R99). -/
def scanResult (ws : List W64) : W64 :=
  match ws.zipIdx.find? fun e => scan e.1 != 0 with
  | none => 0
  | some e => BitVec.ofNat 64 (2 ^ 16 + scan e.1 * 2 ^ 12 + e.2)

/-- SCAN (R99, R310): the page that holds a tier-2 physical address. -/
def scanCmd (sl : Slot) (s : State) : Reply :=
  let page := sl.a / 4096 * 4096
  some (s, stDone, some (scanResult ((List.range 512).map fun i => BitVec.ofNat 64 (s.t2word (page + 8 * i)))))
def execScan (hl : Nat) (s : State) : Host.Outcome State Fault Refusal := event (ringCmd (·.op == 0x10) scanCmd hl) s

/-- TRACE (R154, R310): base and size of the trace ring of headland HL. -/
def traceCmd (sl : Slot) (s : State) : Reply :=
  if 8 ≤ sl.hl ∨ sl.b % 4096 ≠ 0 then some (s, stBadField, none)
  else if (s.head sl.hl).down then some (s, stRefused, none)
  else some (s.setHead sl.hl { s.head sl.hl with traceBase := sl.a, traceSize := sl.b, traceCount := 0 }, stDone, none)
def execTrace (hl : Nat) (s : State) : Host.Outcome State Fault Refusal := event (ringCmd (·.op == 0x11) traceCmd hl) s

/-- The pages with that of a context unbound: the completions of the context that its FIFO and the registrar hold stay with the
context, in order, for the page that it is bound to next (R25, R308, log 66). -/
def State.unbind (s : State) (ctx : Nat) : State :=
  let held := s.pages.flatMap fun p => if p.2.bound = some ctx then p.2.comp ++ p.2.waiting else []
  let s := { s with pages := s.pages.map fun p =>
    if p.2.bound = some ctx then (p.1, { p.2 with bound := none, comp := [], waiting := [] }) else p }
  if held.isEmpty then s
  else s.setContext ctx { s.context ctx with compHeld := held ++ (s.context ctx).compHeld }

/-- A page bound to a context: the completions held for it enter the page's FIFO, oldest first (R25, R308). -/
def State.bindPage (s : State) (p ctx : Nat) : State :=
  let held := (s.context ctx).compHeld
  let s := s.setPage p { s.page p with bound := some ctx }
  if held.isEmpty then s else held.foldl (fun s r => s.pushComp p r) (s.setContext ctx { s.context ctx with compHeld := [] })
/-- BIND (R306, R310). -/
def bindCmd (sl : Slot) (s : State) : Reply :=
  if sl.a = 0xFFFF then some (s.unbind sl.ctx, stDone, none)
  else if 256 ≤ sl.a then some (s, stBadField, none)
  else match (s.page sl.a).bound with
    | some c => if c = sl.ctx then some (s, stDone, none) else some (s, stWrongState, none)
    | none => some ((s.unbind sl.ctx).bindPage sl.a sl.ctx, stDone, none)
def execBind (hl : Nat) (s : State) : Host.Outcome State Fault Refusal := event (ringCmd (·.op == 0x12) bindCmd hl) s

/-! ## Cores, sites, firmware (R316, R318, R319) -/

/-- RETIRE (R318). -/
def retireCmd (sl : Slot) (s : State) : Reply :=
  if !coreId sl.a then some (s, stBadField, none)
  else some (s.setCore sl.a { s.core sl.a with retiring := true }, stDone, none)
def execRetire (hl : Nat) (s : State) : Host.Outcome State Fault Refusal := event (ringCmd (·.op == 0x13) retireCmd hl) s

/-- The physical tile on which a seat stands: that of the map that the configuration image holds, or, of a core retired in service, the
unused tile mapped in (R9, R11). -/
def State.tileOf (s : State) (c : Nat) : Nat :=
  let place := match (s.core c).tile with | none => c % 256 | some n => 192 + n
  (Config.seatMap (Fin.ofNat 8 (hlOf c)) (Fin.ofNat 208 place)).val

/-- CORE_SPARE_MAP (R11, R318): the sequencer of a headland that is up (R314) gives the ID of a retired core, whose slots are empty and
whose contexts are streamed out, to a spare tile; without a spare the seat stays unavailable. -/
def spareMapEv (c : Nat) (s : State) : Option State :=
  let k := s.core c
  let h := s.head (hlOf c)
  if h.down || !k.retiring || k.slot0.isSome || k.slot1.isSome || k.active || k.sh0.st != .empty || k.sh1.st != .empty then none
  else if h.spares = 0 then some (s.setCore c { k with retiring := false, unavailable := true })
  else some ((s.setHead (hlOf c) { h with spares := h.spares - 1 }).setCore c
    { bps := k.bps, debugHold := k.debugHold, tile := some (16 - h.spares) })
def execCoreSpareMap (core : Nat) (s : State) : Host.Outcome State Fault Refusal := event (spareMapEv core) s

/-- Whether the tables under one table map a page of a tier-2 site; n is the table's level (R47). -/
def State.tableMaps (s : State) (ctx tgt table site : Nat) : Nat → Bool
  | 0 => (List.range 512).any fun i => match s.pte ctx (i * 2 ^ 12) tgt table 0 with
    | .page e => decide (e.tgt = 0 ∧ bits e.pa 43 40 = site)
    | _ => false
  | n + 1 => (List.range 512).any fun i => match s.pte ctx (i * 2 ^ (12 + 9 * (n + 1))) tgt table (n + 1) with
    | .page e => decide (e.tgt = 0 ∧ bits e.pa 43 40 = site)
    | .table t p => s.tableMaps ctx t p site n
    | _ => false
/-- The table roots in use: the registrar's values and those of the context states. -/
def State.roots (s : State) : List W64 :=
  ((s.contexts.map fun c => c.2.ptbase) ++ (s.everyCtx.map fun e => e.2.root) ++ (s.saves.map fun e => e.2.ctx.root)).dedup
/-- Whether a page table maps a site. -/
def State.siteMapped (s : State) (site : Nat) : Bool :=
  s.roots.any fun r => s.tableMaps 0 (bits r.toNat 62 61) (bits r.toNat 51 12 * 4096) site 3

/-- Whether a number is a site or port of the package (R16). -/
def State.isSite (s : State) (n : Nat) : Bool := decide (n < if s.skuC then 8 else 16)

/-- T2OFF (R319). -/
def t2offCmd (sl : Slot) (s : State) : Reply :=
  if !s.isSite sl.a || sl.b != 0 then some (s, stBadField, none)
  else if s.siteMapped sl.a then some (s, stWrongState, none)
  else some ({ s with t2off := if s.t2off.contains sl.a then s.t2off else s.t2off ++ [sl.a] }, stDone, none)
def execT2off (hl : Nat) (s : State) : Host.Outcome State Fault Refusal :=
  event (ringCmd (fun sl => sl.op == 0x14 && sl.b != 1) t2offCmd hl) s

/-- T2ON (R319): the replaced module holds nothing that was written before (log 26). -/
def t2onCmd (sl : Slot) (s : State) : Reply :=
  if !s.isSite sl.a then some (s, stBadField, none)
  else
    let r := some (BitVec.ofNat 64 (s.installed sl.a))
    if !s.t2off.contains sl.a then some (s, stDone, r)
    else some ({ s with
      t2off := s.t2off.filter (· != sl.a)
      tier2 := s.tier2.filter fun c => bits c.1 43 40 != sl.a
      badTier2 := s.badTier2.filter fun w => bits (8 * w) 43 40 != sl.a }, stDone, r)
def execT2on (hl : Nat) (s : State) : Host.Outcome State Fault Refusal :=
  event (ringCmd (fun sl => sl.op == 0x14 && sl.b == 1) t2onCmd hl) s

/-- The other image of a unit (R316). -/
def State.otherImage (s : State) (unit : Nat) : Nat := 1 - s.images.get 0 unit

/-- The headland of the registrar that does not serve (R20). -/
def State.standbyHead (s : State) : Nat := if s.standby then 0 else 4
/-- The unit that a switch of an image kind of a headland concerns: of a registrar, the standby's (R316). -/
def State.switchUnit (s : State) (hl kind : Nat) : Nat := (if kind = 1 then s.standbyHead else hl) * 4 + kind

/-- FWSW (R316): a switch of image kind ARGA of headland HL; refused when the other image of that unit does not verify. -/
def fwswCmd (sl : Slot) (s : State) : Reply :=
  if 8 ≤ sl.hl ∨ 4 ≤ sl.a then some (s, stBadField, none)
  else if (s.head sl.hl).down then some (s, stRefused, none)
  else if !Config.imageVerified (s.switchUnit sl.hl sl.a) (s.otherImage (s.switchUnit sl.hl sl.a)) then some (s, stRefused, none)
  else
    let h := s.head sl.hl
    some (s.setHead sl.hl { h with fwPending := if h.fwPending.contains sl.a then h.fwPending else h.fwPending ++ [sl.a] }, stDone, none)
def execFwsw (hl : Nat) (s : State) : Host.Outcome State Fault Refusal := event (ringCmd (·.op == 0x15) fwswCmd hl) s

/-- The supervisor instructions of a headland that wait, having been fetched, keep their word when the image is switched (R102, R316). -/
def State.latchSupervisor (s : State) (hl : Nat) : State :=
  { s with cores := s.cores.map fun e =>
      let x := e.2.live
      (e.1, if hlOf e.1 = hl ∧ x.sup = true ∧ x.wait.isSome ∧ x.latch = none then
          { e.2 with live := { x with latch := some (s.svWord e.1 x.pc.toNat) } }
        else e.2) }

/-- A unit's image switched, with a record of KIND 0x16 (R316, R157). -/
def State.switchImage (s : State) (hl kind : Nat) : State :=
  let u := hl * 4 + kind
  let s := if kind = 3 then s.latchSupervisor hl else s
  ({ s with images := s.images.put u (s.otherImage u) }).blackBox hl
    { time := s.time, kind := 0x16, code := (Config.eventCode 0x16 1).toNat, value := kind }

/-- Whether a lesson runs on a headland, or holds seats or a claim there to run again (R316). -/
def State.lessonOn (s : State) (hl : Nat) : Bool :=
  s.lessons.any fun l => [LessonState.admitted, .running, .preempted, .draining].contains l.st && l.seats.any fun se => hlOf se.core == hl

/-- Whether the moment of a switch has come (R316): of sequencer and supervisor once no lesson runs on the headland; of a registrar
where the one that stands by now is up and its other image verifies, whichever stood by at the FWSW. -/
def State.switchDue (s : State) (hl kind : Nat) : Bool :=
  if kind = 1 then !(s.head s.standbyHead).down && Config.imageVerified (s.switchUnit hl 1) (s.otherImage (s.switchUnit hl 1))
  else !(decide (2 ≤ kind) && s.lessonOn hl)

/-- FIRMWARE_SWITCH (R316): the first switch asked for whose moment has come, on a headland that is up (R314); the standby registrar
takes the image and takes over. -/
def firmwareEv (hl : Nat) (s : State) : Option State :=
  let h := s.head hl
  match (if h.down then none else h.fwPending.find? (s.switchDue hl)) with
  | none => none
  | some k =>
    let s := s.setHead hl { h with fwPending := h.fwPending.erase k }
    if k = 1 then takeoverEv (s.switchImage s.standbyHead 1) else some (s.switchImage hl k)
def execFirmwareSwitch (hl : Nat) (s : State) : Host.Outcome State Fault Refusal := event (firmwareEv hl) s

/-- ROW_AUTO_SPARE (R320): the prefect of a stack that is up (R314) spares a row after three corrected errors in it within one hour. -/
def rowSpareEv (stack bank row : Nat) (s : State) : Option State :=
  let h := s.head stack
  let t := s.time
  if h.down then none else
  let hits := h.corrected.filter fun e => decide (e.1 = rowKey bank row ∧ t ≤ e.2 + 3600000000000)
  if hits.length < 3 then none
  else (s.spareRow stack (rowKey bank row)).map fun s =>
    s.blackBox stack { time := t, kind := 0x12, code := (Config.eventCode 0x12 1).toNat, value := rowKey bank row, word3 := hits.length }
def execRowAutoSpare (stack : Nat) (bank : Nat) (row : Nat) (s : State) : Host.Outcome State Fault Refusal :=
  event (rowSpareEv stack bank row) s

end Sys2Proof.Machine
end

