-- ==== Sys2Proof/Machine/Service.lean ====
section
/-! DEFINITION. The host, the fabric links and the service port: completions, device registers, stops, FREEZE, reset, time,
temperature, attestation, links, power and soft errors (R4, R64, R151 to R157, R304 to R308, R312 to R317). -/

namespace Sys2Proof.Machine

/-! ## Context pages (R305, R306, R308) -/

/-- The identification word (R305). -/
def State.identWord (s : State) : W64 :=
  (0x1536 : BitVec 16) ++ (if s.skuC then (0x43 : BitVec 8) else 0x4C) ++ Config.identCfg ++ (0 : BitVec 12)

/-- What a host read at an offset of a context page returns (R4, R306, R308): zero from the record window, from what is reserved, and
from an unbound page. The read of CHEAD1 pops the record besides, by COMPLETION_POP. -/
def State.pageRead (s : State) (page off : Nat) : W64 :=
  let p := s.page page
  if 256 ≤ page ∨ p.bound = none then 0
  else if off = 0x080 then BitVec.ofNat 64 ((if p.ovf then 256 else 0) + (64 - p.launch.length))
  else if off = 0x100 then (p.comp.headD (0, 0)).1
  else if off = 0x108 then (p.comp.headD (0, 0)).2
  else if off = 0x180 then (if p.ien then 1 else 0)
  else 0
/-- What a host read of the 64-bit word at an offset of BAR0 returns (R305): 0 where no register map names the offset (DESIGN CHOICE,
log 84). -/
def State.barRead (s : State) (off : Nat) : W64 :=
  if off = 0 then s.identWord
  else if 0x100000 ≤ off ∧ off < 0x200000 then s.pageRead ((off - 0x100000) / 0x1000) (off % 0x1000)
  else 0

/-- COMPLETION_POP (R308): the oldest record leaves, and one that waited for room enters. -/
def popEv (page : Nat) (s : State) : Option State :=
  let p := s.page page
  match p.bound, p.comp with
  | some _, _ :: rest =>
    match p.waiting with
    | [] => some (s.setPage page { p with comp := rest })
    | w :: ws =>
      let s := s.setPage page { p with comp := rest ++ [w], waiting := ws }
      some (if p.ien then { s with msi := s.msi ++ [page] } else s)
  | _, _ => none
def execCompletionPop (page : Nat) (s : State) : Host.Outcome State Fault Refusal := event (popEv page) s

/-- OVF_CLEAR (R306). -/
def ovfEv (page : Nat) (s : State) : Option State :=
  let p := s.page page
  if p.bound = none ∨ ¬ p.ovf then none else some (s.setPage page { p with ovf := false })
def execOvfClear (page : Nat) (s : State) : Host.Outcome State Fault Refusal := event (ovfEv page) s

/-- A breakpoint register of a core set or cleared: it stops the core anew (R152). -/
def State.setBp (s : State) (core k : Nat) (b : Option Bp) : Option State :=
  if !coreId core || decide (8 ≤ k) then none
  else
    let q := s.core core
    let s := s.setCore core { q with bps := match b with | some b => q.bps.put k b | none => q.bps.erase k }
    some (match b with
      | some b => s.modAll core fun x => if x.passed.contains b then { x with passed := x.passed.filter (· != b) } else x
      | none => s)

/-- REGISTER_WRITE (R4): the writable field of a register takes the value. -/
def writeEv (reg : DevReg) (v : W64) (s : State) : Option State :=
  match reg with
  | .pageIen p =>
    if 256 ≤ p ∨ (s.page p).bound = none then none else some (s.setPage p { s.page p with ien := v.getLsbD 0 })
  | .waitThreshold hl => if 8 ≤ hl then none else some (s.setHead hl { s.head hl with waitThreshold := v.toNat })
  | .breakPc core k => s.setBp core k (some (.pc v.toNat))
  | .breakQueue core k ag => if ag = .cc then none else s.setBp core k (some (.queue ag v.toNat))
  | .breakClear core k => s.setBp core k none
  | .debugHold core => if !coreId core then none else some (s.setCore core { s.core core with debugHold := v.getLsbD 0 })
  | .ctxPtbase c => if 65536 ≤ c then none else some (s.setContext c { s.context c with ptbase := v })
  | .ctxScopebase c => if 65536 ≤ c then none else some (s.setContext c { s.context c with scopebase := v })
  | .ctxWdog c => if 65536 ≤ c then none else some (s.setContext c { s.context c with wdog := some v })
  | .ctxSlice c => if 65536 ≤ c then none else some (s.setContext c { s.context c with slice := some v.toNat })
  | .freezeTrigger hl =>
    if 8 ≤ hl then none else some (s.setHead hl { s.head hl with trigger := (List.range 64).filter v.getLsbD })
def execRegisterWrite (reg : DevReg) (value : BitVec 64) (s : State) : Host.Outcome State Fault Refusal := event (writeEv reg value) s

/-! ## Stops (R123, R151, R152) -/

/-- STOP_REQUEST (R151). -/
def stopEv (c : Nat) (s : State) : Option State :=
  let k := s.core c
  if !coreId c || k.stopReq then none else some (s.setCore c { k with stopReq := true })
def execStopRequest (core : Nat) (s : State) : Host.Outcome State Fault Refusal := event (stopEv core) s

/-- Whether a breakpoint matches now: the word before it executes, a command or husk at its head before it pops (R152). -/
def State.bpMatches (s : State) (c : Nat) : Bp → Bool
  | .pc i => s.mayGo c && (s.live c).pc.toNat == i
  | .queue a seq => (s.core c).active && match ((s.live c).queue a).head? with
    | some q => q.seq == seq && !q.popped && q.phase == .queued && q.stop.isNone
    | none => false

/-- BREAKPOINT_HIT (R152): one stop serves every breakpoint that matches; a record of KIND 0x06 (R154). -/
def breakEv (c : Nat) (s : State) : Option State :=
  let k := s.core c
  if k.stopReq then none
  else match k.bps.find? fun b => !k.live.passed.contains b.2 && s.bpMatches c b.2 with
    | none => none
    | some b =>
      let r : TraceRec := { time := s.time, kind := 0x06, core := c, ctx := k.live.id }
      let r := match b.2 with
        | .pc i => { r with value := i }
        | .queue a n => { r with agent := agentNum a, value := n, word3 := n }
      some ((s.setCore c { k with stopReq := true }).trace (hlOf c) r)
def execBreakpointHit (core : Nat) (s : State) : Host.Outcome State Fault Refusal := event (breakEv core) s

/-- Whether a started command of a context is still to retire (R151). -/
def Ctx.engineBusy (x : Ctx) : Bool :=
  (x.ld ++ x.st ++ x.vx ++ x.mx ++ x.lane).any fun q => q.phase != .queued && !q.husk && q.stop.isNone && !q.suspended

/-- STOP_COMPLETE (R151): the control core stands at a boundary, an instruction that waits abandoned with its pops undone (R108), and
every started command and handed operation has retired. The stop shows the wait in progress, which goes on once the core is resumed
(R155). -/
def stoppedEv (c : Nat) (s : State) : Option State :=
  let k := s.core c
  if !k.stopReq || k.stopped || (k.active && (k.live.held.isSome || k.live.engineBusy)) || !k.ops.isEmpty
      || s.recs.any fun r => r.core == c then none
  else
    some (s.setCore c { k with stopped := true, live := { k.live.abandon with wait := k.live.wait } })
def execStopComplete (core : Nat) (s : State) : Host.Outcome State Fault Refusal := event (stoppedEv core) s

/-- STOP_RESUME (R151): the core goes on from its cuts; what matched there does not stop its context again there, and a BRK that
stopped it retires (R123). -/
def resumeEv (c : Nat) (s : State) : Option State :=
  let k := s.core c
  if !k.stopped then none
  else
    let k' := { k with stopReq := false, stopped := false, brkStop := false }
    let pass := (k.bps.filter fun b => (s.setCore c k').bpMatches c b.2).map (·.2)
    some (s.setCore c { k' with live := { k'.live with passed := pass, brkPassed := k.brkStop } })
def execStopResume (core : Nat) (s : State) : Host.Outcome State Fault Refusal := event (resumeEv core) s

/-! ## FREEZE, reset and power (R156, R157, R314) -/

/-- FREEZE (R156): the clocks stop and the links are seen to go down. -/
def freezeEv (s : State) : Option State := if s.frozen then none else some s.freeze
def execFreeze (s : State) : Host.Outcome State Fault Refusal := event freezeEv s

/-- The units that load an image: each headland's prefect, sequencer and supervisor, the registrars of H0 and H4, and, as
unit 32, the configuration image (R20, R21, R314). -/
def imageUnits : List Nat := 32 :: (List.range 32).filter fun u => u % 4 != 1 || u / 4 == 0 || u / 4 == 4

/-- The image a unit loads at reset: A, else B, else none (R314). -/
def bootImage (u : Nat) : Option Nat :=
  if Config.imageVerified u 0 then some 0 else if Config.imageVerified u 1 then some 1 else none

/-- The headland after reset: its black box with a record for each image loaded, its repairs (log 26), and whether it stays in
reset, with the images that failed (R157, R314, R320). -/
def bootHead (h : Headland) (hl : Nat) : Headland :=
  let units := imageUnits.filter fun u => u == 32 || u / 4 == hl
  let recs := ((units.filter fun u => u != 32).filter fun u => (bootImage u).isSome).map fun u =>
    ({ time := 0, kind := 0x16, code := (Config.eventCode 0x16 0).toNat, value := u % 4 } : TraceRec)
  { blackBox := (recs.reverse ++ h.blackBox).take 4096
    sparedRows := h.sparedRows
    sparedBanks := h.sparedBanks
    spares := h.spares
    down := units.any fun u => (bootImage u).isNone
    failed := (units.filter fun u => (bootImage u).isNone).map fun u => if u = 32 then 32 else u % 4 }

/-- DEVICE_RESET (R157, R314): the machine as reset leaves it. Black boxes, the memories outside the logic dies, what is
installed and what is repaired stay (log 26). The standby registrar serves where only its headland is up (R20). -/
def resetState (s : State) : State :=
  { State.reset with
    agenda := s.agenda
    freeCtr := s.freeCtr
    phase := s.phase + 1
    standby := (bootHead (s.head 0) 0).down && !(bootHead (s.head 4) 4).down
    heads := (List.range 8).map fun hl => (hl, bootHead (s.head hl) hl)
    cores := (s.cores.filter fun e => e.2.unavailable || e.2.tile.isSome).map fun e =>
      (e.1, { unavailable := e.2.unavailable, tile := e.2.tile })
    tier2 := s.tier2
    host := s.host
    badTier2 := s.badTier2
    badHost := s.badHost
    skuC := s.skuC
    t2cap := s.t2cap
    images := (imageUnits.filter fun u => bootImage u == some 1).foldl (fun m u => m.put u 1) [] }
def execDeviceReset (s : State) : Host.Outcome State Fault Refusal := .next (resetState s)

/-- POWER_REMOVAL (R157): the black boxes are lost, and with the power the memories of the package; nothing runs until a reset
(log 26). -/
def powerOffEv (s : State) : Option State :=
  some { s with
    frozen := true
    hostUp := false
    heads := s.heads.map fun h => (h.1, { h.2 with blackBox := [] })
    tier2 := []
    tier1 := []
    badTier2 := []
    badTier1 := [] }
def execPowerRemoval (s : State) : Host.Outcome State Fault Refusal := event powerOffEv s

/-- POWER_RAIL_FAULT (R157). -/
def railEv (hl unit : Nat) (s : State) : Option State :=
  if 8 ≤ hl then none
  else some (s.blackBox hl { time := s.time, kind := 0x15, code := (Config.eventCode 0x15 0).toNat, value := unit })
def execPowerRailFault (hl : Nat) (railUnit : Nat) (s : State) : Host.Outcome State Fault Refusal := event (railEv hl railUnit) s

/-! ## Time and temperature (R153, R304, R317) -/

/-- PTM_REFRESH (R153, R304): what TIME differs from the host's by is slewed from now on. -/
def ptmEv (ns : Nat) (s : State) : Option State :=
  if !s.hostUp then none else some { s with timeAdj := 6 * (ns : Int) - (s.time6 : Int) }
def execPtmRefresh (hostNs : Nat) (s : State) : Host.Outcome State Fault Refusal := event (ptmEv hostNs) s

/-- THERMAL_THROTTLE (R317): a die above 115 °C freezes the package; a tile throttles above 105 °C until it is below 100 °C. -/
def thermalEv (c tile die : Nat) (s : State) : Option State :=
  let k := s.core c
  let note (s : State) (v : Nat) : State :=
    s.blackBox (hlOf c) { time := s.time, kind := 0x13, code := (Config.eventCode 0x13 0).toNat, core := c, value := v }
  if !coreId c then none
  else if 115 < die then (if s.frozen then none else some (note s die).freeze)
  else if 105 < tile ∧ ¬ k.throttled then some (note (s.setCore c { k with throttled := true }) tile)
  else if tile < 100 ∧ k.throttled then some (s.setCore c { k with throttled := false })
  else none
def execThermalThrottle (core : Nat) (tileTemp : Nat) (dieTemp : Nat) (s : State) : Host.Outcome State Fault Refusal :=
  event (thermalEv core tileTemp dieTemp) s

/-! ## Identification and attestation (R305, R315) -/

/-- Whether the image of a unit is loaded: it did not fail to verify (R314). -/
def State.imageLoaded (s : State) (u : Nat) : Bool :=
  !(if u = 32 then (s.head 0).failed.contains 32 else (s.head (u / 4)).failed.contains (u % 4))

/-- ATTESTATION_REQUEST (R315): the nonce, the identification word and the digest of each loaded image, signed. -/
def attestEv (nonce : BitVec 256) (s : State) : Option State :=
  if (s.head 0).down then none
  else
    let loaded := imageUnits.filter s.imageLoaded
    some { s with
      freeCtr := s.freeCtr + 1
      report := some (nonce, s.identWord, loaded.map fun u => Config.imageDigest u (s.images.get 0 u), Config.freeSignature s.freeCtr) }
def execAttestationRequest (nonce : BitVec 256) (s : State) : Host.Outcome State Fault Refusal := event (attestEv nonce) s

/-! ## Links (R19, R304, R312, R313) -/

def State.link (s : State) (l : Nat) : Link := s.links.get {} l
def State.setLink (s : State) (l : Nat) (x : Link) : State := { s with links := s.links.put l x }
/-- The headland of a Zurix link: five each on H0 to H3, four each on H4 to H7 (R19), numbered from 0 in the order of the headlands
(DESIGN CHOICE, log 77). -/
def linkHead (l : Nat) : Nat := if l < 20 then l / 5 else 4 + (l - 20) / 4

/-- FLIT_CRC_FAIL (R312): the flit is replayed, and still arrives once and in order. -/
def crcEv (l : Nat) (s : State) : Option State :=
  if 36 ≤ l then none else some (s.setLink l { s.link l with replays := (s.link l).replays + 1 })
def execFlitCrcFail (link : Nat) (s : State) : Host.Outcome State Fault Refusal := event (crcEv link) s

/-- LANE_FAILURE (R313): the first makes the link retrain onto the spare, the second leaves it at half width. -/
def laneEv (l : Nat) (s : State) : Option State :=
  let k := s.link l
  if 36 ≤ l then none
  else
    let k := if k.failed = 0 then { k with failed := 1, retraining := true } else { k with failed := k.failed + 1, half := true }
    some ((s.setLink l k).blackBox (linkHead l)
      { time := s.time, kind := 0x14, code := (Config.eventCode 0x14 (if k.half then 1 else 0)).toNat, value := l })
def execLaneFailure (link : Nat) (s : State) : Host.Outcome State Fault Refusal := event (laneEv link) s

/-- LANE_RETRAIN_COMPLETE (R313): the traffic that the link has held leaves, in order. -/
def retrainEv (l : Nat) (s : State) : Option State :=
  if !(s.link l).retraining then none
  else some { (s.setLink l { s.link l with retraining := false, held := [] }) with fabricOut := s.fabricOut ++ (s.link l).held }
def execLaneRetrainComplete (link : Nat) (s : State) : Host.Outcome State Fault Refusal := event (retrainEv link) s

/-- HOST_LINK_TRAINING (R157, R304): the link goes down (no lanes) or trains to a width and a speed. -/
def hostLinkEv (lanes rate : Nat) (s : State) : Option State :=
  if !([0, 4, 8, 16].contains lanes && [16, 32, 64].contains rate) then none
  else some ({ s with hostUp := lanes != 0, hostLanes := lanes, hostRate := rate }.blackBox 0
    { time := s.time, kind := 0x14, code := (Config.eventCode 0x14 2).toNat, value := lanes })
def execHostLinkTraining (lanes : Nat) (rate : Nat) (s : State) : Host.Outcome State Fault Refusal := event (hostLinkEv lanes rate) s

/-! ## Soft errors (R64, R157, R317) -/

/-- A number added to a list that does not hold it. -/
def insertNew {α : Type} [DecidableEq α] (l : List α) (a : α) : List α := if l.contains a then l else l ++ [a]

/-- MEMORY_SOFT_ERROR (R64, R211): parity finds every error; ECC corrects and counts a soft one once an access meets it, of tier 2 as
its controller or expander reports it (log 64), and leaves a hard one uncorrectable. -/
def softEv (loc : SoftLoc) (hard : Bool) (s : State) : Option State :=
  match loc with
  | .scratch c off =>
    let k := s.core c
    if !coreId c || decide (0x200000 ≤ off) then none
    else if hard then
      some (s.setCore c { k with badWords := insertNew k.badWords (off / 8), softWords := k.softWords.filter (· != off / 8) })
    else if k.badWords.contains (off / 8) then none
    else some (s.setCore c { k with softWords := insertNew k.softWords (off / 8) })
  | .vec c e =>
    if !(s.core c).active || decide (32768 ≤ e) then none
    else some (s.setLive c { s.live c with badV := insertNew (s.live c).badV e })
  | .mask c e =>
    if !(s.core c).active || decide (e < 32 ∨ 256 ≤ e) then none
    else some (s.setLive c { s.live c with badM := insertNew (s.live c).badM e })
  | .acc c e =>
    if !(s.core c).active || decide (16384 ≤ e) then none
    else some (s.setLive c { s.live c with badA := insertNew (s.live c).badA e })
  | .slot c n r q =>
    if !(s.core c).active || decide (8 ≤ n ∨ 64 ≤ r ∨ 64 ≤ q) then none
    else some (s.setLive c { s.live c with badSlot := insertNew (s.live c).badSlot (n * 4096 + 64 * r + q) })
  | .tier2 pa =>
    let site := bits pa 43 40
    if s.pageMissing 0 pa then none
    else if hard then some { s with badTier2 := insertNew s.badTier2 (pa / 8) }
    else some (s.corrected (if s.skuC then site else site / 2) (8192 + site) 0 (Place.tier2 pa).faultAddr)
  | .host pa => if hard then some { s with badHost := insertNew s.badHost (pa / 8) } else none
  | .tier1 st h off =>
    if 8 ≤ st then none
    else
      let w := (st * 2 ^ 32 + h, off / 8)
      if hard then some { s with badTier1 := insertNew s.badTier1 w, softTier1 := s.softTier1.filter (· != w) }
      else if s.badTier1.contains w then none
      else some { s with softTier1 := insertNew s.softTier1 w }
def execMemorySoftError (loc : SoftLoc) (hard : Bool) (s : State) : Host.Outcome State Fault Refusal := event (softEv loc hard) s

end Sys2Proof.Machine
end

