-- ==== Sys2Proof/Machine/Dispatch.lean ====
section
/-! DEFINITION. The dispatch: one arm per constructor of Instr, each one call of its meaning. -/

namespace Sys2Proof.Machine

def exec (i : Instr) (s : State) : Host.Outcome State Fault Refusal :=
  match i with
  | .add tk d a b => Sys2Proof.Machine.execAdd tk d a b s
  | .sub tk d a b => Sys2Proof.Machine.execSub tk d a b s
  | .and tk d a b => Sys2Proof.Machine.execAnd tk d a b s
  | .or tk d a b => Sys2Proof.Machine.execOr tk d a b s
  | .xor tk d a b => Sys2Proof.Machine.execXor tk d a b s
  | .andn tk d a b => Sys2Proof.Machine.execAndn tk d a b s
  | .shl tk d a b => Sys2Proof.Machine.execShl tk d a b s
  | .shr tk d a b => Sys2Proof.Machine.execShr tk d a b s
  | .sra tk d a b => Sys2Proof.Machine.execSra tk d a b s
  | .rot tk d a b => Sys2Proof.Machine.execRot tk d a b s
  | .mul tk d a b => Sys2Proof.Machine.execMul tk d a b s
  | .mulh tk d a b => Sys2Proof.Machine.execMulh tk d a b s
  | .mulhn tk d a b => Sys2Proof.Machine.execMulhn tk d a b s
  | .div tk d a b => Sys2Proof.Machine.execDiv tk d a b s
  | .divn tk d a b => Sys2Proof.Machine.execDivn tk d a b s
  | .rem tk d a b => Sys2Proof.Machine.execRem tk d a b s
  | .remn tk d a b => Sys2Proof.Machine.execRemn tk d a b s
  | .min tk d a b => Sys2Proof.Machine.execMin tk d a b s
  | .max tk d a b => Sys2Proof.Machine.execMax tk d a b s
  | .minn tk d a b => Sys2Proof.Machine.execMinn tk d a b s
  | .maxn tk d a b => Sys2Proof.Machine.execMaxn tk d a b s
  | .clz tk d a => Sys2Proof.Machine.execClz tk d a s
  | .popc tk d a => Sys2Proof.Machine.execPopc tk d a s
  | .cmp tk d a b cond => Sys2Proof.Machine.execCmp tk d a b cond s
  | .sel tk d a b c => Sys2Proof.Machine.execSel tk d a b c s
  | .addx tk d a b sc => Sys2Proof.Machine.execAddx tk d a b sc s
  | .bfx tk d a sx pos wid => Sys2Proof.Machine.execBfx tk d a sx pos wid s
  | .bfi tk d a pos wid => Sys2Proof.Machine.execBfi tk d a pos wid s
  | .addi tk d a imm => Sys2Proof.Machine.execAddi tk d a imm s
  | .andi tk d a imm => Sys2Proof.Machine.execAndi tk d a imm s
  | .ori tk d a imm => Sys2Proof.Machine.execOri tk d a imm s
  | .xori tk d a imm => Sys2Proof.Machine.execXori tk d a imm s
  | .shli tk d a sh => Sys2Proof.Machine.execShli tk d a sh s
  | .shri tk d a sh => Sys2Proof.Machine.execShri tk d a sh s
  | .srai tk d a sh => Sys2Proof.Machine.execSrai tk d a sh s
  | .roti tk d a sh => Sys2Proof.Machine.execRoti tk d a sh s
  | .movhi tk d imm => Sys2Proof.Machine.execMovhi tk d imm s
  | .br tk a b cc off => Sys2Proof.Machine.execBr tk a b cc off s
  | .jmp tk off => Sys2Proof.Machine.execJmp tk off s
  | .call tk off => Sys2Proof.Machine.execCall tk off s
  | .jr tk d a => Sys2Proof.Machine.execJr tk d a s
  | .loop tk lc off => Sys2Proof.Machine.execLoop tk lc off s
  | .ld tk d a b size off => Sys2Proof.Machine.execLd tk d a b size off s
  | .st tk d a b size off => Sys2Proof.Machine.execSt tk d a b size off s
  | .mfs tk d sn => Sys2Proof.Machine.execMfs tk d sn s
  | .mts tk a sn => Sys2Proof.Machine.execMts tk a sn s
  | .trap tk code => Sys2Proof.Machine.execTrap tk code s
  | .eret tk => Sys2Proof.Machine.execEret tk s
  | .brk tk code => Sys2Proof.Machine.execBrk tk code s
  | .tmark tk a code => Sys2Proof.Machine.execTmark tk a code s
  | .qdrop tk d a b qm => Sys2Proof.Machine.execQdrop tk d a b qm s
  | .qres tk d qm => Sys2Proof.Machine.execQres tk d qm s
  | .qstat tk d qn => Sys2Proof.Machine.execQstat tk d qn s
  | .yield tk => Sys2Proof.Machine.execYield tk s
  | .ctxsw tk a => Sys2Proof.Machine.execCtxsw tk a s
  | .tlbinv tk a b bc mode => Sys2Proof.Machine.execTlbinv tk a b bc mode s
  | .qset tk d a w => Sys2Proof.Machine.execQset tk d a w s
  | .qget tk d a w => Sys2Proof.Machine.execQget tk d a w s
  | .qclr tk d => Sys2Proof.Machine.execQclr tk d s
  | .ldt tk qs qd g fl fe n rm => Sys2Proof.Machine.execLdt tk qs qd g fl fe n rm s
  | .cpy tk qs qd g fl fe n rm => Sys2Proof.Machine.execCpy tk qs qd g fl fe n rm s
  | .ldo tk qs g fl fe n => Sys2Proof.Machine.execLdo tk qs g fl fe n s
  | .pref tk qs g fl fe n => Sys2Proof.Machine.execPref tk qs g fl fe n s
  | .ldg tk qs qd g fl fe n rm => Sys2Proof.Machine.execLdg tk qs qd g fl fe n rm s
  | .qmark tk fl fe => Sys2Proof.Machine.execQmark tk fl fe s
  | .stt tk qs qd g fl fe n rm => Sys2Proof.Machine.execStt tk qs qd g fl fe n rm s
  | .cpys tk qs qd g fl fe n rm => Sys2Proof.Machine.execCpys tk qs qd g fl fe n rm s
  | .redSt tk qs qd g fl fe n rm op => Sys2Proof.Machine.execRedSt tk qs qd g fl fe n rm op s
  | .sct tk qs qd g fl fe n rm => Sys2Proof.Machine.execSct tk qs qd g fl fe n rm s
  | .chpop tk qd g fl fe n => Sys2Proof.Machine.execChpop tk qd g fl fe n s
  | .vld tk d a b mk mf => Sys2Proof.Machine.execVld tk d a b mk mf s
  | .vst tk d a b mk rd mf => Sys2Proof.Machine.execVst tk d a b mk rd mf s
  | .vmov tk d a mk => Sys2Proof.Machine.execVmov tk d a mk s
  | .vmovg tk d a mk => Sys2Proof.Machine.execVmovg tk d a mk s
  | .vbcr tk d a mk n => Sys2Proof.Machine.execVbcr tk d a mk n s
  | .vbcc tk d a mk n => Sys2Proof.Machine.execVbcc tk d a mk n s
  | .vrotr tk d a mk z k => Sys2Proof.Machine.execVrotr tk d a mk z k s
  | .vrotc tk d a mk z k => Sys2Proof.Machine.execVrotc tk d a mk z k s
  | .valu tk d a b mk ty rd sat op => Sys2Proof.Machine.execValu tk d a b mk ty rd sat op s
  | .vfma tk d a b mk ty rd op => Sys2Proof.Machine.execVfma tk d a b mk ty rd op s
  | .vlogic tk d a b mk sh im op => Sys2Proof.Machine.execVlogic tk d a b mk sh im op s
  | .vcmp tk d a b mk ty cond => Sys2Proof.Machine.execVcmp tk d a b mk ty cond s
  | .vsel tk d a b mk => Sys2Proof.Machine.execVsel tk d a b mk s
  | .vredr tk d a mk ty rd bc op => Sys2Proof.Machine.execVredr tk d a mk ty rd bc op s
  | .vredc tk d a mk ty rd bc op => Sys2Proof.Machine.execVredc tk d a mk ty rd bc op s
  | .vscan tk d a mk ty rd ex axis op => Sys2Proof.Machine.execVscan tk d a mk ty rd ex axis op s
  | .vcvt tk d a mk ty rd dir code => Sys2Proof.Machine.execVcvt tk d a mk ty rd dir code s
  | .vrcp tk d a mk => Sys2Proof.Machine.execVrcp tk d a mk s
  | .vrsq tk d a mk => Sys2Proof.Machine.execVrsq tk d a mk s
  | .vrcps tk d a b mk rd => Sys2Proof.Machine.execVrcps tk d a b mk rd s
  | .vrsqs tk d a b mk rd => Sys2Proof.Machine.execVrsqs tk d a b mk rd s
  | .vexp2 tk d a mk => Sys2Proof.Machine.execVexp2 tk d a mk s
  | .vlog2 tk d a mk => Sys2Proof.Machine.execVlog2 tk d a mk s
  | .vmask tk d a b ty n op => Sys2Proof.Machine.execVmask tk d a b ty n op s
  | .vpopc tk d a mode => Sys2Proof.Machine.execVpopc tk d a mode s
  | .vtog tk a ty src col row => Sys2Proof.Machine.execVtog tk a ty src col row s
  | .vmeanE tk d a mk => Sys2Proof.Machine.execVmeanE tk d a mk s
  | .vmeanM tk d a mk => Sys2Proof.Machine.execVmeanM tk d a mk s
  | .vmeanX tk d a mk => Sys2Proof.Machine.execVmeanX tk d a mk s
  | .vmtld tk a pair => Sys2Proof.Machine.execVmtld tk a pair s
  | .vmsh tk d a mk => Sys2Proof.Machine.execVmsh tk d a mk s
  | .vupd tk d a b mk ty rd gh => Sys2Proof.Machine.execVupd tk d a b mk ty rd gh s
  | .vkey tk d a mk ty hil three k gh => Sys2Proof.Machine.execVkey tk d a mk ty hil three k gh s
  | .chpush tk a rd fmt r c => Sys2Proof.Machine.execChpush tk a rd fmt r c s
  | .pdir tk g slot role => Sys2Proof.Machine.execPdir tk g slot role s
  | .pload tk qa g rows slot => Sys2Proof.Machine.execPload tk qa g rows slot s
  | .pstore tk qb g rows slot rm => Sys2Proof.Machine.execPstore tk qb g rows slot rm s
  | .pclr tk slot e => Sys2Proof.Machine.execPclr tk slot e s
  | .mxnest tk g level => Sys2Proof.Machine.execMxnest tk g level s
  | .mxgo tk qa qb acc sr base n kc => Sys2Proof.Machine.execMxgo tk qa qb acc sr base n kc s
  | .mxrun tk qa qb acc sr g base n kc p => Sys2Proof.Machine.execMxrun tk qa qb acc sr g base n kc p s
  | .mxgrad tk qa qb qt n kx ky => Sys2Proof.Machine.execMxgrad tk qa qb qt n kx ky s
  | .mxres tk => Sys2Proof.Machine.execMxres tk s
  | .mxacl tk acc sr n => Sys2Proof.Machine.execMxacl tk acc sr n s
  | .mxacr tk qb acc dst vd all quarter n z rm => Sys2Proof.Machine.execMxacr tk qb acc dst vd all quarter n z rm s
  | .mxstat tk sel => Sys2Proof.Machine.execMxstat tk sel s
  | .fence tk sc kind => Sys2Proof.Machine.execFence tk sc kind s
  | .setf tk sc a b rem flag => Sys2Proof.Machine.execSetf tk sc a b rem flag s
  | .addf tk sc a b rem flag => Sys2Proof.Machine.execAddf tk sc a b rem flag s
  | .waitf tk sc b flag => Sys2Proof.Machine.execWaitf tk sc b flag s
  | .tktTake tk sc a d => Sys2Proof.Machine.execTktTake tk sc a d s
  | .tktWait tk sc a b => Sys2Proof.Machine.execTktWait tk sc a b s
  | .tktDone tk sc a => Sys2Proof.Machine.execTktDone tk sc a s
  | .aadd tk sc a b d ty ord => Sys2Proof.Machine.execAadd tk sc a b d ty ord s
  | .amin tk sc a b d ty ord => Sys2Proof.Machine.execAmin tk sc a b d ty ord s
  | .amax tk sc a b d ty ord => Sys2Proof.Machine.execAmax tk sc a b d ty ord s
  | .acas tk sc a b d c ty ord => Sys2Proof.Machine.execAcas tk sc a b d c ty ord s
  | .aswp tk sc a b d ty ord => Sys2Proof.Machine.execAswp tk sc a b d ty ord s
  | .scope tk sc a => Sys2Proof.Machine.execScope tk sc a s
  | .rpop tk d which => Sys2Proof.Machine.execRpop tk d which s
  | .comm tk sc a d c => Sys2Proof.Machine.execComm tk sc a d c s
  | .commDel tk d c => Sys2Proof.Machine.execCommDel tk d c s
  | .coll tk a => Sys2Proof.Machine.execColl tk a s
  | .cwait tk d p c => Sys2Proof.Machine.execCwait tk d p c s
  | .repart tk a => Sys2Proof.Machine.execRepart tk a s
  | .vxfer tk a dir kind r n => Sys2Proof.Machine.execVxfer tk a dir kind r n s
  | .pgreqOff tk unit => Sys2Proof.Machine.execPgreqOff tk unit s
  | .pgreqOn tk unit => Sys2Proof.Machine.execPgreqOn tk unit s
  | .tide tk v => Sys2Proof.Machine.execTide tk v s
  | .tlbinvComplete core => Sys2Proof.Machine.execTlbinvComplete core s
  | .commandPush core word => Sys2Proof.Machine.execCommandPush core word s
  | .queueRoomResume core => Sys2Proof.Machine.execQueueRoomResume core s
  | .tlbPinResume core => Sys2Proof.Machine.execTlbPinResume core s
  | .pendingFetchRelease core => Sys2Proof.Machine.execPendingFetchRelease core s
  | .engineCommandStart core ag => Sys2Proof.Machine.execEngineCommandStart core ag s
  | .commandRetire core ag => Sys2Proof.Machine.execCommandRetire core ag s
  | .heldPushRelease core ag => Sys2Proof.Machine.execHeldPushRelease core ag s
  | .huskRetire core ag => Sys2Proof.Machine.execHuskRetire core ag s
  | .mxRowCommit core => Sys2Proof.Machine.execMxRowCommit core s
  | .flagWaitSatisfied core => Sys2Proof.Machine.execFlagWaitSatisfied core s
  | .ticketWaitSatisfied core => Sys2Proof.Machine.execTicketWaitSatisfied core s
  | .resultFifoArrival core => Sys2Proof.Machine.execResultFifoArrival core s
  | .commComplete core code => Sys2Proof.Machine.execCommComplete core code s
  | .collRecordStart rid => Sys2Proof.Machine.execCollRecordStart rid s
  | .chunkArrival cid => Sys2Proof.Machine.execChunkArrival cid s
  | .collRecordRetire rid => Sys2Proof.Machine.execCollRecordRetire rid s
  | .cwaitSatisfied core => Sys2Proof.Machine.execCwaitSatisfied core s
  | .repartRetire rid => Sys2Proof.Machine.execRepartRetire rid s
  | .vxferRetire core => Sys2Proof.Machine.execVxferRetire core s
  | .gateOff core gate => Sys2Proof.Machine.execGateOff core gate s
  | .unitWakeComplete core gate => Sys2Proof.Machine.execUnitWakeComplete core gate s
  | .tideHalfBoundary => Sys2Proof.Machine.execTideHalfBoundary s
  | .launchWindowWrite page off bytes => Sys2Proof.Machine.execLaunchWindowWrite page off bytes s
  | .lessonRecordCheck page => Sys2Proof.Machine.execLessonRecordCheck page s
  | .reservationAttempt contended => Sys2Proof.Machine.execReservationAttempt contended s
  | .backoffExpiry ctx num => Sys2Proof.Machine.execBackoffExpiry ctx num s
  | .residencyReport hl ctx num => Sys2Proof.Machine.execResidencyReport hl ctx num s
  | .lessonStart ctx num => Sys2Proof.Machine.execLessonStart ctx num s
  | .lessonCopyFault hl ctx num => Sys2Proof.Machine.execLessonCopyFault hl ctx num s
  | .lessonRetire ctx num => Sys2Proof.Machine.execLessonRetire ctx num s
  | .completionPop page => Sys2Proof.Machine.execCompletionPop page s
  | .ovfClear page => Sys2Proof.Machine.execOvfClear page s
  | .registerWrite reg value => Sys2Proof.Machine.execRegisterWrite reg value s
  | .timeSliceExpiry core => Sys2Proof.Machine.execTimeSliceExpiry core s
  | .contextStreamComplete core store crcOk => Sys2Proof.Machine.execContextStreamComplete core store crcOk s
  | .registrarTakeover => Sys2Proof.Machine.execRegistrarTakeover s
  | .trapEntry core => Sys2Proof.Machine.execTrapEntry core s
  | .waitstuck core ag => Sys2Proof.Machine.execWaitstuck core ag s
  | .stopRequest core => Sys2Proof.Machine.execStopRequest core s
  | .breakpointHit core => Sys2Proof.Machine.execBreakpointHit core s
  | .stopComplete core => Sys2Proof.Machine.execStopComplete core s
  | .stopResume core => Sys2Proof.Machine.execStopResume core s
  | .freeze => Sys2Proof.Machine.execFreeze s
  | .deviceReset => Sys2Proof.Machine.execDeviceReset s
  | .ptmRefresh hostNs => Sys2Proof.Machine.execPtmRefresh hostNs s
  | .thermalThrottle core tileTemp dieTemp => Sys2Proof.Machine.execThermalThrottle core tileTemp dieTemp s
  | .ringPoll hl => Sys2Proof.Machine.execRingPoll hl s
  | .ocreate hl => Sys2Proof.Machine.execOcreate hl s
  | .odestroy hl => Sys2Proof.Machine.execOdestroy hl s
  | .olife hl => Sys2Proof.Machine.execOlife hl s
  | .scrub hl => Sys2Proof.Machine.execScrub hl s
  | .spare hl => Sys2Proof.Machine.execSpare hl s
  | .caprep hl => Sys2Proof.Machine.execCaprep hl s
  | .therm hl => Sys2Proof.Machine.execTherm hl s
  | .reten hl => Sys2Proof.Machine.execReten hl s
  | .scan hl => Sys2Proof.Machine.execScan hl s
  | .trace hl => Sys2Proof.Machine.execTrace hl s
  | .bind hl => Sys2Proof.Machine.execBind hl s
  | .retire hl => Sys2Proof.Machine.execRetire hl s
  | .coreSpareMap core => Sys2Proof.Machine.execCoreSpareMap core s
  | .t2off hl => Sys2Proof.Machine.execT2off hl s
  | .t2on hl => Sys2Proof.Machine.execT2on hl s
  | .fwsw hl => Sys2Proof.Machine.execFwsw hl s
  | .firmwareSwitch hl => Sys2Proof.Machine.execFirmwareSwitch hl s
  | .attestationRequest nonce => Sys2Proof.Machine.execAttestationRequest nonce s
  | .flitCrcFail link => Sys2Proof.Machine.execFlitCrcFail link s
  | .laneFailure link => Sys2Proof.Machine.execLaneFailure link s
  | .rowAutoSpare stack bank row => Sys2Proof.Machine.execRowAutoSpare stack bank row s
  | .supervisorLessonEnd ctx num cause => Sys2Proof.Machine.execSupervisorLessonEnd ctx num cause s
  | .storePerformed core => Sys2Proof.Machine.execStorePerformed core s
  | .remoteLoadReturn core => Sys2Proof.Machine.execRemoteLoadReturn core s
  | .laneRetrainComplete link => Sys2Proof.Machine.execLaneRetrainComplete link s
  | .hostLinkTraining lanes rate => Sys2Proof.Machine.execHostLinkTraining lanes rate s
  | .powerRemoval => Sys2Proof.Machine.execPowerRemoval s
  | .powerRailFault hl railUnit => Sys2Proof.Machine.execPowerRailFault hl railUnit s
  | .memorySoftError loc hard => Sys2Proof.Machine.execMemorySoftError loc hard s

end Sys2Proof.Machine
end

