-- ==== Sys2Proof/Machine/Cycle.lean ====
section
/-! DEFINITION. What happens in one step of the model: an event of the agenda, the move of a control core, or the events of
the other agents and units (log 27). -/

namespace Sys2Proof.Machine

/-- What the agents of a core, and the units that its control core handed operations to, hold at retirement released, in the clk in
which room is made for it (R42, R89): the records after the agents and the chimney's operations (DESIGN CHOICE, log 88). -/
def State.settled (s : State) (c : Nat) : State :=
  (s.recs.filter fun r => r.core == c && r.done).foldl (fun s r => (s.retireRec r).getD s) (s.settle c)

/-- The other agents and units of a core, in the order in which a step of the model lets them act. -/
def coreEvents (c : Nat) : List (State → Option State) :=
  ([Agent.cc, .ld, .st, .vx, .mx].map fun a => heldEv c a)
    ++ ((List.range 6).map fun u => wakeEv c u)
    ++ ([Agent.ld, .st, .vx, .mx].flatMap fun a => [fun s => (huskEv c a s).map fun t => t.settled c, retireEv c a])
    ++ [rowEv c]
    ++ ([Agent.ld, .st, .vx, .mx].map fun a s => (startEv c a s).map fun t => t.settled c)
    ++ [vxferEv c, storeEv c]
    ++ ((List.range 6).map fun u => gateOffEv c u)
    ++ [stoppedEv c, sliceEv c, streamEv c 0 true, streamEv c 1 true]
    ++ ([Agent.cc, .ld, .st, .vx, .mx].map fun a => stuckEv c a)

/-- The events of a core that has no active context: its units wake and are gated, its chimney controller goes on, a stop completes, and
contexts stream (R44, R146, R302). -/
def idleEvents (c : Nat) : List (State → Option State) :=
  ((List.range 6).map fun u => wakeEv c u) ++ [vxferEv c] ++ ((List.range 6).map fun u => gateOffEv c u)
    ++ [stoppedEv c, streamEv c 0 true, streamEv c 1 true]

/-- The events of the units that no core owns, for what a state holds. -/
def State.unitEvents (s : State) : List (State → Option State) :=
  (s.recs.flatMap fun r => [recStartEv r.rid, recRetireEv r.rid, repRetireEv r.rid])
    ++ (s.chunks.map fun k => chunkEv k.cid)
    ++ (s.pages.map fun p => recordEv p.1)
    ++ (s.lessons.flatMap fun l => [backoffEv l.ctx l.num, retireLessonEv l.ctx l.num]
        ++ ((List.range 8).flatMap fun h => [reportEv h l.ctx l.num, copyFaultEv h l.ctx l.num]) ++ [startLessonEv l.ctx l.num])
    ++ [attemptEv none, tideEv]
    ++ ((List.range 8).flatMap fun h => [pollEv h, firmwareEv h])
    ++ (s.cores.map fun e => spareMapEv e.1)
    ++ ((s.cores.filter fun e => e.1 != s.cur && !e.2.active).flatMap fun e => idleEvents e.1)

/-- The ring commands that the sequencers perform (R309, R310). -/
def ringEvents : List (State → Option State) :=
  (List.range 8).flatMap fun h => [ringCmd (·.op == 0x01) ocreateCmd h, ringCmd (·.op == 0x02) odestroyCmd h,
    ringCmd (·.op == 0x03) olifeCmd h, ringCmd (·.op == 0x04) scrubCmd h, ringCmd (·.op == 0x05) spareCmd h,
    ringCmd (·.op == 0x06) caprepCmd h, ringCmd (·.op == 0x07) thermCmd h, ringCmd (·.op == 0x08) retenCmd h,
    ringCmd (·.op == 0x10) scanCmd h, ringCmd (·.op == 0x11) traceCmd h, ringCmd (·.op == 0x12) bindCmd h,
    ringCmd (·.op == 0x13) retireCmd h, ringCmd (fun sl => sl.op == 0x14 && sl.b != 1) t2offCmd h,
    ringCmd (fun sl => sl.op == 0x14 && sl.b == 1) t2onCmd h, ringCmd (·.op == 0x15) fwswCmd h]

/-- Events tried in order, each taking place where its condition holds. -/
def runEvents (l : List (State → Option State)) (s : State) : State := l.foldl (fun s e => (e s).getD s) s

/-- The core whose control core moves next: the next active one. -/
def State.nextCore (s : State) : Nat :=
  let act := (s.cores.filter fun e => e.2.active).map (·.1)
  match act.find? fun c => decide (s.cur < c) with
  | some c => c
  | none => act.headD s.cur

/-- The turn of the agents and units: their events, and the move passes to the next core. -/
def State.unitsTurn (s : State) : State :=
  let s' := runEvents (coreEvents s.cur ++ s.unitEvents ++ ringEvents) s
  { s' with turn := false, cur := s'.nextCore }

/-- The context past a word that it has executed: breakpoints on an index stop it again, but for one before a word that has only begun
to wait (R123, R152). -/
def Ctx.pastWord (x : Ctx) : Ctx :=
  if x.passed = [] ∧ x.brkPassed = false then x
  else { x with
    passed := x.passed.filter fun b => match b with
      | .pc i => x.wait.isSome && x.pc.toNat == i
      | .queue _ _ => true
    brkPassed := x.brkPassed && x.wait.isSome }
/-- What follows a word executed: what its pops made room for is released, and the agents and units move next. -/
def State.afterWord (s : State) (c : Nat) (was : Ctx) : State :=
  let s := s.settled c
  let x := s.live c
  { (if x.isOf was.id was.lesson then s.setLive c x.pastWord else s) with turn := true }

/-- The move of the control core of cur: a cause it takes, a breakpoint, the end of a wait for memory, or the word at its pc. The word is
fetched in the step that executes it, never earlier, as R102 lets it be (DESIGN CHOICE, log 40). -/
def State.coreTurn (s : State) : Host.Outcome State Fault Refusal :=
  let c := s.cur
  let pass (t : State) : Host.Outcome State Fault Refusal := .next { t with turn := true }
  match trapEv c s with
  | some t => pass t
  | none =>
    match breakEv c s with
    | some t => pass t
    | none =>
      if !s.mayGo c then pass s
      else match (s.live c).wait with
        | some ⟨.remoteLoad, _, _⟩ => pass ((remoteLoadEv c s).getD s)
        | some ⟨.pendingFetch, _, _⟩ => pass ((pendingFetchEv c s).getD s)
        | _ =>
          match s.fetch c with
          | .bad => pass s
          | .pending i => pass (s.waitOn c .pendingFetch i)
          | .word w =>
            match decode w with
            | none => .fault .undecodable
            | some i =>
              match exec i s with
              | .next t => .next (t.afterWord c (s.live c))
              | .fault f => .fault f
              | .refused r => .refused r

/-- The move of a step. The first event of the agenda comes first; under FREEZE only a reset or the removal of power has effect
(R156). -/
def State.cycleMove (s : State) : Host.Outcome State Fault Refusal :=
  match s.agenda with
  | (dt, i) :: rest =>
    let s := { s with agenda := rest }
    if s.frozen then
      match i with
      | .deviceReset => exec i s
      | .powerRemoval => exec i s
      | _ => .next s
    else match exec i (s.pass dt) with
      | .next t => .next (if t.frozen then t else t.cores.foldl (fun s e => s.settled e.1) t)
      | r => r
  | [] =>
    if s.frozen then .next s
    else if s.turn then .next s.unitsTurn
    else (s.pass 1).coreTurn
/-- One step: a move, after which what it has written into the areas of REPARTs that have not retired is unspecified (R288). -/
def State.cycleStep (s : State) : Host.Outcome State Fault Refusal :=
  match s.cycleMove with
  | .next t => .next t.veil
  | r => r

/-- A word placed where the control core of cur fetches next, with what lets it fetch there in user mode (log 28). -/
def State.placeWord (s : State) (w : W64) : State :=
  let k := s.core s.cur
  let x := k.live
  let pc : W64 := if x.pc.toNat < 32768 then x.pc else 0
  let live := { x.setSr snSTATUS (x.sr snSTATUS &&& ~~~1) with
    pc := pc
    words := x.words.put pc.toNat ⟨w, .exec⟩
    wait := none
    held := none
    heldTrap := none
    pend := []
    exited := false
    halted := false
    parked := false
    ccPop := 0
    latch := none
    waitEntry := none
    invs := []
    passed := k.bps.map (·.2)
    brkPassed := false
    waitStart := false }
  { s.setCore s.cur { k with active := true, stopReq := false, stopped := false, brkStop := false, live := live } with
    agenda := []
    turn := false
    frozen := false }

end Sys2Proof.Machine
end

