-- ==== Sys2Proof/Safety.lean ====
section
/-! DEFINITION. What counts as a safe outcome, and the terms in which the statements say that an instruction word runs to its
end: the condition on the state, and the context it leaves. -/

namespace Sys2Proof.Machine

/-- The step gives a next state: it neither stops on a word that no decoder reads nor lacks a meaning. -/
def safeStep (s : State) : Prop := ∃ t, step s = .next t

/-- An instruction word with those token bytes runs to its end on core c: every FIFO it pops holds a token, or its pops are made,
and every FIFO it pushes has room (R42); where it pushes a token, which releases the core's stores, none of them is on its way (R118, R231);
nothing is held at retirement, and no wait ends that is logged (R155). -/
def State.goes (s : State) (c : Nat) (tk : Tok) : Bool :=
  let x := s.live c
  x.canPop tk.pop && x.hasRoom (pushFifos .cc tk.push) && (x.path.isEmpty || tk.push == 0) && x.held.isNone
    && (x.wait.isNone || (s.head (hlOf c)).waitThreshold == 0)

/-- An instruction word runs to its end that empties the store path or pushes a command (R118, R228, R230): no store of the core is on its way. -/
def State.goesClear (s : State) (c : Nat) (tk : Tok) : Bool := s.goes c tk && (s.live c).path.isEmpty

/-- A context whose control core retires a word with those token bytes and goes on at a pc (R42, R107). -/
def Ctx.retired (x : Ctx) (tk : Tok) (pc : W64) : Ctx :=
  { (x.startPops tk.pop).pushTokens (pushFifos .cc tk.push) with
    pc := pc, held := none, wait := none, ccPop := 0, invs := [], latch := none, waitEntry := none }

end Sys2Proof.Machine
end

