-- ==== Sys2Proof/Certificates/Slice0/Obligations.lean ====
section
/-! DEFINITION. The statements for the provers, with the terms they are written in: the values the rules of the manual give, written
out here a second time, from the manual and not from the model. -/

namespace Sys2Proof.Spec
open Sys2Proof.Machine

/-! ## Terms -/

/-- What an exec that completes answers on the current core: the context y, otherwise as it was. -/
abbrev goesOn (i : Instr) (s : State) (y : Ctx) : Prop := exec i s = .next (s.setCtx y)

/-- Nothing but the live context of core c differs between two states. -/
def onlyLive (s t : State) (c : Nat) : Prop := t = s.setLive c (t.live c)

/-- A place that no register of a control core is seen at: not the register and token windows (R52). -/
def plain : Place → Bool
  | .win _ _ off => decide (off < 0x260000)
  | _ => true

/-- The sign-extended or zero-extended field [pos + wid − 1 : pos] (R109), by shifting it to the top and down again. -/
def bitField (a : W64) (pos wid : Nat) (sgn : Bool) : W64 :=
  let top := a <<< (64 - pos - wid)
  if sgn then top.sshiftRight (64 - wid) else top >>> (64 - wid)

/-- The destination and the value that the table of class 000 gives a word (R109 to R111); none for the words of other classes and
for those that the table calls illegal. -/
def aluResult (x : Ctx) : Instr → Option (Tok × BitVec 5 × W64)
  | .add tk d a b => some (tk, d, x.rg a + x.rg b)
  | .sub tk d a b => some (tk, d, x.rg a - x.rg b)
  | .and tk d a b => some (tk, d, x.rg a &&& x.rg b)
  | .or tk d a b => some (tk, d, x.rg a ||| x.rg b)
  | .xor tk d a b => some (tk, d, x.rg a ^^^ x.rg b)
  | .andn tk d a b => some (tk, d, x.rg a &&& ~~~(x.rg b))
  | .shl tk d a b => some (tk, d, x.rg a <<< (x.rg b &&& 63))
  | .shr tk d a b => some (tk, d, x.rg a >>> (x.rg b &&& 63))
  | .sra tk d a b => some (tk, d, (x.rg a).sshiftRight (x.rg b &&& 63).toNat)
  | .rot tk d a b => some (tk, d, x.rg a <<< (x.rg b &&& 63) ||| x.rg a >>> (64 - (x.rg b &&& 63)))
  | .mul tk d a b => some (tk, d, ((x.rg a).setWidth 128 * (x.rg b).setWidth 128).extractLsb' 0 64)
  | .mulh tk d a b => some (tk, d, ((x.rg a).signExtend 128 * (x.rg b).signExtend 128).extractLsb' 64 64)
  | .mulhn tk d a b => some (tk, d, ((x.rg a).setWidth 128 * (x.rg b).setWidth 128).extractLsb' 64 64)
  | .div tk d a b => some (tk, d, if x.rg b = 0 then 0xFFFF_FFFF_FFFF_FFFF
      else if x.rg a = 0x8000_0000_0000_0000 ∧ (x.rg b).toInt = -1 then 0x8000_0000_0000_0000
      else BitVec.ofInt 64 ((x.rg a).toInt.tdiv (x.rg b).toInt))
  | .divn tk d a b => some (tk, d, if x.rg b = 0 then 0xFFFF_FFFF_FFFF_FFFF else x.rg a / x.rg b)
  | .rem tk d a b => some (tk, d, if x.rg b = 0 then x.rg a
      else if x.rg a = 0x8000_0000_0000_0000 ∧ (x.rg b).toInt = -1 then 0
      else BitVec.ofInt 64 ((x.rg a).toInt - (x.rg b).toInt * (x.rg a).toInt.tdiv (x.rg b).toInt))
  | .remn tk d a b => some (tk, d, if x.rg b = 0 then x.rg a else x.rg a % x.rg b)
  | .min tk d a b => some (tk, d, if (x.rg a).toInt ≤ (x.rg b).toInt then x.rg a else x.rg b)
  | .max tk d a b => some (tk, d, if (x.rg a).toInt ≤ (x.rg b).toInt then x.rg b else x.rg a)
  | .minn tk d a b => some (tk, d, if (x.rg a).toNat ≤ (x.rg b).toNat then x.rg a else x.rg b)
  | .maxn tk d a b => some (tk, d, if (x.rg a).toNat ≤ (x.rg b).toNat then x.rg b else x.rg a)
  | .clz tk d a => some (tk, d, (x.rg a).clz)
  | .popc tk d a => some (tk, d, BitVec.ofNat 64 ((List.range 64).map fun i => ((x.rg a).getLsbD i).toNat).sum)
  | .cmp tk d a b cond =>
    let p := x.rg a
    let q := x.rg b
    match cond.toNat with
    | 0 => some (tk, d, if p = q then 1 else 0)
    | 1 => some (tk, d, if p = q then 0 else 1)
    | 2 => some (tk, d, if p.toInt < q.toInt then 1 else 0)
    | 3 => some (tk, d, if p.toInt < q.toInt then 0 else 1)
    | 4 => some (tk, d, if p.toNat < q.toNat then 1 else 0)
    | 5 => some (tk, d, if p.toNat < q.toNat then 0 else 1)
    | _ => none
  | .sel tk d a b c => some (tk, d, if x.rg c = 0 then x.rg b else x.rg a)
  | .addx tk d a b sc => some (tk, d, x.rg a + x.rg b * BitVec.ofNat 64 (2 ^ sc.toNat))
  | .bfx tk d a sx pos wid =>
    if pos.toNat + (wid.toNat + 1) ≤ 64 then some (tk, d, bitField (x.rg a) pos.toNat (wid.toNat + 1) (sx == 1)) else none
  | .bfi tk d a pos wid =>
    if pos.toNat + (wid.toNat + 1) ≤ 64 then
      let low := bitField (BitVec.allOnes 64) 0 (wid.toNat + 1) false
      some (tk, d, (x.rg d &&& ~~~(low <<< pos.toNat)) ||| ((x.rg a &&& low) <<< pos.toNat))
    else none
  | .addi tk d a imm => some (tk, d, x.rg a + imm.signExtend 64)
  | .andi tk d a imm => some (tk, d, x.rg a &&& imm.signExtend 64)
  | .ori tk d a imm => some (tk, d, x.rg a ||| imm.signExtend 64)
  | .xori tk d a imm => some (tk, d, x.rg a ^^^ imm.signExtend 64)
  | .shli tk d a sh => some (tk, d, x.rg a <<< sh.toNat)
  | .shri tk d a sh => some (tk, d, x.rg a >>> sh.toNat)
  | .srai tk d a sh => some (tk, d, (x.rg a).sshiftRight sh.toNat)
  | .roti tk d a sh => some (tk, d, x.rg a <<< sh.toNat ||| x.rg a >>> (64 - sh.toNat))
  | .movhi tk d imm => some (tk, d, imm.signExtend 64 <<< 30)
  | _ => none

/-- The condition that a branch code names (R93, R113): EQ, NE, LT, GE, LTN, GEN, Z, NZ; none for a reserved code. -/
def branchTaken (cc : BitVec 4) (p q : W64) : Option Bool :=
  match cc.toNat with
  | 0 => some (decide (p = q))
  | 1 => some (decide (p ≠ q))
  | 2 => some (decide (p.toInt < q.toInt))
  | 3 => some (decide (q.toInt ≤ p.toInt))
  | 4 => some (decide (p.toNat < q.toNat))
  | 5 => some (decide (q.toNat ≤ p.toNat))
  | 6 => some (decide (p = 0))
  | 7 => some (decide (p ≠ 0))
  | _ => none

/-- The context and the next index that the table of control flow gives a word (R113); none for other words and for what the
table calls illegal. -/
def flowResult (x : Ctx) : Instr → Option (Tok × Ctx × W64)
  | .br tk a b cc off =>
    (branchTaken cc (x.rg a) (x.rg b)).map fun t => (tk, x, if t then x.pc + off.signExtend 64 else x.pc + 1)
  | .jmp tk off => some (tk, x, x.pc + off.signExtend 64)
  | .call tk off => some (tk, x.setG 30 (x.pc + 1), x.pc + off.signExtend 64)
  | .jr tk d a => some (tk, x.setG d (x.pc + 1), x.rg a)
  | .loop tk lc off =>
    if 4 ≤ lc.toNat then none
    else
      let n := x.sr (0x020 + lc.toNat)
      let m := if n ≠ 0 then n - 1 else n
      some (tk, x.setSr (0x020 + lc.toNat) m, if m ≠ 0 then x.pc + off.signExtend 64 else x.pc + 1)
  | _ => none

end Sys2Proof.Spec

open Sys2Proof Sys2Proof.Machine Sys2Proof.Spec

/-- Every legal word of class 000 completes with the value of R109 to R111 in gd, the pc at the next word and its tokens moved,
and nothing else changed: no fault, no flag (R112), no byte of memory. -/
def Obligations.AluWordsWriteTheirResult : Prop :=
  ∀ (s : State) (i : Instr) (tk : Tok) (d : BitVec 5) (v : W64), aluResult s.ctx i = some (tk, d, v) → s.goes s.cur tk = true →
    goesOn i s ((s.ctx.setG d v).retired tk (s.ctx.pc + 1))

/-- Every legal branch, jump, call and loop completes with the pc, link and loop counter of R113, and nothing else changed. Such a word, and a legal word
of class 000, leaves every byte of memory as it was, as seen at every place that shows no register (R52). -/
def Obligations.FlowWordsSetThePc : Prop :=
  (∀ (s : State) (i : Instr) (tk : Tok) (y : Ctx) (pc : W64), flowResult s.ctx i = some (tk, y, pc) → s.goes s.cur tk = true →
    goesOn i s (y.retired tk pc)) ∧
  ∀ (s t : State) (i : Instr) (tk : Tok), ((∃ d v, aluResult s.ctx i = some (tk, d, v)) ∨ ∃ y pc, flowResult s.ctx i = some (tk, y, pc)) →
    s.goes s.cur tk = true → exec i s = .next t → ∀ p : Place, plain p = true → t.byte p = s.byte p

namespace Sys2Proof.Spec
open Sys2Proof.Machine

/-- The number that n bytes of a window make, least significant first (R3). -/
def winNat (s : State) (c ctx off : Nat) : Nat → Nat
  | 0 => 0
  | n + 1 => (s.byte (.win c ctx off)).toNat + 256 * winNat s c ctx (off + 1) n
/-- The number that n bytes of tier-2 make. -/
def t2Nat (s : State) (pa : Nat) : Nat → Nat
  | 0 => 0
  | n + 1 => (s.byte (.tier2 pa)).toNat + 256 * t2Nat s (pa + 1) n

/-- Bytes that a size code of LD names, and whether it extends the sign (R116); none for 111, which is illegal. -/
def loadSize (size : BitVec 3) : Option (Nat × Bool) :=
  match size.toNat with
  | 0 => some (1, false)
  | 1 => some (2, false)
  | 2 => some (4, false)
  | 3 => some (8, false)
  | 4 => some (1, true)
  | 5 => some (2, true)
  | 6 => some (4, true)
  | _ => none
/-- The value a load leaves in gd (R116). -/
def loaded (n : Nat) (sgn : Bool) (v : Nat) : W64 :=
  if sgn && decide (2 ^ (8 * n - 1) ≤ v) then BitVec.ofNat 64 (2 ^ 64 - 2 ^ (8 * n) + v) else BitVec.ofNat 64 v

/-- The address of LD and ST (R116). -/
def address (x : Ctx) (a b : BitVec 5) (off : BitVec 16) : W64 := x.rg a + x.rg b + off.signExtend 64

/-- An offset of the own scratchpad at which n bytes may be read and written: in the window, aligned, within the lease or in
supervisor code, in no held bank group and no gated one, and in a word without an error, correctable ones included, which an access would
count (R51 to R57, R64, R117, R302, R330). -/
def padFree (s : State) (off n : Nat) : Bool :=
  decide (off + n ≤ 0x200000 ∧ off % n = 0) && (s.ctx.sup || s.leased s.ctx.id s.cur off) && !s.heldOff s.cur off
    && !s.gated s.cur (bankOf off) && !(s.core s.cur).badWords.contains (off / 8)
    && !(s.core s.cur).softWords.contains (off / 8)

/-- A page of tier-2 that the TLB of the current context holds and that an access to n bytes at va may use: within 48 bits, aligned,
with the right it needs, installed, and good (R46 to R49, R64). -/
def pageFree (s : State) (e : TlbEntry) (va n : Nat) (write : Bool) : Bool :=
  decide (va < 2 ^ 48 ∧ va % n = 0 ∧ s.ctx.tlbFind s.ctx.id va = some e ∧ e.tgt = 0) && (if write then e.w else e.r)
    && (s.ctx.sup || e.usr) && !s.pageMissing 0 (e.pa + (va - e.va))
    && (List.range n).all fun i => !s.badRead (.tier2 (e.pa + (va - e.va) + i)) && !s.badUnit (.tier2 (e.pa + (va - e.va) + i))
/-- The physical address of va in a page. -/
def physOf (e : TlbEntry) (va : Nat) : Nat := e.pa + (va - e.va)

/-- The control core can trap or wait now: no token is missing, no store is on its way that a push of the word would release, and no wait
ends that is logged (R42, R118, R155, R231). -/
def mayTrap (s : State) (tk : Tok) : Bool :=
  s.ctx.canPop tk.pop && (s.ctx.path.isEmpty || tk.push == 0) && (s.ctx.wait.isNone || (s.head (hlOf s.cur)).waitThreshold == 0)
/-- The context whose word waits for something: its pops are made and kept (R42). -/
def waiting (x : Ctx) (tk : Tok) (w : Wait) : Ctx := { x.begun tk.pop with wait := some w }
/-- The context whose waiting instruction is given up: its pops are undone, where a FIFO that holds 15 tokens meanwhile gets its token back
once it has room (R42, R108, R137; the model's choice, log 29). -/
def givenUp (x : Ctx) : Ctx :=
  { x.backTokens (popFifos .cc x.ccPop) with wait := none, ccPop := 0, invs := [], latch := none, waitEntry := none }

/-- The registers that a trap writes (R136, R140). -/
def trapRegs : List Nat := [0x000, 0x002, 0x003, 0x004, 0x008, 0x009, 0x00A, 0x00B]
/-- The context y is x after the entry of a trap with a cause, a value reported, a restart index, and the record: TREC0, the sequence number and the detail (R136,
R140): into the program's handler, or into the supervisor. A wait is given up with its pops, and what a resumed core has passed at the index it leaves (R123, R152)
stops it anew; nothing else of the context is changed. -/
def enteredWith (x y : Ctx) (cause val : Nat) (restart trec0 : W64) (seq detail : Nat) (prog : Bool) : Prop :=
  y.sr 0x002 = BitVec.ofNat 64 cause ∧ y.sr 0x004 = BitVec.ofNat 64 val ∧ y.sr 0x003 = restart ∧
  y.sr 0x008 = trec0 ∧ y.sr 0x009 = BitVec.ofNat 64 seq ∧ y.sr 0x00A = BitVec.ofNat 64 val ∧ y.sr 0x00B = BitVec.ofNat 64 detail ∧
  y.inh = true ∧ y.sup = !prog ∧ y.psup = x.sup ∧ y.svc = x.svc ∧ y.te = x.te ∧ (y.sr 0x000).toNat < 32 ∧
  y.pc = (if prog then x.sr 0x001 else BitVec.ofNat 64 Config.supervisorEntry) ∧ y.parked = false ∧
  (∀ n, n ∉ trapRegs → y.sr n = x.sr n) ∧
  { y with sys := x.sys, pc := x.pc, parked := x.parked, collHandler := x.collHandler } =
    { givenUp x with passed := x.passed.filter fun b => match b with | .pc _ => false | .queue _ _ => true, brkPassed := false }
/-- The entry of a trap that names no command and no detail. -/
def entered (x y : Ctx) (cause val : Nat) (restart trec0 : W64) (prog : Bool) : Prop := enteredWith x y cause val restart trec0 0 0 prog
/-- Whether a cause with destination P goes to the program's handler (R135). -/
def toProgram (x : Ctx) : Bool := x.sr 0x001 != 0 && !x.inh && !x.sup && !x.exited
/-- TREC0 of a precise trap (R140): the cause in [63:56], agent 0, the opcode byte in [47:40]. -/
def preciseRecord (cause opc : Nat) : W64 := BitVec.ofNat 64 (cause * 2 ^ 56 + opc * 2 ^ 40)
/-- A place outside the trace ring of a core's headland (R154). -/
def outsideRing (s : State) (c : Nat) : Place → Bool
  | .tier2 a => let h := s.head (hlOf c); decide (a < h.traceBase ∨ h.traceBase + h.traceSize ≤ a)
  | _ => true

end Sys2Proof.Spec

open Sys2Proof Sys2Proof.Machine Sys2Proof.Spec

/-- An LD from the own window's scratchpad completes with the bytes at A = ga + gb + sext(off), zero- or sign-extended, in gd, and
nothing else changed (R116, R118). -/
def Obligations.LoadFromOwnScratchpad : Prop :=
  ∀ (s : State) (tk : Tok) (d a b : BitVec 5) (size : BitVec 3) (off : BitVec 16) (n o : Nat) (sgn : Bool),
    loadSize size = some (n, sgn) → address s.ctx a b off = BitVec.ofNat 64 (2 ^ 63 + o) → padFree s o n = true → s.goes s.cur tk = true →
    goesOn (.ld tk d a b size off) s
      ((s.ctx.setG d (loaded n sgn (winNat s s.cur s.ctx.id o n))).retired tk (s.ctx.pc + 1))

/-- An ST to the own window's scratchpad completes: the low bytes of the register that the d field names stand at A, least significant
first; every other byte, as seen at every place that shows no register, is as it was; and the context only retires (R116). -/
def Obligations.StoreToOwnScratchpad : Prop :=
  ∀ (s : State) (tk : Tok) (d a b : BitVec 5) (size : BitVec 3) (off : BitVec 16) (n o : Nat),
    loadSize size = some (n, false) → address s.ctx a b off = BitVec.ofNat 64 (2 ^ 63 + o) → padFree s o n = true → s.goes s.cur tk = true →
    ∃ t, exec (.st tk d a b size off) s = .next t ∧ t.ctx = s.ctx.retired tk (s.ctx.pc + 1) ∧
      (∀ i, i < n → ∀ y, t.byte (.win s.cur y (o + i)) = (s.ctx.rg d).extractLsb' (8 * i) 8) ∧
      (∀ p : Place, plain p = true → (∀ i y, i < n → p ≠ .win s.cur y (o + i)) → t.byte p = s.byte p) ∧
      { t with cores := s.cores } = s

/-- An LD from a tier-2 page waits, with nothing changed but its pops and the wait; REMOTE_LOAD_RETURN then, once no
store of the core is on its way, ends it with the bytes of the page in gd (R117, R118). -/
def Obligations.LoadFromTierTwo : Prop :=
  ∀ (s : State) (tk : Tok) (d a b : BitVec 5) (size : BitVec 3) (off : BitVec 16) (n : Nat) (sgn : Bool) (e : TlbEntry),
    loadSize size = some (n, sgn) → pageFree s e (address s.ctx a b off).toNat n false = true → s.goes s.cur tk = true →
    (s.ctx.wait = none →
      goesOn (.ld tk d a b size off) s (waiting s.ctx tk (Wait.mk .remoteLoad (address s.ctx a b off).toNat s.cycle))) ∧
    ((∃ w, s.ctx.wait = some w ∧ w.kind = .remoteLoad) → s.ctx.path = [] → s.mayGo s.cur = true →
      s.wordAt s.cur = some (.ld tk d a b size off) →
      goesOn (.remoteLoadReturn s.cur) s
        ((s.ctx.setG d (loaded n sgn (t2Nat s (physOf e (address s.ctx a b off).toNat) n))).retired tk (s.ctx.pc + 1)))

/-- An ST to a tier-2 page enters the store path and completes without waiting for it, while the path has fewer than 16 stores, and memory is as it was; one that
pushes a token is performed before its push (R231). STORE_PERFORMED: the oldest store of a path whose target is tier-2 leaves the path, its bytes stand at its
target, and every other byte is as it was (R117, R118). -/
def Obligations.StoresPassThroughTheStorePath : Prop :=
  (∀ (s : State) (tk : Tok) (d a b : BitVec 5) (size : BitVec 3) (off : BitVec 16) (n : Nat) (e : TlbEntry),
      loadSize size = some (n, false) → pageFree s e (address s.ctx a b off).toNat n true = true →
      s.ctx.canPop tk.pop = true → tk.push = 0 → s.ctx.path.length < 16 → s.ctx.wait = none → s.ctx.held = none →
      goesOn (.st tk d a b size off) s
        ({ s.ctx with
            path := s.ctx.path ++ [PathStore.mk (.tier2 (physOf e (address s.ctx a b off).toNat))
              ((List.range n).map fun i => (s.ctx.rg d).extractLsb' (8 * i) 8)] }.retired tk (s.ctx.pc + 1))) ∧
  (∀ (s : State) (tk : Tok) (d a b : BitVec 5) (size : BitVec 3) (off : BitVec 16) (n : Nat) (e : TlbEntry),
      loadSize size = some (n, false) → pageFree s e (address s.ctx a b off).toNat n true = true → s.goes s.cur tk = true → tk.push ≠ 0 →
      ∃ t, exec (.st tk d a b size off) s = .next t ∧ t.ctx = s.ctx.retired tk (s.ctx.pc + 1) ∧
        (∀ i, i < n → t.byte (.tier2 (physOf e (address s.ctx a b off).toNat + i)) = (s.ctx.rg d).extractLsb' (8 * i) 8) ∧
        ∀ p : Place, plain p = true → (∀ i, i < n → p ≠ .tier2 (physOf e (address s.ctx a b off).toNat + i)) → t.byte p = s.byte p) ∧
  ∀ (s : State) (c pa : Nat) (bs : List Byte) (r : List PathStore),
    (s.core c).active = true → (s.live c).path = ⟨.tier2 pa, bs⟩ :: r →
    ∃ t, exec (.storePerformed c) s = .next t ∧ t.live c = { s.live c with path := r } ∧
      (∀ i, i < bs.length → t.byte (.tier2 (pa + i)) = bs.getD i 0) ∧
      (∀ p : Place, (∀ i, i < bs.length → p ≠ .tier2 (pa + i)) → t.byte p = s.byte p) ∧
      { t with cores := s.cores, tier2 := s.tier2, badTier2 := s.badTier2 } = s

/-- LD and ST check alignment: an access to the own scratchpad, allowed but not a multiple of its size, traps ALIGN with A reported; where that is no
double fault it changes only the registers of trap entry, and no byte that shows no register outside the trace ring (R117, R136, R137). -/
def Obligations.MisalignedAccessTrapsAlign : Prop :=
  ∀ (s : State) (tk : Tok) (d a b : BitVec 5) (size : BitVec 3) (off : BitVec 16) (n o : Nat) (sgn st : Bool),
    loadSize size = some (n, sgn) → (st = true → sgn = false) → address s.ctx a b off = BitVec.ofNat 64 (2 ^ 63 + o) →
    o < 0x200000 → o % n ≠ 0 → (s.ctx.sup || s.leased s.ctx.id s.cur o) = true → mayTrap s tk = true →
    ∃ t, exec (if st then .st tk d a b size off else .ld tk d a b size off) s = .next t ∧
      t = s.trap s.cur { cause := 0x04, addr := 2 ^ 63 + o, opc := s.opcAt s.cur, clk := s.cycle } s.ctx.pc ∧
      ((s.ctx.inh && s.ctx.sup) = false →
        entered s.ctx t.ctx 0x04 (2 ^ 63 + o) s.ctx.pc (preciseRecord 0x04 (s.opcAt s.cur)) (toProgram s.ctx) ∧
        ∀ p : Place, plain p = true → outsideRing s s.cur p = true → t.byte p = s.byte p)

namespace Sys2Proof.Spec
open Sys2Proof.Machine

/-- Registers that user code may not touch: SCOPEBASE, PTBASE and PREEMPT (R119). -/
def hidden (sn : Nat) : Bool := sn == 0x048 || sn == 0x049 || sn == 0x04A
/-- What an MFS reads (R119): CORE, TIME in ns, CYCLE and CHFREE are the core's and the clocks', the rest is as stored. -/
def sysValue (s : State) (sn : Nat) : W64 :=
  if sn = 0x010 then BitVec.ofNat 64 s.cur
  else if sn = 0x040 then BitVec.ofNat 64 (s.time6 / 6)
  else if sn = 0x041 then BitVec.ofNat 64 s.cycle
  else if sn = 0x035 then BitVec.ofNat 64 (8 - s.ctx.chimney.length - s.ctx.chClaims)
  else s.ctx.sr sn
/-- The bits that an MTS writes (R119, R120), none where it is ignored: in supervisor code, and in user code. -/
def sysBits (sup : Bool) : Nat → W64
  | 0x000 => if sup then 0b01110 else 0b01000
  | 0x001 => 0xFFFF_FFFF_FFFF_FFFF
  | 0x003 => 0xFFFF_FFFF_FFFF_FFFF
  | 0x020 => 0xFFFF_FFFF_FFFF_FFFF
  | 0x021 => 0xFFFF_FFFF_FFFF_FFFF
  | 0x022 => 0xFFFF_FFFF_FFFF_FFFF
  | 0x023 => 0xFFFF_FFFF_FFFF_FFFF
  | 0x024 => 0xFFFF_FFFF
  | 0x030 => 0x1F
  | 0x031 => 0xFFFF_FFFF
  | 0x032 => 0xFFFF_FFFF
  | 0x033 => 0xFFFF_FFFF_0000_007F
  | 0x036 => if sup then 1 else 0
  | 0x042 => if sup then 0xFFFF_FFFF_FFFF_FFFF else 0
  | 0x048 => if sup then 0xFFFF_FFFF_FFFF_FFFF else 0
  | 0x049 => if sup then 0xFFFF_FFFF_FFFF_FFFF else 0
  | 0x04A => if sup then 0xFFFF_FFFF_FFFF_FFFF else 0
  | _ => 0

end Sys2Proof.Spec

open Sys2Proof Sys2Proof.Machine Sys2Proof.Spec

/-- MFS completes with the register in gd and nothing else changed, except that a register hidden from user code faults ACCESS there, with the
index of the MFS reported (R119). -/
def Obligations.SystemRegisterReads : Prop :=
  ∀ (s : State) (tk : Tok) (d : BitVec 5) (sn : BitVec 12), sysRegNumbers.contains sn.toNat = true →
    ((s.ctx.sup || !hidden sn.toNat) = true → s.goes s.cur tk = true →
      goesOn (.mfs tk d sn) s ((s.ctx.setG d (sysValue s sn.toNat)).retired tk (s.ctx.pc + 1))) ∧
    ((s.ctx.sup || !hidden sn.toNat) = false → mayTrap s tk = true →
      exec (.mfs tk d sn) s = .next (s.trap s.cur { cause := 0x03, addr := s.ctx.pc.toNat, opc := s.opcAt s.cur, clk := s.cycle } s.ctx.pc))

/-- MTS completes with the writable bits of the register taken from ga, every other register and everything else as it was; bits that user
code, or any code, may not write keep their value; a register hidden from user code faults ACCESS there (R119, R120). Which bits of DOMCNT ([31:0]) and of TIDEPRI
([0]) an MTS writes is the model's choice (log 89; R119 gives no map of them). -/
def Obligations.SystemRegisterWrites : Prop :=
  ∀ (s : State) (tk : Tok) (a : BitVec 5) (sn : BitVec 12), sysRegNumbers.contains sn.toNat = true →
    ((s.ctx.sup || !hidden sn.toNat) = true → s.goes s.cur tk = true →
      ∃ y : Ctx, goesOn (.mts tk a sn) s (y.retired tk (s.ctx.pc + 1)) ∧ { y with sys := s.ctx.sys } = s.ctx ∧
        (∀ n, n ≠ sn.toNat → y.sr n = s.ctx.sr n) ∧
        ∀ i, i < 64 → (y.sr sn.toNat).getLsbD i =
          if (sysBits s.ctx.sup sn.toNat).getLsbD i then (s.ctx.rg a).getLsbD i else (s.ctx.sr sn.toNat).getLsbD i) ∧
    ((s.ctx.sup || !hidden sn.toNat) = false → mayTrap s tk = true →
      exec (.mts tk a sn) s = .next (s.trap s.cur { cause := 0x03, addr := s.ctx.pc.toNat, opc := s.opcAt s.cur, clk := s.cycle } s.ctx.pc))

/-- TRAP with a code other than 0, and BRK where kndbg does not hold the core, retire and take a trap: cause 0x0F or 0x10, the code in TVAL, TPC the
next index, STATUS.INH set, and the pc at TVEC or at the supervisor's entry. A precise fault (here ACCESS of an MFS from user code) enters the handler with
the index of its own instruction in TPC and TVAL, and with no other effect, its pops included (R119, R121, R123, R135 to R137, R140). -/
def Obligations.TrapsEnterTheHandler : Prop :=
  (∀ (s : State) (tk : Tok) (code : BitVec 16) (brk : Bool), s.goes s.cur tk = true → (s.ctx.inh && s.ctx.sup) = false →
    (if brk then (s.core s.cur).debugHold = false else code ≠ 0) →
    ∃ t, exec (if brk then .brk tk code else .trap tk code) s = .next t ∧
      entered (s.ctx.retired tk (s.ctx.pc + 1)) t.ctx (if brk then 0x10 else 0x0F) code.toNat (s.ctx.pc + 1)
        (preciseRecord (if brk then 0x10 else 0x0F) (s.opcAt s.cur)) ((brk || decide (code.toNat < 0x100)) && toProgram s.ctx)) ∧
  ∀ (s : State) (tk : Tok) (d : BitVec 5) (sn : BitVec 12), hidden sn.toNat = true → s.ctx.sup = false → mayTrap s tk = true →
    ∃ t, exec (.mfs tk d sn) s = .next t ∧
      entered s.ctx t.ctx 0x03 s.ctx.pc.toNat s.ctx.pc (preciseRecord 0x03 (s.opcAt s.cur)) (toProgram s.ctx)

/-- A precise cause while STATUS.INH and SUP are both set is a double fault: the control core halts and goes on no more, a black-box record of KIND 0x10
says why, and the lesson of the core, unless it is retired already, retires faulted with that cause, off all its seats. A TRAP with a code other than 0 does so, and the
completion record of its running lesson says so (R136, R157, R25, R26). -/
def Obligations.DoubleFaultEndsTheLesson : Prop :=
  (∀ (s : State) (c : Nat) (p : Pend) (r : W64) (x : Ctx), s.live c = x → x.inh = true → x.sup = true → p.agent = 0 → p.cause ∉ [0x0E, 0x11, 0x12] →
    ((s.trap c p r).head (hlOf c)).blackBox.head? =
      some { time := s.time6 / 6, kind := 0x10, core := c, ctx := x.id, code := p.cause, value := p.addr } ∧
    (s.lesson x.id x.lesson = none → ((s.trap c p r).live c).halted = true ∧ (s.trap c p r).mayGo c = false) ∧
    ∀ l, s.lesson x.id x.lesson = some l →
      (l.st = .retired → ((s.trap c p r).live c).halted = true ∧ (s.trap c p r).mayGo c = false) ∧
      (l.st ≠ .retired →
        (∃ m, (s.trap c p r).lesson x.id x.lesson = some m ∧ m.st = .retired ∧ m.seats = []) ∧
        ∀ se ∈ l.seats, ¬ (((s.trap c p r).core se.core).active = true ∧ ((s.trap c p r).live se.core).isOf x.id x.lesson = true))) ∧
  ∀ (s : State) (tk : Tok) (code : BitVec 16) (l : Lesson), s.goes s.cur tk = true → s.ctx.inh = true → s.ctx.sup = true → code ≠ 0 →
    s.lesson s.ctx.id s.ctx.lesson = some l → l.st = .running →
    ∃ t, exec (.trap tk code) s = .next t ∧
      (∃ m, t.lesson s.ctx.id s.ctx.lesson = some m ∧ m.st = .retired ∧ m.seats = []) ∧
      ∀ p, s.pageOf s.ctx.id = some p → (s.page p).comp.length < 256 →
        ((t.page p).comp.getLast?).map (·.1) = some (BitVec.ofNat 64 (0x0F * 2 ^ 40 + 3 * 2 ^ 32 + s.ctx.lesson % 2 ^ 32))

/-- TRAP 0 is the exit service: it completes with the seat exited, which fetches nothing more, and a running lesson whose one seat has exited is draining (R26, R38,
R121). -/
def Obligations.TrapZeroExitsTheSeat : Prop :=
  ∀ (s : State) (tk : Tok) (l : Lesson) (se : Seat), s.goes s.cur tk = true → (s.core s.cur).active = true →
    s.lesson s.ctx.id s.ctx.lesson = some l → l.st = .running → l.seats = [se] → se.core = s.cur →
    ∃ t, exec (.trap tk 0) s = .next t ∧ t.ctx = { s.ctx with exited := true, parked := true }.retired tk (s.ctx.pc + 1) ∧ t.ctx.fetches = false ∧
      t.lesson s.ctx.id s.ctx.lesson = some { l with st := .draining } ∧ { t with cores := s.cores, lessons := s.lessons } = s

/-- ERET is 001:0A with every field zero. With INH set it returns: the pc from TPC, SUP from PSUP, INH clear and every other register as it was; with INH clear it
faults ACCESS with its index (R122). Where it ends a COLLPAGE handler, the parked chunks of its context are in the network again and its paused records walk on
(R279), and nothing else changes. -/
def Obligations.EretReturnsFromATrap : Prop :=
  ∀ (s : State) (tk : Tok),
    encode (.eret tk) = some (BitVec.ofNat 64 (tk.pop.toNat * 2 ^ 60 + tk.push.toNat * 2 ^ 52 + 0x2A * 2 ^ 40)) ∧
    (s.ctx.inh = true → s.goes s.cur tk = true →
      ∃ t y, exec (.eret tk) s = .next t ∧ t.ctx = y ∧
        y = { s.ctx.setSr 0x000 ((s.ctx.sr 0x000 &&& 0b01110) ||| ((s.ctx.sr 0x000 >>> 1) &&& 1)) with collHandler := false, parked := s.ctx.exited }.retired tk (s.ctx.sr 0x003) ∧
        (s.ctx.collHandler = false → t = s.setCtx y) ∧ (∀ c, c ≠ s.cur → t.core c = s.core c) ∧
        (s.ctx.collHandler = true →
          (∀ k, k ∈ t.chunks ↔ k ∈ s.chunks ∨ ∃ h ∈ s.heads, k ∈ h.2.park ∧ k.ctx = s.ctx.id) ∧
          (∀ h, t.head h = { s.head h with park := (s.head h).park.filter fun k => k.ctx ≠ s.ctx.id }) ∧
          t.recs = s.recs.map fun r => if r.ctx = s.ctx.id then { r with paused := false } else r) ∧
        { t with cores := s.cores, chunks := s.chunks, heads := s.heads, recs := s.recs } = s) ∧
    (s.ctx.inh = false → mayTrap s tk = true →
      exec (.eret tk) s = .next (s.trap s.cur { cause := 0x03, addr := s.ctx.pc.toNat, opc := s.opcAt s.cur, clk := s.cycle } s.ctx.pc))

/-- TMARK with TE clear only retires; with TE set it writes a record of KIND 0x01 at the end of the headland's trace ring: TIME, then kind, core, context
and code, then ga, then zero (R124, R154). -/
def Obligations.TraceMarkWritesARecord : Prop :=
  ∀ (s : State) (tk : Tok) (a : BitVec 5) (code : BitVec 16), s.goes s.cur tk = true →
    (s.ctx.te = false → goesOn (.tmark tk a code) s (s.ctx.retired tk (s.ctx.pc + 1))) ∧
    ∀ h : Headland, s.head (hlOf s.cur) = h → s.ctx.te = true → h.traceLost = 0 → h.traceCount < h.traceSize / 32 → s.cur < 2048 → s.ctx.id < 65536 →
      ∃ t, exec (.tmark tk a code) s = .next t ∧ t.ctx = s.ctx.retired tk (s.ctx.pc + 1) ∧
        t.head (hlOf s.cur) = { h with traceCount := h.traceCount + 1 } ∧
        t2Nat t (h.traceBase + 32 * h.traceCount) 8 = (s.time6 / 6) % 2 ^ 64 ∧
        t2Nat t (h.traceBase + 32 * h.traceCount + 8) 8 = 0x01 * 2 ^ 56 + s.cur * 2 ^ 32 + s.ctx.id * 2 ^ 16 + code.toNat ∧
        t2Nat t (h.traceBase + 32 * h.traceCount + 16) 8 = (s.ctx.rg a).toNat ∧
        t2Nat t (h.traceBase + 32 * h.traceCount + 24) 8 = 0 ∧
        ∀ pa, pa < h.traceBase + 32 * h.traceCount ∨ h.traceBase + 32 * h.traceCount + 32 ≤ pa → t.byte (.tier2 pa) = s.byte (.tier2 pa)

namespace Sys2Proof.Spec
open Sys2Proof.Machine

/-- The queues that a qm mask names (R126): bit 3 LD, bit 2 ST, bit 1 VX, bit 0 MX. -/
def named (qm : BitVec 4) : Agent → Bool
  | .cc => false
  | .ld => qm.getLsbD 3
  | .st => qm.getLsbD 2
  | .vx => qm.getLsbD 1
  | .mx => qm.getLsbD 0

/-- Whether a generation lies in [lo, hi) (R125). -/
def inRange (g lo hi : W32) : Bool := decide ((g.toNat + 2 ^ 32 - lo.toNat) % 2 ^ 32 < (hi.toNat + 2 ^ 32 - lo.toNat) % 2 ^ 32)

/-- Whether QDROP husks a command (R126): in the range, not started or stopped by a fault, not a QMARK, and no husk yet, nor about to be
one. -/
def dropped (k : Cmd) (lo hi : W32) : Bool :=
  inRange k.gen lo hi && (k.phase == .queued || k.stop.isSome) && !k.husk && !k.dropping && !(match k.instr with | .qmark .. => true | _ => false)

/-- A husk keeps nothing of its command but its number, its tokens and its flag: holds, counts and stop are gone (R126). One that was stopped waits at its head
from then on (log 46). -/
def husked (clk : Nat) (k : Cmd) : Cmd :=
  { k with husk := true, stop := none, dropping := false, resumed := false, pins := [], objs := [], groups := [], tiles := []
           since := if k.stop.isSome then clk else k.since, awaited := if k.stop.isSome then none else k.awaited }

/-- A command apart from its suspension behind a stopped one (R329). -/
def bare (k : Cmd) : Cmd := { k with suspended := false }

/-- Whether QRES resumes a queue (R127): its head is stopped, and an MX head not by SELMISS or MXPAR. -/
def resumes (x : Ctx) (a : Agent) : Bool :=
  match ((x.queue a).head?).bind (·.stop) with
  | some p => !(a == .mx && (p.cause == 0x07 || p.cause == 0x08))
  | none => false

/-- Whether TLBINV of a mode names a TLB entry (R131): by context and address, by context, or every entry. -/
def invNamed (mode : BitVec 2) (va ctx : Nat) (e : TlbEntry) : Bool :=
  if mode = 0 then decide (e.ctx = ctx ∧ e.va ≤ va ∧ va < e.va + e.size) else if mode = 1 then decide (e.ctx = ctx) else true
/-- A TLB with the named entries dying and those of them without a count gone (R50). -/
def invMarked (named : TlbEntry → Bool) (l : List TlbEntry) : List TlbEntry :=
  (l.filter fun e => !((named e || e.dying) && e.count == 0)).map fun e => if named e then { e with dying := true } else e

/-- A core with the TLB entries of its context states, active and shadowed, changed. -/
def tlbChanged (k : Core) (f : List TlbEntry → List TlbEntry) : Core :=
  { k with live := { k.live with tlb := f k.live.tlb }
           sh0 := { k.sh0 with ctx := { k.sh0.ctx with tlb := f k.sh0.ctx.tlb } }
           sh1 := { k.sh1 with ctx := { k.sh1.ctx with tlb := f k.sh1.ctx.tlb } } }
/-- The TLB entries of the context states of a core. -/
def tlbsOf (k : Core) : List TlbEntry := k.live.tlb ++ k.sh0.ctx.tlb ++ k.sh1.ctx.tlb

/-- The context states that stand at a core: the active one and those in its stores (R131). -/
def standing (k : Core) : List Ctx :=
  (if k.active then [k.live] else []) ++ (if k.sh0.st = .empty then [] else [k.sh0.ctx]) ++ (if k.sh1.st = .empty then [] else [k.sh1.ctx])
/-- The state in which CTXSW leaves a context: its pops are made, and what they give the engines room for is pushed (R42). -/
def leaving (s : State) (tk : Tok) : State :=
  if tk.pop = 0 then s else (s.setCtx (s.ctx.startPops tk.pop)).settleEngines s.cur
/-- How a waiting TLBINV knows a TLB entry: by the core, the context, the lesson and the entry's number. -/
def entryKey (c : Nat) (x : Ctx) (e : TlbEntry) : Nat × Nat := ((c * 65536 + x.id) * 2 ^ 32 + x.lesson, e.id)
/-- The named entries of the context states of a core that have a count, as a waiting TLBINV knows them. -/
def countedKeys (c : Nat) (k : Core) (named : TlbEntry → Bool) : List (Nat × Nat) :=
  [k.live, k.sh0.ctx, k.sh1.ctx].flatMap fun x => (x.tlb.filter fun e => named e && decide (0 < e.count)).map (entryKey c x)

/-- The engines, in the order of their numbers in QSTAT (R128). -/
def engines : List Agent := [.ld, .st, .vx, .mx]

end Sys2Proof.Spec

open Sys2Proof Sys2Proof.Machine Sys2Proof.Spec

/-- QDROP completes with every command of the named queues that R126 names turned into a husk, every other command as it was, and the number husked in
gd; no other queue changes (R126), while the repair lane is empty. -/
def Obligations.QdropHusksTheNamedRange : Prop :=
  ∀ (s : State) (tk : Tok) (d a b : BitVec 5) (qm : BitVec 4), s.ctx.lane = [] → s.goes s.cur tk = true →
    ∃ t, exec (.qdrop tk d a b qm) s = .next t ∧ t.ctx.pc = s.ctx.pc + 1 ∧
      (∀ ag ∈ engines, (t.ctx.queue ag).map bare = (s.ctx.queue ag).map fun k =>
        bare (if named qm ag && dropped k ((s.ctx.rg a).setWidth 32) ((s.ctx.rg b).setWidth 32) then husked s.cycle k else k)) ∧
      (d ≠ 0 → t.ctx.rg d = BitVec.ofNat 64 ((engines.filter (named qm)).flatMap fun ag =>
        (s.ctx.queue ag).filter fun k => dropped k ((s.ctx.rg a).setWidth 32) ((s.ctx.rg b).setWidth 32)).length) ∧
      (∀ r, r ≠ d → t.ctx.rg r = s.ctx.rg r) ∧ t.ctx.sys = s.ctx.sys ∧ t.ctx.v = s.ctx.v ∧ t.ctx.acc = s.ctx.acc ∧
      ∀ p : Place, plain p = true → t.byte p = s.byte p

/-- QRES completes: a named queue whose head is stopped, but MX by SELMISS or MXPAR, has that head unstopped and to start again, every other command
is as it was, and gd is the mask of the queues resumed (R127), while the repair lane is empty. -/
def Obligations.QresResumesStoppedHeads : Prop :=
  ∀ (s : State) (tk : Tok) (d : BitVec 5) (qm : BitVec 4), s.ctx.lane = [] → s.goes s.cur tk = true →
    ∃ t, exec (.qres tk d qm) s = .next t ∧ onlyLive s t s.cur ∧ t.ctx.pc = s.ctx.pc + 1 ∧
      (∀ ag ∈ engines, (named qm ag && resumes s.ctx ag) = true →
        (∃ k r, t.ctx.queue ag = k :: r ∧ k.stop = none ∧ k.phase = .queued ∧ r = (s.ctx.queue ag).tail ∧
          ((s.ctx.queue ag).head?).map (fun q => (q.instr, q.seq, q.gen, q.gv, q.popped)) = some (k.instr, k.seq, k.gen, k.gv, k.popped))) ∧
      (∀ ag ∈ engines, (named qm ag && resumes s.ctx ag) = false → t.ctx.queue ag = s.ctx.queue ag) ∧
      (d ≠ 0 → ∀ i, i < 64 → (t.ctx.rg d).getLsbD i = engines.any fun ag => decide (i = 4 - agentNum ag) && named qm ag && resumes s.ctx ag) ∧
      ∀ r, r ≠ d → t.ctx.rg r = s.ctx.rg r

/-- QSTAT completes with the snapshot of R128 in gd: the head's number or the next, the cause of the stop, the husks, the stop and the entries. -/
def Obligations.QstatReadsTheQueue : Prop :=
  ∀ (s : State) (tk : Tok) (d : BitVec 5) (qn : BitVec 3) (ag : Agent), engines[qn.toNat]? = some ag → (s.ctx.queue ag).length ≤ 32 →
    (∀ k ∈ s.ctx.queue ag, ∀ p, k.stop = some p → p.cause < 256) → s.goes s.cur tk = true →
    ∃ v : W64, goesOn (.qstat tk d qn) s ((s.ctx.setG d v).retired tk (s.ctx.pc + 1)) ∧
      (v.extractLsb' 32 32).toNat = (match s.ctx.queue ag with | k :: _ => k.seq | [] => s.ctx.seqs.get 0 (agentNum ag)) % 2 ^ 32 ∧
      v.extractLsb' 24 8 = 0 ∧
      (v.extractLsb' 16 8).toNat = (match (s.ctx.queue ag).head?.bind (·.stop) with | some p => p.cause | none => 0) ∧
      (v.extractLsb' 8 8).toNat = ((s.ctx.queue ag).filter (·.husk)).length ∧
      v.getLsbD 7 = ((s.ctx.queue ag).head?.bind (·.stop)).isSome ∧
      (v.extractLsb' 0 7).toNat = (s.ctx.queue ag).length

/-- QSET writes word w of a stream register, the reserved bits [198:192] as zero; QGET reads a word; QCLR writes zero; nothing else changes (R132). -/
def Obligations.StreamRegisterWords : Prop :=
  ∀ (s : State) (tk : Tok) (d a : BitVec 5) (w : BitVec 2), s.goes s.cur tk = true →
    (∃ y : Ctx, goesOn (.qset tk d a w) s (y.retired tk (s.ctx.pc + 1)) ∧ { y with q := s.ctx.q } = s.ctx ∧
      (∀ r, r ≠ d.toNat → y.q.get 0 r = s.ctx.q.get 0 r) ∧
      ∀ u : BitVec 2, (y.q.get 0 d.toNat).extractLsb' (64 * u.toNat) 64 =
        if u = w then (if w = 3 then s.ctx.rg a &&& 0xFFFF_FFFF_FFFF_FF80 else s.ctx.rg a)
        else (s.ctx.q.get 0 d.toNat).extractLsb' (64 * u.toNat) 64) ∧
    goesOn (.qget tk d a w) s ((s.ctx.setG d ((s.ctx.q.get 0 a.toNat).extractLsb' (64 * w.toNat) 64)).retired tk (s.ctx.pc + 1)) ∧
    ∃ y : Ctx, goesOn (.qclr tk d) s (y.retired tk (s.ctx.pc + 1)) ∧ { y with q := s.ctx.q } = s.ctx ∧
      ∀ r, y.q.get 0 r = if r = d.toNat then 0 else s.ctx.q.get 0 r

/-- YIELD completes and ends the time slice: PREEMPT reloads, and where the seat's other slot holds a lesson of equal priority whose context is
RESIDENT and has started, TIMER is pending and names its shadow store; where none shares the seat, nothing else changes (R31, R129, R146). -/
def Obligations.YieldEndsTheSlice : Prop :=
  ∀ (s : State) (tk : Tok), s.goes s.cur tk = true → (s.core s.cur).timerDue = false →
    ((s.core s.cur).equalPeer = none →
      goesOn (.yield tk) s ((s.ctx.setSr 0x04A (BitVec.ofNat 64 (s.sliceOf s.ctx.id s.ctx.lesson))).retired tk (s.ctx.pc + 1))) ∧
    ∀ o n, (s.core s.cur).equalPeer = some o → (s.core s.cur).storeOf o.ctx o.num = some n → (s.core s.cur).startedIn n = true →
      (∀ p ∈ s.ctx.pend, p.cause ≠ 0x11) →
      goesOn (.yield tk) s
        ({ s.ctx.setSr 0x04A (BitVec.ofNat 64 (s.sliceOf s.ctx.id s.ctx.lesson)) with
            pend := s.ctx.pend ++ [({ cause := 0x11, addr := n, clk := s.cycle } : Pend)] }.retired tk (s.ctx.pc + 1))

/-- CTXSW to a RESIDENT store whose context has started, while the other store is EMPTY, makes that context active with every register as it was saved, and keeps the
outgoing one in the other store, past the CTXSW, what its engines held at a FIFO that the CTXSW pops pushed before it leaves (R42). It waits while the other store is
STREAMOUT. From user code, for a value that names no store, where store n is not RESIDENT, and where the other store is RESIDENT or STREAMIN it faults ACCESS (R130,
R143). -/
def Obligations.ContextSwitchSwapsTheStores : Prop :=
  ∀ (s : State) (tk : Tok) (a : BitVec 5) (n : Nat), (s.ctx.rg a).toNat = n →
    (n < 2 → s.ctx.sup = true → (s.core s.cur).active = true → ((s.core s.cur).store n).st = .resident →
      ((s.core s.cur).store (1 - n)).st = .empty → s.goes s.cur tk = true → ∀ u, u = leaving s tk → (u.core s.cur).active = true →
      u.evicted ((u.core s.cur).store n).ctx = false → ((u.core s.cur).store n).ctx.waitStart = false →
      (u.live s.cur).hasRoom (pushFifos .cc tk.push) = true →
      ∃ t, exec (.ctxsw tk a) s = .next t ∧
        { t.live s.cur with pend := [], stNext := false, wait := none, ccPop := 0, invs := [], latch := none, waitEntry := none } =
          { ((u.core s.cur).store n).ctx with pend := [], stNext := false, wait := none, ccPop := 0, invs := [], latch := none, waitEntry := none } ∧
        ((t.core s.cur).store (1 - n)).ctx = (u.live s.cur).retired ⟨0, tk.push⟩ ((u.live s.cur).pc + 1) ∧ ((t.core s.cur).store (1 - n)).st ≠ .empty) ∧
    (s.ctx.sup = false → mayTrap s tk = true →
      exec (.ctxsw tk a) s = .next (s.trap s.cur { cause := 0x03, addr := s.ctx.pc.toNat, opc := s.opcAt s.cur, clk := s.cycle } s.ctx.pc)) ∧
    (n < 2 → s.ctx.sup = true → mayTrap s tk = true → s.ctx.wait = none → ((s.core s.cur).store n).st = .resident →
      ((s.core s.cur).store (1 - n)).st = .streamOut → goesOn (.ctxsw tk a) s (waiting s.ctx tk (Wait.mk .shadow n s.cycle))) ∧
    (s.ctx.sup = true → mayTrap s tk = true → (2 ≤ n ∨ ((s.core s.cur).store n).st ≠ .resident ∨ ((s.core s.cur).store (1 - n)).st = .resident ∨
        ((s.core s.cur).store (1 - n)).st = .streamIn) →
      exec (.ctxsw tk a) s = .next (s.trap s.cur { cause := 0x03, addr := n, opc := s.opcAt s.cur, clk := s.cycle } s.ctx.pc))

/-- TLBINV from supervisor code: with every count at zero it completes, and the executing core's TLB, or with BC that of every core of the headland that holds the
context, keeps no entry that it names and loses no other; while a named entry of the executing core, also one of a context in its shadow stores, has a count it
waits, the entries that it names serving no more access; from user code it faults ACCESS. One that waits remembers the entries that it has marked: TLBINV_COMPLETE ends it
once none of them is left, and marks no other that has come since; one that has marked nothing marks then (R50, R131). -/
def Obligations.TlbInvalidationRemovesEntries : Prop :=
  (∀ (s : State) (tk : Tok) (a b : BitVec 5) (bc : BitVec 1) (mode : BitVec 2), mode ≠ 3 →
      (s.ctx.sup = true → s.goes s.cur tk = true → s.ctx.invs = [] →
        (∀ c, ∀ e ∈ (s.live c).tlb ++ (s.core c).sh0.ctx.tlb ++ (s.core c).sh1.ctx.tlb, e.count = 0 ∧ e.dying = false) →
        (∀ v ∈ s.saves, ∀ e ∈ v.2.ctx.tlb, e.count = 0) → (s.cores.map (·.1)).Nodup →
        ∃ t, exec (.tlbinv tk a b bc mode) s = .next t ∧ t.ctx.pc = s.ctx.pc + 1 ∧
          ∀ c, (t.live c).tlb =
            if (bc = 0 ∧ c = s.cur) ∨ (bc = 1 ∧ c / 256 = s.cur / 256 ∧ (s.core c).holdsCtx ((s.ctx.rg b).toNat % 65536)) then
              (s.live c).tlb.filter fun e => !invNamed mode (s.ctx.rg a).toNat ((s.ctx.rg b).toNat % 65536) e
            else (s.live c).tlb) ∧
      (bc = 0 → s.ctx.sup = true → mayTrap s tk = true → s.ctx.wait = none → s.ctx.invs = [] →
        ∀ named f ks, named = invNamed mode (s.ctx.rg a).toNat ((s.ctx.rg b).toNat % 65536) → f = invMarked named →
        ks = countedKeys s.cur (s.core s.cur) named →
        (∃ x ∈ standing (s.core s.cur), ∃ e ∈ x.tlb, named e = true ∧ 0 < e.count) →
        ∃ va, (∃ q ∈ s.everyCtx, ∃ e ∈ q.2.tlb, ks.contains (entryKey q.1 q.2 e) = true ∧ e.va = va) ∧
          exec (.tlbinv tk a b bc mode) s = .next ((s.setCore s.cur (tlbChanged (s.core s.cur) f)).setCtx
            { waiting s.ctx tk (Wait.mk .tlbinv va s.cycle) with tlb := f s.ctx.tlb, invs := ks })) ∧
      (s.ctx.sup = false → mayTrap s tk = true →
        exec (.tlbinv tk a b bc mode) s = .next (s.trap s.cur { cause := 0x03, addr := s.ctx.pc.toNat, opc := s.opcAt s.cur, clk := s.cycle } s.ctx.pc))) ∧
  ∀ (s : State) (tk : Tok) (a b : BitVec 5) (bc : BitVec 1) (mode : BitVec 2) (w : Wait), s.ctx.sup = true → s.goes s.cur tk = true →
    s.mayGo s.cur = true → s.ctx.wait = some w → w.kind = .tlbinv → s.wordAt s.cur = some (.tlbinv tk a b bc mode) → mode ≠ 3 →
    (s.ctx.invs ≠ [] → (∀ q ∈ s.everyCtx, ∀ e ∈ q.2.tlb, s.ctx.invs.contains (entryKey q.1 q.2 e) = false) →
      exec (.tlbinvComplete s.cur) s = .next (s.setCtx (s.ctx.retired tk (s.ctx.pc + 1)))) ∧
    (s.ctx.invs = [] → bc = 0 → (∀ e ∈ tlbsOf (s.core s.cur), e.count = 0) →
      ∀ f : List TlbEntry → List TlbEntry,
        (f = fun l => l.filter fun e => !(e.dying || invNamed mode (s.ctx.rg a).toNat ((s.ctx.rg b).toNat % 65536) e)) →
      exec (.tlbinvComplete s.cur) s = .next ((s.setCore s.cur (tlbChanged (s.core s.cur) f)).setCtx
        ({ s.ctx with tlb := f s.ctx.tlb }.retired tk (s.ctx.pc + 1))))

namespace Sys2Proof.Spec
open Sys2Proof.Machine

/-- The same state with the entry of the current core written out in its list of cores. -/
def here (s : State) : State := s.setCtx s.ctx

/-- Whether every check of a command's push passes: room in the queue, then OBJ, ACCESS and ALIGN, the translations and the pins, and BANK (R40, R41,
R46, R49, R164). -/
def accepts (s : State) (i : Instr) : Bool :=
  match engineOf i, s.draft s.cur i with
  | some a, some d =>
    !s.ctx.pushFull a i
      && (match firstBad (d.objChecks ++ d.accChecks ++ d.alignChecks) with | .ok _ => true | .error _ => false)
      && ((d.uses.flatMap fun u => u.addrs 2) ++ d.maskVa).all (fun va => decide (va < 2 ^ 48))
      && (match s.pinAll (d.uses.flatMap Use.paged ++ d.maskVa.map fun va => (va, true)) s.ctx with
          | .ok _ => true | .error _ => false)
      && (match firstBad d.bankChecks with | .ok _ => true | .error _ => false)
  | _, _ => false

/-- Whether a word goes to the repair lane of MX: its head is stopped by SELMISS or MXPAR, a handler runs, and R212 names it. -/
def toLane (x : Ctx) (i : Instr) : Bool :=
  (match (x.mx.head?).bind (·.stop) with | some p => p.cause == 0x07 || p.cause == 0x08 | none => false) && x.inh
    && (match i with
        | .pdir .. => true
        | .pload .. => true
        | .pstore .. => true
        | .pclr .. => true
        | .mxstat .. => true
        | .mxres .. => true
        | _ => false)

/-- The general registers that a command captures, in the order of its entry (R60, R177). -/
def capturedG (x : Ctx) : Instr → List W64
  | .ldt _ _ _ g _ _ _ _ => [x.rg g]
  | .cpy _ _ _ g _ _ _ _ => [x.rg g]
  | .stt _ _ _ g _ _ _ _ => [x.rg g]
  | .cpys _ _ _ g _ _ _ _ => [x.rg g]
  | .redSt _ _ _ g _ _ _ _ _ => [x.rg g]
  | .ldg _ _ _ g _ _ _ _ => [x.rg g, x.rg (g + 1)]
  | .sct _ _ _ g _ _ _ _ => [x.rg g, x.rg (g + 1)]
  | .ldo _ _ g _ _ _ => [x.rg g]
  | .pref _ _ g _ _ _ => [x.rg g]
  | .chpop _ _ g _ _ _ => [x.rg g]
  | .vld _ _ a b _ _ => [x.rg a, x.rg b]
  | .vst _ _ a b _ _ _ => [x.rg a, x.rg b]
  | .vmovg _ _ a _ => [x.rg a]
  | .vkey _ _ _ _ _ _ _ _ g => [x.rg g, x.rg (g + 1), x.rg (g + 2)]
  | .vupd _ _ _ _ _ _ _ g => [x.rg g, x.rg (g + 1), x.rg (g + 2), x.rg (g + 3)]
  | .pdir _ g _ _ => [x.rg g]
  | .pload _ _ g _ _ => [x.rg g]
  | .pstore _ _ g _ _ _ => [x.rg g]
  | .mxnest _ g _ => [x.rg g, x.rg (g + 1), x.rg (g + 2)]
  | .mxrun _ _ _ _ _ g _ _ _ p => if p = 1 then [x.rg g] else []
  | _ => []
/-- The stream registers that a command captures: its source or x, its destination or dY or row tags, and the tags of MXGRAD (R60). -/
def capturedQ : Instr → Option (BitVec 4) × Option (BitVec 4) × Option (BitVec 4)
  | .ldt _ qs qd _ _ _ _ _ => (some qs, some qd, none)
  | .cpy _ qs qd _ _ _ _ _ => (some qs, some qd, none)
  | .ldg _ qs qd _ _ _ _ _ => (some qs, some qd, none)
  | .stt _ qs qd _ _ _ _ _ => (some qs, some qd, none)
  | .cpys _ qs qd _ _ _ _ _ => (some qs, some qd, none)
  | .sct _ qs qd _ _ _ _ _ => (some qs, some qd, none)
  | .redSt _ qs qd _ _ _ _ _ _ => (some qs, some qd, none)
  | .ldo _ qs _ _ _ _ => (some qs, none, none)
  | .pref _ qs _ _ _ _ => (some qs, none, none)
  | .chpop _ qd _ _ _ _ => (none, some qd, none)
  | .pload _ qa _ _ _ => (some qa, none, none)
  | .pstore _ qb _ _ _ _ => (none, some qb, none)
  | .mxgo _ qa qb _ _ _ _ _ => (some qa, some qb, none)
  | .mxrun _ qa qb _ _ _ _ _ _ _ => (some qa, some qb, none)
  | .mxgrad _ qa qb qt _ _ _ => (some qa, some qb, some qt)
  | .mxacr _ qb _ dst _ _ _ _ _ _ => (none, if dst = 1 then some qb else none, none)
  | _ => (none, none, none)
/-- Whether a command captures MSHAPE: the mean commands and VMSH, and RED.ST with op MEAN (R245). -/
def capturesShape : Instr → Bool
  | .vmeanE .. => true
  | .vmeanM .. => true
  | .vmeanX .. => true
  | .vmsh .. => true
  | .redSt _ _ _ _ _ _ _ _ op => op == 3
  | _ => false
/-- A stream register as a push captures it: its bits, and the entries of its object and of the object's scales and zero points (R58, R60). -/
def streamOf (s : State) (q : BitVec 4) : RStream :=
  let entry (i : Nat) : ObjEntry := if i = 0 then {} else (s.contexts.get {} s.ctx.id).objs.get {} i
  let raw := s.ctx.q.get 0 q.toNat
  let o := entry (raw.extractLsb' 240 16).toNat
  { raw := raw, shift := [], ctx := s.ctx.id, obj := o, sobj := entry o.sobj, zobj := entry o.zobj }

/-- The command that a push makes of a word: the instruction, the queue's next number and GEN as it stands (R125), and its captures: the general
registers, the stream registers and MSHAPE as they stand (R40, R60, R177, R245); nothing of it started. -/
def taken (s : State) (k : Cmd) (i : Instr) (num : Nat) : Prop :=
  k.instr = i ∧ k.seq = s.ctx.seqs.get 0 num ∧ k.gen = (s.ctx.sr 0x024).setWidth 32 ∧ k.gv = capturedG s.ctx i
    ∧ k.sa = (capturedQ i).1.map (streamOf s) ∧ k.sb = (capturedQ i).2.1.map (streamOf s) ∧ k.st = (capturedQ i).2.2.map (streamOf s)
    ∧ (capturesShape i = true → k.mshape = s.ctx.sr 0x033) ∧ k.phase = .queued ∧ k.popped = false ∧ k.husk = false ∧ k.stop = none
/-- A queue with one command more at its tail. -/
def gains (s : State) (q q' : List Cmd) (i : Instr) (num : Nat) : Prop := ∃ k, q' = q ++ [k] ∧ taken s k i num
/-- Whether a word of the repair lane is to go before what the lane holds: an MXRES, where SELMISS or MXPAR stops the lane's head, which it resumes (the
model's choice, log 21). -/
def goesAhead (x : Ctx) (i : Instr) : Bool :=
  (match i with | .mxres .. => true | _ => false)
    && (match (x.lane.head?).bind (·.stop) with | some p => p.cause == 0x07 || p.cause == 0x08 | none => false)

/-- What a push leaves alone: the registers, the stream registers, the accumulators and every byte of memory. -/
def pushFrame (s t : State) : Prop :=
  t.ctx.g = s.ctx.g ∧ t.ctx.sys = s.ctx.sys ∧ t.ctx.q = s.ctx.q ∧ t.ctx.f = s.ctx.f ∧ t.ctx.v = s.ctx.v ∧ t.ctx.m = s.ctx.m ∧ t.ctx.acc = s.ctx.acc ∧
    t.ctx.tokens = s.ctx.tokens ∧ ∀ p, t.byte p = s.byte p

/-- Whether an F32 encoding is a NaN (R66). -/
def nanBits (b : Nat) : Bool := decide (0x7F800000 < b % 2 ^ 31)
/-- An F32 encoding's place in the order of its values, −0 below +0. -/
def f32Rank (b : Nat) : Int := if b < 2 ^ 31 then (b : Int) else -1 - ((b : Int) - 2 ^ 31)
/-- fmin and fmax of F32 (R75): the canonical NaN where either is a NaN, else the lesser or the greater, −0 below +0. -/
def f32Pick (greatest : Bool) (p q : Nat) : Nat :=
  if nanBits p || nanBits q then 0x7FC00000
  else if f32Rank p ≤ f32Rank q then (if greatest then q else p) else (if greatest then p else q)
/-- VABS and VNEG of F32 (R187): the sign cleared or inverted, a NaN the canonical one. -/
def f32Sign (invert : Bool) (p : Nat) : Nat :=
  if nanBits p then 0x7FC00000 else if invert ∧ p < 2 ^ 31 then p + 2 ^ 31 else p % 2 ^ 31

/-- The elements that a vector command writes where its mask is set, for the commands without rounding: destination, mask, and the value of the element
at row i and column j (R184 to R189). -/
def element (x : Ctx) (gv : List W64) : Instr → Option (BitVec 5 × BitVec 3 × (Nat → Nat → W32))
  | .vmov _ d a mk => some (d, mk, fun i j => x.ve a.toNat i j)
  | .vmovg _ d _ mk => some (d, mk, fun _ _ => (gv.headD 0).setWidth 32)
  | .vbcr _ d a mk n => some (d, mk, fun i _ => x.ve a.toNat i n.toNat)
  | .vbcc _ d a mk n => if n.toNat < 16 then some (d, mk, fun _ j => x.ve a.toNat n.toNat j) else none
  | .vrotr _ d a mk z n =>
    some (d, mk, fun i j => if z = 1 ∧ 64 ≤ j + n.toNat then 0 else x.ve a.toNat i ((j + n.toNat) % 64))
  | .vrotc _ d a mk z n =>
    if n.toNat < 16 then some (d, mk, fun i j => if z = 1 ∧ 16 ≤ i + n.toNat then 0 else x.ve a.toNat ((i + n.toNat) % 16) j) else none
  | .valu _ d a b mk ty _ sat op =>
    if ty.toNat = 1 ∨ ty.toNat = 2 then
      some (d, mk, fun i j =>
        let val (r : BitVec 5) : Int := if ty.toNat = 1 then (x.ve r.toNat i j).toInt else ((x.ve r.toNat i j).toNat : Int)
        let exact : Int := match op.toNat with
          | 0 => val a + val b
          | 1 => val a - val b
          | 2 => val a * val b
          | 3 => min (val a) (val b)
          | 4 => max (val a) (val b)
          | 5 => |val a|
          | _ => -val a
        let lo : Int := if ty.toNat = 1 then -(2 ^ 31) else 0
        let hi : Int := if ty.toNat = 1 then 2 ^ 31 - 1 else 2 ^ 32 - 1
        BitVec.ofInt 32 (if sat = 1 then max lo (min exact hi) else exact))
    else if ty.toNat = 0 ∧ 3 ≤ op.toNat then
      some (d, mk, fun i j =>
        let p := (x.ve a.toNat i j).toNat
        let q := (x.ve b.toNat i j).toNat
        BitVec.ofNat 32 (match op.toNat with
          | 3 => f32Pick false p q
          | 4 => f32Pick true p q
          | 5 => f32Sign false p
          | _ => f32Sign true p))
    else none
  | .vfma _ d a b mk ty _ op =>
    if ty.toNat = 1 ∨ ty.toNat = 2 then
      some (d, mk, fun i j =>
        let p := x.ve a.toNat i j * x.ve b.toNat i j
        let z := x.ve d.toNat i j
        match op.toNat with
        | 0 => p + z
        | 1 => p - z
        | 2 => z - p
        | _ => -p - z)
    else none
  | .vlogic _ d a b mk sh im op =>
    some (d, mk, fun i j =>
      let p := x.ve a.toNat i j
      let q := x.ve b.toNat i j
      let n := if im = 1 then sh.toNat else (q &&& 31).toNat
      match op.toNat with
      | 0 => p &&& q
      | 1 => p ||| q
      | 2 => p ^^^ q
      | 3 => p &&& ~~~q
      | 4 => ~~~p
      | 5 => p <<< n
      | 6 => p >>> n
      | _ => p.sshiftRight n)
  | .vsel _ d a b mk => some (d, 0, fun i j => if (x.mask mk.toNat).getLsbD (64 * i + j) then x.ve a.toNat i j else x.ve b.toNat i j)
  | _ => none

/-- The wait and signal bytes of a word that the control core executes itself; none for the words of the engines and for events (R39, R88). -/
def controlTokens : Instr → Option Tok
  | .add tk .. | .sub tk .. | .and tk .. | .or tk .. | .xor tk .. | .andn tk .. | .shl tk .. | .shr tk .. | .sra tk .. | .rot tk ..
  | .mul tk .. | .mulh tk .. | .mulhn tk .. | .div tk .. | .divn tk .. | .rem tk .. | .remn tk .. | .min tk .. | .max tk .. | .minn tk ..
  | .maxn tk .. | .clz tk .. | .popc tk .. | .cmp tk .. | .sel tk .. | .addx tk .. | .bfx tk .. | .bfi tk .. | .addi tk .. | .andi tk ..
  | .ori tk .. | .xori tk .. | .shli tk .. | .shri tk .. | .srai tk .. | .roti tk .. | .movhi tk .. => some tk
  | .br tk .. | .jmp tk .. | .call tk .. | .jr tk .. | .loop tk .. | .ld tk .. | .st tk .. | .mfs tk .. | .mts tk .. | .trap tk .. | .eret tk
  | .brk tk .. | .tmark tk .. | .qdrop tk .. | .qres tk .. | .qstat tk .. | .yield tk | .ctxsw tk .. | .tlbinv tk .. | .qset tk ..
  | .qget tk .. | .qclr tk .. => some tk
  | .fence tk .. | .setf tk .. | .addf tk .. | .waitf tk .. | .tktTake tk .. | .tktWait tk .. | .tktDone tk .. | .aadd tk .. | .amin tk ..
  | .amax tk .. | .acas tk .. | .aswp tk .. | .scope tk .. | .rpop tk .. | .comm tk .. | .commDel tk .. | .coll tk .. | .cwait tk ..
  | .repart tk .. | .vxfer tk .. | .pgreqOff tk .. | .pgreqOn tk .. | .tide tk .. => some tk
  | _ => none

/-- The tokens, the context and the next index of a word that only rewrites the context: those of class 000, the flow words, MFS, MTS, QSET, QGET and
QCLR, where they do not trap (R109 to R113, R119, R132). -/
def plainResult (s : State) (i : Instr) : Option (Tok × Ctx × W64) :=
  let x := s.ctx
  match i with
  | .mfs tk d sn => if x.sup || !hidden sn.toNat then some (tk, x.setG d (sysValue s sn.toNat), x.pc + 1) else none
  | .mts tk a sn =>
    let m := sysBits x.sup sn.toNat
    if !(x.sup || !hidden sn.toNat) then none
    else if m = 0 then some (tk, x, x.pc + 1)
    else some (tk, x.setSr sn.toNat ((x.sr sn.toNat &&& ~~~m) ||| (x.rg a &&& m)), x.pc + 1)
  | .qget tk d a w => some (tk, x.setG d ((x.q.get 0 a.toNat).extractLsb' (64 * w.toNat) 64), x.pc + 1)
  | .qclr tk d => some (tk, { x with q := x.q.put d.toNat 0 }, x.pc + 1)
  | .qset tk d a w =>
    let q := x.q.get 0 d.toNat
    let v : W64 := if w = 3 then x.rg a >>> 7 <<< 7 else x.rg a
    let part (n : Nat) : W64 := if n = w.toNat then v else q.extractLsb' (64 * n) 64
    some (tk, { x with q := x.q.put d.toNat (part 3 ++ part 2 ++ part 1 ++ part 0) }, x.pc + 1)
  | i => (flowResult x i).or ((aluResult x i).map fun r => (r.1, x.setG r.2.1 r.2.2, x.pc + 1))
/-- The context that holds its instruction at retirement: its pops are made, its pushes are not, and the pc is not yet the next (R42). -/
def heldAt (y : Ctx) (tk : Tok) (pc : W64) : Ctx :=
  { y.startPops tk.pop with held := some (pc, tk.push), wait := none, ccPop := 0, invs := [], latch := none, waitEntry := none }

/-- A queue whose new head waits at its head from a clk on. -/
def headSince (clk : Nat) : List Cmd → List Cmd
  | [] => []
  | k :: r => { k with since := clk } :: r

end Sys2Proof.Spec

open Sys2Proof Sys2Proof.Machine Sys2Proof.Spec

/-- Every word of the engine classes whose checks pass completes at the control core with its command at the tail of its queue, and changes no register and no
memory; COMMAND_PUSH at such a word, with no breakpoint set, does the same (R39, R40, R125). The command holds its captures: the general registers and stream
registers that its entry names, as they stand, and MSHAPE (R60, R177, R245). These are the copies (LDT, CPY, LDO, PREF, LDG; STT, CPYS, RED.ST, SCT, CHPOP), the
vector words (VLD, VST, VMOV, VMOVG, VBCR, VBCC, VROTR, VROTC, VALU, VFMA, VLOGIC, VCMP, VSEL, VREDR, VREDC, VSCAN, VCVT, VRCP, VRSQ, VRCPS, VRSQS, VEXP2, VLOG2,
VMASK, VPOPC, VTOG, VMEAN.E, VMEAN.M, VMEAN.X, VMTLD, VMSH, VUPD, VKEY, CHPUSH) and the matrix words (PDIR, PLOAD, PSTORE, PCLR, MXNEST, MXGO, MXRUN, MXGRAD, MXRES,
MXACL, MXACR, MXSTAT). QMARK and the words that go to the repair lane are stated apart. -/
def Obligations.EngineWordsArePushed : Prop :=
  ∀ (s : State) (i : Instr) (a : Agent), engineOf i = some a → (match i with | .qmark .. => False | _ => True) → toLane s.ctx i = false →
    accepts (here s) i = true → s.goesClear s.cur ⟨0, 0⟩ = true →
    (∃ t, exec i s = .next t ∧ gains s (s.ctx.queue a) (t.ctx.queue a) i (agentNum a) ∧ (∀ b, b ≠ a → t.ctx.queue b = s.ctx.queue b) ∧
      t.ctx.lane = s.ctx.lane ∧ t.ctx.seqs.get 0 (agentNum a) = s.ctx.seqs.get 0 (agentNum a) + 1 ∧ t.ctx.pc = s.ctx.pc + 1 ∧ pushFrame s t) ∧
    ∀ w, s.mayGo s.cur = true → s.fetch s.cur = .word w → decode w = some i → (s.core s.cur).bps = [] →
      ∃ t, exec (.commandPush s.cur w) s = .next t ∧ gains s (s.ctx.queue a) (t.ctx.queue a) i (agentNum a) ∧
        (∀ b, b ≠ a → t.ctx.queue b = s.ctx.queue b) ∧ t.ctx.pc = s.ctx.pc + 1 ∧ pushFrame s t

/-- QMARK completes with a command at the tail of both copy queues, numbered in each (R125, R169); a word that R212 allows goes to the tail of the repair
lane, but an MXRES before a head of the lane that MXPAR has stopped (the model's choice, log 21). -/
def Obligations.MarksAndRepairsArePushed : Prop :=
  (∀ (s : State) (tk : Tok) (fl : BitVec 6) (fe : BitVec 1), s.ctx.ld.length < 32 → s.ctx.st.length < 32 → s.goesClear s.cur ⟨0, 0⟩ = true →
    ∃ t, exec (.qmark tk fl fe) s = .next t ∧ gains s s.ctx.ld t.ctx.ld (.qmark tk fl fe) 1 ∧
      gains s s.ctx.st t.ctx.st (.qmark tk fl fe) 2 ∧ t.ctx.vx = s.ctx.vx ∧ t.ctx.mx = s.ctx.mx ∧ t.ctx.pc = s.ctx.pc + 1 ∧ pushFrame s t) ∧
  ∀ (s : State) (i : Instr), engineOf i = some .mx → toLane s.ctx i = true → accepts (here s) i = true → s.goesClear s.cur ⟨0, 0⟩ = true →
    ∃ t k, exec i s = .next t ∧ taken s k i 5 ∧ t.ctx.lane = (if goesAhead s.ctx i then k :: s.ctx.lane else s.ctx.lane ++ [k]) ∧
      t.ctx.mx = s.ctx.mx ∧ t.ctx.pc = s.ctx.pc + 1 ∧ pushFrame s t

/-- A push to a full queue waits for room and changes nothing but the wait; QUEUE_ROOM_RESUME, once there is room and the checks pass, pushes the command
(R41); so does TLB_PIN_RESUME for a push that waited for a TLB entry (R49). That a full queue waits before every other check of the push is made is the model's
choice (log 36; R40 and R41 give no order). -/
def Obligations.FullQueueWaitsForRoom : Prop :=
  ∀ (s : State) (i : Instr) (a : Agent), engineOf i = some a → (match i with | .qmark .. => False | _ => True) → toLane s.ctx i = false →
    ((if a = .mx then 16 else 32) ≤ (s.ctx.queue a).length →
        s.ctx.wait = none →
        goesOn i s { s.ctx with wait := some (Wait.mk .queueRoom (agentNum a) s.cycle) }) ∧
    ∀ (w : Wait) (pin : Bool), s.ctx.wait = some w → w.kind = (if pin then .tlbPin else .queueRoom) → s.mayGo s.cur = true →
        s.wordAt s.cur = some i → accepts (here s) i = true → s.goesClear s.cur ⟨0, 0⟩ = true →
        ∃ t, exec (if pin then .tlbPinResume s.cur else .queueRoomResume s.cur) s = .next t ∧
          gains s (s.ctx.queue a) (t.ctx.queue a) i (agentNum a) ∧ t.ctx.wait = none ∧ t.ctx.pc = s.ctx.pc + 1 ∧ pushFrame s t

/-- Every word that the control core executes itself waits, with no pop made, where a FIFO that it pops is empty (R42, R108). A word that only rewrites the context
(class 000, the flow words, MFS, MTS, QSET, QGET, QCLR) and finds no room for a push is held with its pops and its effect made; one that pushes while a store of its
core cannot be performed waits for it, its pops made (R231); and HELD_PUSH_RELEASE, once there is room, makes the pushes of a held word, and the pc goes on. Nothing
else changes. The bits of DOMCNT and TIDEPRI that its MTS writes are the model's choice (log 89). -/
def Obligations.TokensGateControlWords : Prop :=
  (∀ (s : State) (i : Instr) (tk : Tok) (n : Nat), controlTokens i = some tk → s.ctx.wait = none → s.ctx.ccPop = 0 →
    (popFifos .cc tk.pop).find? (fun n => s.ctx.tokens.get 0 n == 0) = some n →
    goesOn i s { s.ctx with wait := some (Wait.mk .token n s.cycle) }) ∧
  (∀ (s : State) (i : Instr) (tk : Tok) (y : Ctx) (pc : W64), plainResult s i = some (tk, y, pc) → s.ctx.canPop tk.pop = true →
    s.ctx.hasRoom (pushFifos .cc tk.push) = false → s.ctx.path = [] → s.ctx.wait = none →
    goesOn i s (heldAt y tk pc)) ∧
  (∀ (s : State) (i : Instr) (tk : Tok) (y : Ctx) (pc : W64), plainResult s i = some (tk, y, pc) → s.ctx.canPop tk.pop = true → tk.push ≠ 0 →
    s.pathBlocked s.cur = true → s.ctx.wait = none → goesOn i s (waiting s.ctx tk (Wait.mk .fence 0 s.cycle))) ∧
  ∀ (s : State) (c : Nat) (pc : W64) (push : BitVec 4), (s.core c).active = true → (s.live c).held = some (pc, push) →
    (s.live c).heldTrap = none → (s.live c).path = [] → (s.live c).hasRoom (pushFifos .cc push) = true →
    exec (.heldPushRelease c .cc) s = .next (s.setLive c { (s.live c).pushTokens (pushFifos .cc push) with pc := pc, held := none })

namespace Sys2Proof.Spec
open Sys2Proof.Machine

/-- An own-window scratchpad address as a 64-bit word (R51). -/
def ownAddr (o : Nat) : W64 := BitVec.ofNat 64 (2 ^ 63 + o)

/-- Bytes of an atomic's type (R93, R233): I32, I64, F32, N32, N64; none for the codes that no atomic has. -/
def atomWidth (ty : BitVec 3) : Option Nat :=
  match ty.toNat with
  | 0 => some 4
  | 1 => some 8
  | 2 => some 4
  | 3 => some 4
  | 4 => some 8
  | _ => none
/-- A number of w bits read as signed. -/
def signed (w v : Nat) : Int := if v < 2 ^ (w - 1) then (v : Int) else (v : Int) - 2 ^ w
/-- The lesser and the greater of two values of an atomic's type (R238). -/
def lesser (ty : BitVec 3) (p q : Nat) : Nat :=
  match ty.toNat with
  | 0 => if signed 32 p ≤ signed 32 q then p else q
  | 1 => if signed 64 p ≤ signed 64 q then p else q
  | _ => if p ≤ q then p else q
def greater (ty : BitVec 3) (p q : Nat) : Nat :=
  match ty.toNat with
  | 0 => if signed 32 p ≤ signed 32 q then q else p
  | 1 => if signed 64 p ≤ signed 64 q then q else p
  | _ => if p ≤ q then q else p

/-- An atomic word (R238): its tokens, the registers of address and result, the type, and the new value for the old value and the operand, none where
nothing is written. -/
def atomic (x : Ctx) : Instr → Option (Tok × BitVec 5 × BitVec 5 × BitVec 3 × BitVec 5 × (Nat → Nat → Option Nat))
  | .aadd tk _ a b d ty _ =>
    if ty.toNat = 2 then some (tk, a, d, ty, b, fun o v => some (fadd F32 o v 0).1)
    else if ty.toNat ≤ 1 then some (tk, a, d, ty, b, fun o v => some ((o + v) % 2 ^ (if ty.toNat = 1 then 64 else 32))) else none
  | .amin tk _ a b d ty _ =>
    if ty.toNat = 2 then some (tk, a, d, ty, b, fun o v => some (f32Pick false o v))
    else some (tk, a, d, ty, b, fun o v => some (lesser ty o v))
  | .amax tk _ a b d ty _ =>
    if ty.toNat = 2 then some (tk, a, d, ty, b, fun o v => some (f32Pick true o v))
    else some (tk, a, d, ty, b, fun o v => some (greater ty o v))
  | .acas tk _ a b d c ty _ =>
    if ty.toNat ≤ 1 then
      some (tk, a, d, ty, b, fun o v => if o = v then some ((x.rg c).toNat % 2 ^ (if ty.toNat = 1 then 64 else 32)) else none) else none
  | .aswp tk _ a b d ty _ => if ty.toNat ≤ 1 then some (tk, a, d, ty, b, fun _ v => some v) else none
  | _ => none

/-- The scope entry that a wait under a scope reads once and keeps (R227, R240): of an entry 2 to 30 the cores whose bits are set, bit c being bit c mod 8
of byte c / 8 from SCOPEBASE + 256·sc on, each byte good, and zero where no page maps it; of 0, 1 and 31, which are no such entries, nothing. -/
def entryRead (s : State) (sc : BitVec 5) (m : BitVec 2048) : Prop :=
  let adr (i : Nat) : Nat := ((s.ctx.sr 0x048).toNat + 256 * sc.toNat + i) % 2 ^ 64
  if sc.toNat = 0 ∨ sc.toNat = 1 ∨ sc.toNat = 31 then m = 0
  else (∀ i, i < 256 → adr i < 2 ^ 48) ∧
    ∀ i, i < 256 → match s.vaPlace s.ctx.id s.ctx.root (adr i) with
      | some p => s.badRead p = false ∧ ∀ j, j < 8 → m.getLsbD (8 * i + j) = (s.byte p).getLsbD j
      | none => s.walk s.ctx.id s.ctx.root (adr i) = .fault ∧ ∀ j, j < 8 → m.getLsbD (8 * i + j) = false

/-- The places of the 256 bytes of a bitmap that can be loaded: at an offset o of the own scratchpad, or at an address o in pages of tier-2 that the TLB holds. -/
def bitmapAt (s : State) (adr : W64) (o : Nat) (src : Nat → Place) : Prop :=
  (adr = ownAddr o ∧ (∀ k, k < 32 → padFree s (o + 8 * k) 8 = true) ∧ ∀ i, src i = .win s.cur s.ctx.id (o + i)) ∨
    ∃ e : Nat → TlbEntry, adr.toNat = o ∧ (∀ k, k < 32 → pageFree s (e k) (o + 8 * k) 8 false = true) ∧
      ∀ i, src i = .tier2 (physOf (e (i / 8)) (o + i))

/-- Memory after a write of n bytes of a number at an offset of the own scratchpad, seen at every place that shows no register. -/
def padWrites (s t : State) (o n v : Nat) : Prop :=
  (∀ i, i < n → ∀ y, t.byte (.win s.cur y (o + i)) = BitVec.ofNat 8 (v / 256 ^ i)) ∧
  ∀ p : Place, plain p = true → (∀ i y, i < n → p ≠ .win s.cur y (o + i)) → t.byte p = s.byte p

end Sys2Proof.Spec

open Sys2Proof Sys2Proof.Machine Sys2Proof.Spec

/-- FENCE completes, a release with no store on its way, noting its scope for its kind (bit 1 REL, bit 0 ACQ); with a store on its way a release waits (R234). -/
def Obligations.FencesOrderTheStorePath : Prop :=
  ∀ (s : State) (tk : Tok) (sc : BitVec 5) (kind : BitVec 2),
    (s.goes s.cur tk = true → (kind.getLsbD 1 = true → s.ctx.path = []) →
      goesOn (.fence tk sc kind) s
        ({ s.ctx with
            relScope := if kind.getLsbD 1 then some sc else s.ctx.relScope
            acqScope := if kind.getLsbD 0 then some sc else s.ctx.acqScope }.retired tk (s.ctx.pc + 1))) ∧
    (s.ctx.path ≠ [] → kind.getLsbD 1 = true → tk.push = 0 → s.ctx.canPop tk.pop = true → s.ctx.wait = none →
      goesOn (.fence tk sc kind) s (waiting s.ctx tk (Wait.mk .fence 0 s.cycle)))

/-- SETF and ADDF complete with F[n] of the core named (the own one, or that in ga, within the scope, and within the cores that the lesson may use unless supervisor
code runs) set to the low 32 bits of gb, or that added; no other flag changes (R235). -/
def Obligations.FlagsAreSetAndAdded : Prop :=
  ∀ (s : State) (tk : Tok) (sc a b : BitVec 5) (n : BitVec 6) (rem : BitVec 1) (add : Bool) (core : Nat), s.goesClear s.cur tk = true →
    coreId s.cur = true → (s.core s.cur).active = true → core = (if rem = 1 then (s.ctx.rg a).toNat else s.cur) → coreId core = true →
    (s.inScope s.cur s.ctx sc.toNat core && (s.ctx.sup || s.mayUse s.cur s.ctx core)) = true → s.scopeEcc s.cur s.ctx sc.toNat core = none →
    (s.ctx.sup = true ∨ s.mayUseEcc s.cur s.ctx core = none) →
    (core = s.cur ∨ ((s.core core).active = true ∧ (s.live core).id = s.ctx.id)) →
    ∃ t, exec (if add then .addf tk sc a b rem n else .setf tk sc a b rem n) s = .next t ∧ t.ctx.pc = s.ctx.pc + 1 ∧
      (t.live core).flag n.toNat = (if add then (s.live core).flag n.toNat + (s.ctx.rg b).setWidth 32 else (s.ctx.rg b).setWidth 32) ∧
      (∀ c m, (c ≠ core ∨ m ≠ n.toNat) → (t.live c).flag m = (s.live c).flag m) ∧
      t.ctx.g = s.ctx.g ∧ t.ctx.sys = s.ctx.sys ∧ { t with cores := s.cores } = s

/-- WAITF completes once F[n] has reached gb, wrap-aware: (F − gb) mod 2^32 < 2^31; before that it waits for the flag, its pops made, with the
scope entry as it read it (R240); FLAG_WAIT_SATISFIED ends the wait (R236). -/
def Obligations.FlagWaitsEndWhenReached : Prop :=
  ∀ (s : State) (tk : Tok) (sc b : BitVec 5) (n : BitVec 6) (reached : Bool),
    reached = decide (((s.ctx.flag n.toNat).toNat + 2 ^ 32 - (s.ctx.rg b).toNat % 2 ^ 32) % 2 ^ 32 < 2 ^ 31) →
    (reached = true → s.goes s.cur tk = true → goesOn (.waitf tk sc b n) s (s.ctx.retired tk (s.ctx.pc + 1))) ∧
    (∀ m, reached = false → mayTrap s tk = true → s.ctx.wait = none → s.ctx.waitEntry = none → entryRead s sc m →
      goesOn (.waitf tk sc b n) s
        { waiting s.ctx tk (Wait.mk .flag (0xF000_0000_0000_0000 + s.cur * 0x800000 + 0x261000 + 4 * n.toNat) s.cycle) with waitEntry := some (some m) }) ∧
    ∀ w, reached = true → s.goes s.cur tk = true → s.ctx.wait = some w → w.kind = .flag → s.mayGo s.cur = true →
      s.wordAt s.cur = some (.waitf tk sc b n) →
      goesOn (.flagWaitSatisfied s.cur) s (s.ctx.retired tk (s.ctx.pc + 1))

/-- TKT.TAKE answers NEXT and increments it, TKT.DONE increments SERVING, TKT.WAIT completes when SERVING equals gb and waits before; TICKET_WAIT_SATISFIED ends
the wait. The ticket lies in the own scratchpad, NEXT at +0 and SERVING at +8 (R237). -/
def Obligations.TicketsAreTakenAndServed : Prop :=
  ∀ (s : State) (tk : Tok) (sc a b d : BitVec 5) (o : Nat), s.ctx.rg a = ownAddr o → o % 16 = 0 → padFree s o 8 = true →
    padFree s (o + 8) 8 = true → s.goesClear s.cur tk = true →
    (∃ t, exec (.tktTake tk sc a d) s = .next t ∧
      t.ctx = (s.ctx.setG d (BitVec.ofNat 64 (winNat s s.cur s.ctx.id o 8))).retired tk (s.ctx.pc + 1) ∧
      padWrites s t o 8 (winNat s s.cur s.ctx.id o 8 + 1)) ∧
    (∃ t, exec (.tktDone tk sc a) s = .next t ∧ t.ctx = s.ctx.retired tk (s.ctx.pc + 1) ∧
      padWrites s t (o + 8) 8 (winNat s s.cur s.ctx.id (o + 8) 8 + 1)) ∧
    (winNat s s.cur s.ctx.id (o + 8) 8 = (s.ctx.rg b).toNat →
      goesOn (.tktWait tk sc a b) s (s.ctx.retired tk (s.ctx.pc + 1)) ∧
      ∀ w, s.ctx.wait = some w → w.kind = .ticket → s.mayGo s.cur = true → s.wordAt s.cur = some (.tktWait tk sc a b) →
        goesOn (.ticketWaitSatisfied s.cur) s (s.ctx.retired tk (s.ctx.pc + 1))) ∧
    (∀ m, winNat s s.cur s.ctx.id (o + 8) 8 ≠ (s.ctx.rg b).toNat → s.ctx.wait = none → s.ctx.waitEntry = none → entryRead s sc m →
      goesOn (.tktWait tk sc a b) s { waiting s.ctx tk (Wait.mk .ticket (2 ^ 63 + o) s.cycle) with waitEntry := some (some m) })

/-- Every legal atomic on the own scratchpad completes: the old value in gd, sign-extended for I32, and the new value of R238 in memory, in one step; ACAS writes
nothing where the old value differs. Nothing else changes. -/
def Obligations.AtomicsReadAndWriteAtOnce : Prop :=
  ∀ (s : State) (i : Instr) (tk : Tok) (a d b : BitVec 5) (ty : BitVec 3) (f : Nat → Nat → Option Nat) (o n old v : Nat),
    atomic s.ctx i = some (tk, a, d, ty, b, f) → atomWidth ty = some n → s.ctx.rg a = ownAddr o → padFree s o n = true → s.goesClear s.cur tk = true →
    old = winNat s s.cur s.ctx.id o n → v = (s.ctx.rg b).toNat % 2 ^ (8 * n) →
    ∃ t, exec i s = .next t ∧
      t.ctx = (s.ctx.setG d (if ty.toNat = 0 then BitVec.ofInt 64 (signed 32 old) else BitVec.ofNat 64 old)).retired tk (s.ctx.pc + 1) ∧
      padWrites s t o n ((f old v).getD old) ∧ { t with cores := s.cores } = s

/-- SCOPE completes with the 256 bytes of the bitmap at ga as entry sc of the table at SCOPEBASE, where every core of the bitmap is one of entry 31; the bitmap lies in
the own scratchpad or in pages of tier-2 (R46, R227, R240). -/
def Obligations.ScopeWritesItsEntry : Prop :=
  ∀ (s : State) (tk : Tok) (sc a : BitVec 5) (o pa : Nat) (src : Nat → Place), bitmapAt s (s.ctx.rg a) o src → o % 64 = 0 → s.goesClear s.cur tk = true →
    (∀ c, c < 2048 → (s.byte (src (c / 8))).getLsbD (c % 8) = true → coreId c = true ∧ s.inEntry31 s.ctx.id c = true) →
    (s.ctx.sr 0x048).toNat + 256 * sc.toNat < 2 ^ 48 →
    s.vaPlace s.ctx.id s.ctx.root ((s.ctx.sr 0x048).toNat + 256 * sc.toNat) = some (.tier2 pa) →
    ∃ t, exec (.scope tk sc a) s = .next t ∧ t.ctx = s.ctx.retired tk (s.ctx.pc + 1) ∧
      (∀ i, i < 256 → t.byte (.tier2 (pa + i)) = s.byte (src i)) ∧
      ∀ q, (q < pa ∨ pa + 256 ≤ q) → t.byte (.tier2 q) = s.byte (.tier2 q)

/-- RPOP completes with the oldest entry of the VX or MX result FIFO in gd, and waits while it is empty; RESULT_FIFO_ARRIVAL ends the wait (R241). -/
def Obligations.ResultFifosArePopped : Prop :=
  ∀ (s : State) (tk : Tok) (d : BitVec 5) (which : BitVec 2) (v : W64) (r : List W64) (y : Ctx), which.toNat < 2 →
    y = (if which = 0 then { s.ctx with vxFifo := r } else { s.ctx with mxFifo := r }) →
    ((if which = 0 then s.ctx.vxFifo else s.ctx.mxFifo) = v :: r → s.goes s.cur tk = true →
      goesOn (.rpop tk d which) s ((y.setG d v).retired tk (s.ctx.pc + 1)) ∧
      ∀ w, s.ctx.wait = some w → w.kind = .resultFifo → s.mayGo s.cur = true → s.wordAt s.cur = some (.rpop tk d which) →
        goesOn (.resultFifoArrival s.cur) s ((y.setG d v).retired tk (s.ctx.pc + 1))) ∧
    ((if which = 0 then s.ctx.vxFifo else s.ctx.mxFifo) = [] → mayTrap s tk = true → s.ctx.wait = none →
      goesOn (.rpop tk d which) s (waiting s.ctx tk (Wait.mk .resultFifo which.toNat s.cycle)))

namespace Sys2Proof.Spec
open Sys2Proof.Machine

/-! ## The estimates (R81 to R85) -/

/-- norm(a) of a finite non-zero F32 encoding: the fraction f and the exponent e, a subnormal normalised. -/
def normed (b : Nat) : Nat × Int :=
  let m : Nat := b % 2 ^ 23
  let e : Nat := b / 2 ^ 23 % 256
  if e = 0 then ((m - 2 ^ Nat.log2 m) * 2 ^ (23 - Nat.log2 m), (Nat.log2 m : Int) - 149) else (m, (e : Int) - 127)
/-- The sign bit of an F32 encoding. -/
def signOf (b : Nat) : Nat := b / 2 ^ 31 % 2 * 2 ^ 31
/-- (1 + t/2^11)·2^x in F32, where it is exact: normal, or subnormal for x of −127 and −128. -/
def elevenBits (t : Nat) (x : Int) : Nat :=
  if -126 ≤ x then (x + 127).toNat * 2 ^ 23 + t * 2 ^ 12 else (2048 + t) * 2 ^ (x + 138).toNat

/-- rcp_est (R81). -/
def reciprocal (b : Nat) : Nat × Flags :=
  if nanBits b then (0x7FC00000, 0)
  else if b % 2 ^ 31 = 0 then (signOf b + 0x7F800000, 0b00010)
  else if b % 2 ^ 31 = 0x7F800000 then (signOf b, 0)
  else
    let (f, e) := normed b
    let i := f / 2 ^ 15
    let t := (2 * 2 ^ 21 + (513 + 2 * i)) / (2 * (513 + 2 * i)) - 2048
    if 127 < -e - 1 then (signOf b + 0x7F800000, 0b00100) else (signOf b + elevenBits t (-e - 1), 0)
/-- rsq_est (R82); the integer nearest to 2^16/√n is the number of t with t + 1/2 below it. -/
def reciprocalRoot (b : Nat) : Nat × Flags :=
  if nanBits b then (0x7FC00000, 0)
  else if b % 2 ^ 31 = 0 then (signOf b + 0x7F800000, 0b00010)
  else if signOf b ≠ 0 then (0x7FC00000, 0b00001)
  else if b = 0x7F800000 then (0, 0)
  else
    let (f, e) := normed b
    let p := e % 2
    let n := 2 ^ p.toNat * (257 + 2 * (f / 2 ^ 16))
    let t := (List.range 4096).countP fun t => decide ((2 * t + 1) * (2 * t + 1) * n ≤ 2 ^ 34)
    (elevenBits (t - 2048) (-((e - p) / 2) - 1), 0)
/-- One more bit of a binary logarithm: a number known to lie from a to b, in units of 2^-64, at least 1 and below 2, is squared, and halved where its square is at least
2; none where a and b do not settle the bit. -/
def logBit (p : Nat × Nat × Nat) : Option (Nat × Nat × Nat) :=
  let (m, a, b) := p
  let c := a * a / 2 ^ 64
  let d := b * b / 2 ^ 64 + 1
  if 2 ^ 65 ≤ c then some (2 * m + 1, c / 2, d / 2 + 1) else if d < 2 ^ 65 then some (2 * m, c, d) else none
/-- lt(k) (R83): log2(1 + k/256) in units of 2^-24, to nearest, from its first 25 bits, the last of which rounds (it is irrational for k from 1 to 255). -/
def logPoint (k : Nat) : Nat :=
  let bit25 := (List.range 25).foldl (fun p _ => p.bind logBit) (some (0, (256 + k) * 2 ^ 56, (256 + k) * 2 ^ 56))
  if k = 256 then 2 ^ 24 else match bit25 with | some (m, _) => (m + 1) / 2 | none => 0
/-- log2_est (R83), by its points. -/
def binaryLog (b : Nat) : Nat × Flags :=
  if nanBits b then (0x7FC00000, 0)
  else if b % 2 ^ 31 = 0 then (0xFF800000, 0b00010)
  else if signOf b ≠ 0 then (0x7FC00000, 0b00001)
  else if b = 0x7F800000 then (0x7F800000, 0)
  else
    let (f, e) := normed b
    let j := f / 2 ^ 15
    let y : Nat := logPoint j + (logPoint (j + 1) - logPoint j) * (f % 2 ^ 15) / 2 ^ 15
    let v : Rat := e + (y : Rat) / 2 ^ 24
    ((roundTo F32 (if v = 0 then .zero false else .fin v) 0).1, 0)
/-- exp2_est (R84), by its points. -/
def powerOfTwo (b : Nat) : Nat × Flags :=
  if nanBits b then (0x7FC00000, 0)
  else if b % 2 ^ 31 = 0x7F800000 then (if signOf b = 0 then 0x7F800000 else 0, 0)
  else
    let a := (decodeF F32 b).toRat
    if 128 ≤ a then (0x7F800000, 0b00100)
    else if a < -150 then (0, 0b01000)
    else
      let h := ((a - a.floor) * 2 ^ 23).floor.toNat
      let m : Nat := xt (h / 2 ^ 15) + (xt (h / 2 ^ 15 + 1) - xt (h / 2 ^ 15)) * (h % 2 ^ 15) / 2 ^ 15
      let r := roundTo F32 (.fin ((m : Rat) * 2 ^ (a.floor - 23))) 0
      (r.1, if r.2.getLsbD 3 then 0b01000 else 0)
/-- rcps (R85): 2 − a·x. -/
def reciprocalStep (a x rm : Nat) : Nat × Flags :=
  match decodeF F32 a, decodeF F32 x with
  | .nan, _ => (0x7FC00000, 0)
  | _, .nan => (0x7FC00000, 0)
  | .inf _, .zero _ => (0x40000000, 0)
  | .zero _, .inf _ => (0x40000000, 0)
  | p, q =>
    if p.notFinite || q.notFinite then (if signOf a = signOf x then 0xFF800000 else 0x7F800000, 0)
    else
      let v := 2 - p.toRat * q.toRat
      roundTo F32 (if v = 0 then .zero (rm == 3) else .fin v) rm
/-- rsqs (R85): (3 − a·x·x)/2, exact inside. -/
def rootStep (a x rm : Nat) : Nat × Flags :=
  match decodeF F32 a, decodeF F32 x with
  | .nan, _ => (0x7FC00000, 0)
  | _, .nan => (0x7FC00000, 0)
  | .inf _, .zero _ => (0x3FC00000, 0)
  | .zero _, .inf _ => (0x3FC00000, 0)
  | p, q =>
    if p.notFinite || q.notFinite then (if signOf a = 0 then 0xFF800000 else 0x7F800000, 0)
    else
      let v := (3 - p.toRat * q.toRat * q.toRat) / 2
      roundTo F32 (if v = 0 then .zero (rm == 3) else .fin v) rm

/-! ## The mean unit (R244 to R258) -/

/-- A pair as R246 gives it: KIND (0 power, 1 logarithmic, 2 general, 3 extreme), SYM (0 none, 1 odd, 2 even), and its points. -/
structure MeanTables where
  kind : Nat
  sym : Nat
  entry : Nat → Nat
  exit : Nat → Nat
/-- A pair of a context's bank: loaded by VMTLD, or the standard one (R248), by its points. -/
def pairIn (x : Ctx) (n : Nat) : MeanTables :=
  match x.bank.find? (·.1 = n) with
  | some (_, m) => ⟨m.attr.toNat % 4, m.attr.toNat / 4 % 4, fun k => (m.entry.getD k 0).toNat, fun k => (m.exit.getD k 0).toNat⟩
  | none => ⟨if n = 4 then 1 else if n = 15 then 3 else 0, if n = 8 ∨ n = 10 then 1 else if n = 9 ∨ (11 ≤ n ∧ n ≤ 14) then 2 else 0,
      fun k => stdPoint n k false, fun k => stdPoint n k true⟩

/-- Fields of MSHAPE (R245). -/
def minimum (sh : W64) : Bool := sh.getLsbD 4
def fixedScale (sh : W64) : Bool := sh.getLsbD 5
def mref (sh : W64) : Nat := sh.toNat / 2 ^ 32
/-- The value of a rational, an exact zero being +0. -/
def exactly (v : Rat) : Machine.Num := if v = 0 then .zero false else .fin v
/-- The exponents of a standard pair's entry and exit functions (R248), as a numerator and a denominator of which one is 1; none for pairs 4 and 15. -/
def exponents (n : Nat) (exit : Bool) : Option (Nat × Nat) :=
  ([some (1, 1), some (1, 2), some (1, 4), some (1, 8), none, some (1, 8), some (1, 4), some (1, 2), some (1, 1), some (2, 1), some (3, 1), some (4, 1),
    some (6, 1), some (8, 1), some (16, 1), none].getD n none).map fun q => if exit then (q.2, q.1) else q
/-- Whether b encodes in F32 the value nearest to (k/256)^(p/q), p or q being 1: the q-th power of the point halfway to the encoding below is no more than k/256, and
that of the point halfway to the one above is. -/
def nearestPower (k p q b : Nat) : Prop :=
  let v : Rat := (k : Rat) / 256
  let halfway (i : Nat) : Rat := ((decodeF F32 i).toRat + (decodeF F32 (i + 1)).toRat) / 2
  if q = 1 then b = (roundTo F32 (exactly (v ^ p)) 0).1 else (b = 0 ∨ halfway (b - 1) ^ q ≤ v) ∧ v < halfway b ^ q
/-- The points that the estimates and the standard pairs are looked up in (R84, R248): xt(k) is the integer nearest to 2^23·2^(k/256), and the point k of a table of
a standard pair is (k/256)^q or (k/256)^(1/q) in F32, or zero. -/
def pointsAsGiven : Prop :=
  (∀ k, k ≤ 256 → (2 * xt k - 1) ^ 256 ≤ 2 ^ (6144 + k) ∧ 2 ^ (6144 + k) < (2 * xt k + 1) ^ 256) ∧
  ∀ n k exit, n < 16 → k ≤ 256 → match exponents n exit with
    | some (p, q) => nearestPower k p q (stdPoint n k exit)
    | none => stdPoint n k exit = 0

/-- Whether one value is less than another, where neither is a NaN and −0 equals +0. -/
def below (p q : Machine.Num) : Bool := p.lt q && !p.eqv q
/-- Whether p is more extreme than q: larger, or smaller under DIR 1. -/
def beyond (sh : W64) (p q : Machine.Num) : Bool := if minimum sh then below p q else below q p
/-- An exact quotient of the unit: of two infinities ±1, of a finite value and an infinity 0 (R252). -/
def quotient (p q : Machine.Num) : Rat :=
  match p, q with
  | .inf s, .inf t => if s = t then 1 else -1
  | .fin u, .fin v => u / v
  | _, _ => 0

/-- eval(T, u) (R247). -/
def lookup (t : Nat → Nat) (u : Rat) : Nat :=
  if 1 ≤ u then t 256
  else
    let j := (256 * u).floor.toNat
    let v (k : Nat) : Rat := (decodeF F32 (t k)).toRat
    (roundTo F32 (exactly (v j + (v (j + 1) - v j) * (256 * u - j))) 0).1
/-- A lookup at a signed point: negated, or reflected, below zero (R247). -/
def symLookup (odd : Bool) (t : Nat → Nat) (u : Rat) : Nat :=
  if u < 0 then (if odd then f32Sign true (lookup t (-u)) else lookup t (-u)) else lookup t u
/-- F(u) (R247). -/
def entryOf (p : MeanTables) (u : Rat) : Nat :=
  if p.kind = 1 then (binaryLog (roundTo F32 (exactly u) 0).1).1 else symLookup (p.sym == 1) p.entry u
/-- G(v) (R247): v is held between 0, or −1, and 1. -/
def exitOf (p : MeanTables) (v : Machine.Num) : Nat :=
  match v with
  | .nan => 0x7FC00000
  | v =>
    if p.kind = 1 then (powerOfTwo (roundTo F32 v 0).1).1
    else
      let u : Rat := match v with
        | .inf s => if s then -1 else 1
        | v => v.toRat
      symLookup (p.sym == 1) p.exit (max (if p.sym = 0 then 0 else -1) (min u 1))
/-- rscl (R249). -/
def rescaled (p : MeanTables) (s n : Nat) (r : Rat) : Nat × Flags :=
  let f := entryOf p r
  if p.kind = 1 then rounded F32 ((decodeF F32 s).add 0 ((Machine.Num.ofInt n).mul (decodeF F32 f)).1) 0 else fmul F32 s f 0

/-- The domain violations of R250 that the shape, the reference of a non-empty state, and a term make. -/
def shapeRefused (p : MeanTables) (sh : W64) : Bool :=
  p.kind != 3 && (if fixedScale sh then (match decodeF F32 (mref sh) with | .fin q => decide (q < 0) | _ => true) else p.kind == 2)
def stateRefused (p : MeanTables) (sh : W64) (st : MeanState) : Bool :=
  st.n != 0 && (decide (decodeF F32 st.m = .nan) || (p.kind != 3 && fixedScale sh && st.m != mref sh))
def termRefused (p : MeanTables) (sh : W64) (x : Nat) : Bool :=
  let v := decodeF F32 x
  let less := below v (.zero false)
  decide (v = .nan) || (p.kind != 3 && ((minimum sh && (less || v.isZero)) || (p.sym == 0 && less)
    || (fixedScale sh && beyond sh v.abs (decodeF F32 (mref sh)))))

/-- VMEAN.E (R252): the state with a term taken, and the flags raised; none for a violation. -/
def stateTake (p : MeanTables) (sh : W64) (st : MeanState) (x : Nat) : Option (MeanState × Flags) :=
  let v := decodeF F32 x
  let s := if st.n = 0 then 0 else st.s
  let n := min (st.n + 1) (2 ^ 32 - 1)
  if termRefused p sh x || shapeRefused p sh || stateRefused p sh st then none
  else if p.kind = 3 then some (⟨n, if st.n = 0 then x else f32Pick (!minimum sh) st.m x, s⟩, 0)
  else
    let old := decodeF F32 st.m
    let (m, s, f) : Nat × Nat × Flags :=
      if fixedScale sh then (mref sh, s, 0)
      else if st.n = 0 then (x % 2 ^ 31, s, 0)
      else if beyond sh v.abs old then
        let r := rescaled p s st.n (if minimum sh then quotient v.abs old else quotient old v.abs)
        (x % 2 ^ 31, r.1, r.2)
      else (st.m, s, 0)
    let u := if minimum sh then quotient (decodeF F32 m) v else if (decodeF F32 m).isZero then 0 else quotient v (decodeF F32 m)
    let t := fadd F32 s (entryOf p u) 0
    some (⟨n, m, t.1⟩, f ||| t.2)

/-- VMEAN.M (R253): state b merged into state a. -/
def stateMerge (p : MeanTables) (sh : W64) (a b : MeanState) : Option (MeanState × Flags) :=
  let n := min (a.n + b.n) (2 ^ 32 - 1)
  let am := decodeF F32 a.m
  let bm := decodeF F32 b.m
  if b.n = 0 then some (a, 0)
  else if stateRefused p sh a || stateRefused p sh b || shapeRefused p sh then none
  else if a.n = 0 then some (b, 0)
  else if p.kind = 3 then some (⟨n, f32Pick (!minimum sh) a.m b.m, a.s⟩, 0)
  else if am.eqv bm then
    let t := fadd F32 a.s b.s 0
    some (⟨n, a.m, t.1⟩, t.2)
  else if p.kind = 2 then none
  else if beyond sh am bm then
    let r := rescaled p b.s b.n (if minimum sh then quotient am bm else quotient bm am)
    let t := fadd F32 a.s r.1 0
    some (⟨n, a.m, t.1⟩, r.2 ||| t.2)
  else
    let r := rescaled p a.s a.n (if minimum sh then quotient bm am else quotient am bm)
    let t := fadd F32 r.1 b.s 0
    some (⟨n, b.m, t.1⟩, r.2 ||| t.2)

/-- VMEAN.X (R254): the mean of a state; that a violation of a non-empty state is one here is the model's choice (log 19). -/
def stateMean (p : MeanTables) (sh : W64) (st : MeanState) : Option (Nat × Flags) :=
  if st.n = 0 then some (0x7FC00000, 0b00001)
  else if stateRefused p sh st || shapeRefused p sh then none
  else if p.kind = 3 then some (st.m, 0)
  else
    let g := exitOf p (match decodeF F32 st.s with
      | .fin r => .fin (r / (st.n : Rat))
      | v => v)
    let m := decodeF F32 st.m
    some (if !minimum sh then fmul F32 st.m g 0
      else if (decodeF F32 g).isZero && below (.zero false) m then (0x7F800000, 0b00010)
      else rounded F32 (m.div (decodeF F32 g)) 0)

/-- VMSH (R255): the state moved to the reference t, where t is more extreme. -/
def stateShift (p : MeanTables) (sh : W64) (st : MeanState) (t : Nat) : Option (MeanState × Flags) :=
  let v := decodeF F32 t
  let m := decodeF F32 st.m
  if st.n = 0 ∨ p.kind = 3 then some (st, 0)
  else if decide (v = .nan) || below v (.zero false) || (minimum sh && v.isZero) || stateRefused p sh st || shapeRefused p sh then none
  else if !beyond sh v m then some (st, 0)
  else if p.kind = 2 then none
  else
    let r := rescaled p st.s st.n (if minimum sh then quotient v m else quotient m v)
    some (⟨st.n, t, r.1⟩, r.2)

/-- The merge at a bank controller (R258): one that R250 forbids sums n, keeps the destination's m and leaves s the canonical NaN. -/
def bankMerge (p : MeanTables) (sh : W64) (a b : MeanState) : MeanState :=
  match stateMerge p sh a b with
  | some r => r.1
  | none => ⟨min (a.n + b.n) (2 ^ 32 - 1), a.m, 0x7FC00000⟩

end Sys2Proof.Spec

namespace Sys2Proof.Spec
open Sys2Proof.Machine

/-! ## Queue heads: start, retirement, husks -/

/-- The head of a queue that can start now (R41, R42, R57, R126, R150, R302, R329): its core runs, it is alone to start, its tokens and its resource are there, no
unit it uses is gated, no matrix command holds what it touches, nor does another engine's command touch what a matrix command holds, and, of LD and ST, it is
its turn (R13, R44). Behind it nothing has started. -/
def canStart (s : State) (c : Nat) (a : Agent) (k : Cmd) (r : List Cmd) : Prop :=
  let x := s.live c
  (s.core c).active = true ∧ (s.core c).stopReq = false ∧ (s.core c).bps = [] ∧ engineOf k.instr = some a ∧ k.phase = .queued ∧ k.husk = false ∧
  k.stop = none ∧ k.suspended = false ∧ k.resumed = false ∧ k.popped = false ∧ x.hasTokens (popFifos a (tokOf k.instr).pop) = true ∧ x.resource k = true ∧
  s.gatesMet c a k = [] ∧ (s.head (hlOf c)).waitThreshold = 0 ∧ (r.all fun q => q.seq != k.seq && q.phase == .queued) = true ∧
  (a = .ld → x.stNext = false ∨ x.st = [] ∨ k.isMark = true) ∧ (a = .st → x.stNext = true ∨ x.ld = []) ∧
  (if a = .mx then s.mxClear c k = true else (k.groups.any (s.heldBank c) || k.tiles.any x.heldTiles.contains) = false)

/-- What a command does at its start besides its pops, where no operand is fetched that may be bad: LDO makes its words pending (R100), LDG and SCT read their row
list (R165), PDIR and MXNEST act (R214, R219), MXSTAT reads its word (R223). None for those that fetch operands: PLOAD, MXRUN, MXGO, MXGRAD. -/
def startOf (s : State) (c : Nat) (y : Ctx) (k : Cmd) : Option (Ctx × Cmd) :=
  let list (n : Nat) : Option (Ctx × Cmd) :=
    if (s.core c).badWords = [] ∧ (s.core c).softWords = [] ∧ ((k.gv.getD 1 0).toNat % 2 ^ 21) + 4 * n ≤ 0x200000 then
      some (y, { k with idx := (List.range n).map fun i => winNat s c y.id ((k.gv.getD 1 0).toNat % 2 ^ 21 + 4 * i) 4 })
    else none
  match k.instr with
  | .ldo _ _ _ _ _ n => some (y.pendWords (ldoWords k n.toNat), k)
  | .ldg _ _ _ _ _ _ n _ => list n.toNat
  | .sct _ _ _ _ _ _ n _ => list n.toNat
  | .pdir _ _ slot role => some (y.setDir slot.toNat ((k.gv.headD 0).setWidth 16) (role == 1), k)
  | .mxnest _ _ level =>
    some ({ y with shadowNest := y.shadowNest.put level.toNat (nestEntry (k.gv.headD 0) (k.gv.getD 1 0) (k.gv.getD 2 0)) }, k)
  | .mxstat _ sel => some (y, { k with idx := [(y.mxWord sel.toNat).toNat] })
  | .mxacr .. => if y.badA = [] then some (y, k) else none
  | .pload .. => none
  | .mxrun .. => none
  | .mxgo .. => none
  | .mxgrad .. => none
  | _ => some (y, k)
/-- Whose turn of LD and ST is next after a start: the other one's (R13, log 85). -/
def turned (x : Ctx) (a : Agent) : Ctx := if a = .ld then { x with stNext := true } else if a = .st then { x with stNext := false } else x

/-- The TLB with the counts that a command's pins hold released, and what is then dying without a count gone (R49, R50). -/
def unpinned (l : List TlbEntry) (pins : List Nat) : List TlbEntry :=
  if pins = [] then l
  else (l.map fun e => if e.id ∈ pins then { e with count := e.count - 1 } else e).filter fun e => !(e.dying && e.count == 0)

/-- The in-flight counts of the objects that a command names are released, and nothing else of any context's table changes (R59). -/
def countsReleased (s t : State) (c : Nat) (k : Cmd) : Prop :=
  (∀ o, (t.context (s.live c).id).counts.get 0 o = (s.context (s.live c).id).counts.get 0 o - k.objs.count o) ∧
  { t.context (s.live c).id with counts := (s.context (s.live c).id).counts } = s.context (s.live c).id ∧
  ∀ y, y ≠ (s.live c).id → t.context y = s.context y
/-- The started head of an engine's queue that can retire: nothing outside its core and no gate holds up its effects, and its pushes find room (R42, R57, R302). -/
def canRetire (s : State) (c : Nat) (a : Agent) (k : Cmd) (r : List Cmd) : Prop :=
  (s.core c).active = true ∧ (s.live c).queue a = k :: r ∧ engineOf k.instr = some a ∧ k.phase = .started ∧ k.husk = false ∧ k.stop = none ∧
  k.suspended = false ∧ s.canApply c a k = true ∧
  (s.live c).hasRoom (pushFifos a (tokOf k.instr).push) = true ∧ (r.all fun q => k.seq < q.seq && q.phase == .queued && !q.suspended) = true ∧
  (a = .mx → (s.live c).lane = [])
/-- What the retirement of a command without a copy's flag leaves: the queue without it, its pushes made, its TLB and object counts released, and its flags joined into
FPSTICKY; no other register of the context but those named apart (R42, R49, R59, R77). -/
def retiredHead (s t : State) (c : Nat) (a : Agent) (k : Cmd) (r : List Cmd) (fl : Flags) : Prop :=
  (t.live c).queue a = headSince s.cycle r ∧ (∀ b, b ≠ a → (t.live c).queue b = (s.live c).queue b) ∧
  (t.live c).tokens = ((s.live c).pushTokens (pushFifos a (tokOf k.instr).push)).tokens ∧
  (t.live c).sr 0x030 = (s.live c).sr 0x030 ||| fl.setWidth 64 ∧ (t.live c).g = (s.live c).g ∧ (t.live c).q = (s.live c).q ∧ (t.live c).pc = (s.live c).pc ∧
  (t.live c).tlb = unpinned (s.live c).tlb k.pins ∧ countsReleased s t c k ∧ ∀ d, d ≠ c → t.core d = s.core d
/-- The system registers but those named are as they were. -/
def sysKept (s t : State) (c : Nat) (but : List Nat) : Prop := ∀ m, m ∉ but → (t.live c).sr m = (s.live c).sr m
/-- The flag that a copy names is incremented once, every other is as it was (R170). -/
def flagRaised (s t : State) (c : Nat) (k : Cmd) : Prop :=
  ∀ n, (t.live c).flag n = if flagOf k.instr = some n then (s.live c).flag n + 1 else (s.live c).flag n

/-! ## Tiles in the own scratchpad -/

/-- A tile of n rows of w elements, each of b bytes, of an unscaled format, in the scratchpad of core c: the element in column j of the row that `row` numbers stands
at offset `pos k j` (R51, R58, R61, R70, R159). -/
def padTile (c : Nat) (st : RStream) (row : Nat → Nat) (n w b : Nat) (pos : Nat → Nat → Nat) : Prop :=
  st.shift = [] ∧ st.em = 0 ∧ st.tr = false ∧ st.obj.kind = 3 ∧ st.obj.rank = 2 ∧ st.obj.life = 0 ∧ scaled st.fmt = false ∧ elemBits st.fmt = 8 * b ∧
  b ∈ [1, 2, 4] ∧ coreId c = true ∧
  ∃ base h d0 d1 s0 s1 o : Nat, base ∈ [2 ^ 63, 0xF000000000000000 + c * 0x800000] ∧ st.obj.home = base + h ∧ st.obj.dims.take 2 = [d0, d1] ∧
    st.obj.strides.take 2 = [s0, s1] ∧ st.org 1 = (o : Int) ∧
    ∀ k j, k < n → j < w → row k < d0 ∧ o + j < d1 ∧ pos k j = h + (row k * s0 + (o + j) * s1) * b ∧ pos k j + b ≤ 0x200000
/-- Whether `row` numbers the rows of a tile: from its origin on, or as a row list gives them (R159, R165). -/
def rowsOf (st : RStream) (listed : Bool) (idx : List Nat) (n : Nat) (row : Nat → Nat) : Prop :=
  ∀ k, k < n → if listed then idx[k]? = some (row k) else (row k : Int) = st.org 0 + (k : Int)
/-- No two elements of a tile share a byte. -/
def apart (n w b : Nat) (pos : Nat → Nat → Nat) : Prop :=
  ∀ k j k' j', k < n → j < w → k' < n → j' < w → (k, j) ≠ (k', j') → pos k j + b ≤ pos k' j' ∨ pos k' j' + b ≤ pos k j
/-- No byte belongs to two tiles. -/
def disjoint (n w b : Nat) (pos : Nat → Nat → Nat) (b' : Nat) (pos' : Nat → Nat → Nat) : Prop :=
  ∀ k j k' j', k < n → j < w → k' < n → j' < w → pos k j + b ≤ pos' k' j' ∨ pos' k' j' + b' ≤ pos k j
/-- Element (k, j) of a tile in the own scratchpad as a number. -/
def elemAt (s : State) (c b : Nat) (pos : Nat → Nat → Nat) (k j : Nat) : Nat := winNat s c (s.live c).id (pos k j) b
/-- Every element of a tile is written with `new`, and no other byte changes, as seen at every place that shows no flag, token or general register. -/
def tileWritten (s t : State) (c n w b : Nat) (pos : Nat → Nat → Nat) (new : Nat → Nat → Nat) : Prop :=
  (∀ k j i y, k < n → j < w → i < b → t.byte (.win c y (pos k j + i)) = BitVec.ofNat 8 (new k j / 256 ^ i)) ∧
  ∀ p : Place, plain p = true → (∀ k j i y, k < n → j < w → i < b → p ≠ .win c y (pos k j + i)) → t.byte p = s.byte p
/-- The scratchpad of a core has no error (R64). -/
def padSound (s : State) (c : Nat) : Prop := (s.core c).badWords = [] ∧ (s.core c).softWords = []

/-- A copy of tiles (R158, R165, R166): its engine, rows, rounding mode, and whether a row list numbers the rows of its source or of its destination. -/
def copyForm : Instr → Option (Agent × Nat × Nat × Bool × Bool)
  | .ldt _ _ _ _ _ _ n rm => some (.ld, n.toNat, rm.toNat, false, false)
  | .cpy _ _ _ _ _ _ n rm => some (.ld, n.toNat, rm.toNat, false, false)
  | .ldg _ _ _ _ _ _ n rm => some (.ld, n.toNat, rm.toNat, true, false)
  | .stt _ _ _ _ _ _ n rm => some (.st, n.toNat, rm.toNat, false, false)
  | .cpys _ _ _ _ _ _ n rm => some (.st, n.toNat, rm.toNat, false, false)
  | .sct _ _ _ _ _ _ n rm => some (.st, n.toNat, rm.toNat, false, true)
  | _ => none
/-- The bits that a copy writes for an element's bits: themselves between streams of one format, else the value converted once (R78, R162). -/
def copied (a b rm raw : Nat) : Nat := if a = b then raw else (convElem a b (decodeElem a raw 0 0) rm).1
/-- A word updated by RED.ST (R242): ADD, MIN, MAX of the old word and the new value, in F32, I32 or N32. -/
def reduced (fmt op rm d v : Nat) : Nat :=
  let pick (vFirst : Bool) : Nat := if vFirst then v else d
  if fmt = 0x01 then
    match op with
    | 0 => (fadd F32 d v rm).1
    | 1 => f32Pick false d v
    | _ => f32Pick true d v
  else if op = 0 then (d + v) % 2 ^ 32
  else if fmt = 0x0C then pick (if op = 1 then decide (signed 32 v < signed 32 d) else decide (signed 32 d < signed 32 v))
  else pick (if op = 1 then decide (v < d) else decide (d < v))

end Sys2Proof.Spec

open Sys2Proof Sys2Proof.Machine Sys2Proof.Spec

/-- ENGINE_COMMAND_START on LD, ST, VX or MX: the head of the queue starts once its tokens and its resource are there and no breakpoint, hold or gate stops it: its
pops are made and its start acts: a word of LDO becomes pending, a row list is read, PDIR and MXNEST act, MXSTAT reads its word, and nothing else changes but whose
turn of LD and ST is next (the model's choice, log 85); one that fetches operands starts likewise, stopped where its fetch or its first row faults; a head of the
repair lane starts likewise, and a QMARK starts at the head of both copy queues. HUSK_RETIRE: a husk at the head makes its pops, its pushes and its flag increment
and leaves: the TLB counts and the object counts that it still holds are released, words that an LDO left pending become non-executable, and nothing else changes
(R41, R42, R49, R59, R126, R169, R170). -/
def Obligations.QueueHeadsStartOrLeave : Prop :=
  (∀ (s : State) (c : Nat) (a : Agent) (k : Cmd) (r : List Cmd), canStart s c a k r → (s.live c).queue a = k :: r → (a = .mx → (s.live c).lane = []) →
    k.isMark = false →
    (∀ y k', startOf s c ((s.live c).popTokens (popFifos a (tokOf k.instr).pop)) k = some (y, k') →
      exec (.engineCommandStart c a) s =
        .next (s.setLive c ((turned y a).setQueue a ({ k' with phase := .started, popped := true, awaited := none } :: r)))) ∧
    ∃ t k', exec (.engineCommandStart c a) s = .next t ∧ (t.live c).queue a = k' :: r ∧ k'.instr = k.instr ∧ k'.seq = k.seq ∧ k'.phase = .started ∧
      k'.popped = true ∧ (t.live c).tokens = ((s.live c).popTokens (popFifos a (tokOf k.instr).pop)).tokens ∧ (t.live c).g = (s.live c).g ∧
      (t.live c).sys = (s.live c).sys ∧ (t.live c).v = (s.live c).v ∧ (t.live c).acc = (s.live c).acc ∧ (t.live c).pc = (s.live c).pc) ∧
  (∀ (s : State) (c : Nat) (k : Cmd) (r : List Cmd), canStart s c .mx k r → (s.live c).lane = k :: r → laneable k.instr = true →
    ∀ y k', startOf s c ((s.live c).popTokens (popFifos .mx (tokOf k.instr).pop)) k = some (y, k') →
      exec (.engineCommandStart c .mx) s = .next (s.setLive c { y with lane := { k' with phase := .started, popped := true, awaited := none } :: r })) ∧
  (∀ (s : State) (c : Nat) (k m : Cmd) (r q : List Cmd), canStart s c .ld k r → (s.live c).ld = k :: r → (s.live c).st = m :: q → k.isMark = true →
    m.instr = k.instr → m.phase = .queued → m.husk = false → m.stop = none → m.suspended = false → m.resumed = false →
    exec (.engineCommandStart c .ld) s = .next (s.setLive c { (s.live c).popTokens (popFifos .ld (tokOf k.instr).pop) with
      stNext := true
      ld := { k with phase := .started, popped := true, awaited := none } :: r
      st := { m with phase := .started, popped := true } :: q })) ∧
  ∀ (s : State) (c : Nat) (a : Agent) (k : Cmd) (r : List Cmd), (s.core c).active = true → (s.core c).stopReq = false → (s.core c).bps = [] →
    (s.live c).queue a = k :: r → engineOf k.instr = some a → k.isMark = false → k.husk = true → k.popped = false → k.committed = k.admitted →
    (a = .mx → (s.live c).lane = []) → (r.all fun q => q.phase == .queued) = true → (s.head (hlOf c)).waitThreshold = 0 →
    (k.flagCore c = c ∨ ((s.core (k.flagCore c)).active = true ∧ (s.live (k.flagCore c)).id = (s.live c).id)) →
    (s.live c).hasTokens (popFifos a (tokOf k.instr).pop) = true → (s.live c).hasRoom (pushFifos a (tokOf k.instr).push) = true →
    ∃ t, exec (.huskRetire c a) s = .next t ∧ (t.live c).queue a = headSince s.cycle r ∧ (∀ b, b ≠ a → (t.live c).queue b = (s.live c).queue b) ∧
      (t.live c).tokens = (((s.live c).popTokens (popFifos a (tokOf k.instr).pop)).pushTokens (pushFifos a (tokOf k.instr).push)).tokens ∧
      (t.live c).tlb = unpinned (s.live c).tlb k.pins ∧
      countsReleased s t c k ∧
      (∀ d n, (t.live d).flag n = if d = k.flagCore c ∧ flagOf k.instr = some n then (s.live d).flag n + 1 else (s.live d).flag n) ∧
      (∀ i, (t.live c).word i = match k.instr with
        | .ldo _ _ _ _ _ n => if i ∈ ldoWords k n.toNat ∧ ((s.live c).word i).st = .pending then { (s.live c).word i with st := .nonexec } else (s.live c).word i
        | _ => (s.live c).word i) ∧
      (t.live c).g = (s.live c).g ∧ (t.live c).sys = (s.live c).sys ∧ (t.live c).v = (s.live c).v ∧ (t.live c).m = (s.live c).m ∧
      (t.live c).acc = (s.live c).acc ∧ (t.live c).q = (s.live c).q ∧ (t.live c).pc = (s.live c).pc ∧ ∀ p, plain p = true → t.byte p = s.byte p

/-- COMMAND_RETIRE on LD and ST, between tiles of the own scratchpad that share no byte: LDT, CPY, STT, CPYS, LDG and SCT write every element of the destination with
the source's bits, or its value converted once, in the rows of the row list where there is one; RED.ST updates every word by ADD, MIN or MAX, and MEAN merges states
of three words; CHPOP writes the oldest rows of the chimney and takes them out; LDO writes legal words, which become executable; PREF and QMARK write nothing. Each
increments its flag, makes its pushes, raises no flag of FPSTICKY and changes nothing else (R42, R159, R162, R165 to R170, R242, R258, R293). -/
def Obligations.CopiesMoveTheirElements : Prop :=
  (∀ (s : State) (c : Nat) (k : Cmd) (r : List Cmd) (a b : RStream) (ag : Agent) (n w rm sb db : Nat) (gather scatter : Bool) (rowS rowD : Nat → Nat)
      (src dst : Nat → Nat → Nat),
    canRetire s c ag k r → copyForm k.instr = some (ag, n, rm, gather, scatter) → k.sa = some a → k.sb = some b → tileWidth (k.gv.headD 0) = some w →
    padSound s c → rowsOf a gather k.idx n rowS → rowsOf b scatter k.idx n rowD → padTile c a rowS n w sb src → padTile c b rowD n w db dst →
    apart n w db dst → disjoint n w sb src db dst →
    ∃ t, exec (.commandRetire c ag) s = .next t ∧ tileWritten s t c n w db dst (fun i j => copied a.fmt b.fmt rm (elemAt s c sb src i j)) ∧
      retiredHead s t c ag k r 0 ∧ flagRaised s t c k ∧ sysKept s t c [0x030]) ∧
  (∀ (s : State) (c : Nat) (k : Cmd) (r : List Cmd) (a b : RStream) (tk : Tok) (qs qd : BitVec 4) (g : BitVec 5) (fl : BitVec 6) (fe : BitVec 1) (n : BitVec 12)
      (rm op : BitVec 3) (w sb : Nat) (rowS rowD : Nat → Nat) (src dst : Nat → Nat → Nat),
    canRetire s c .st k r → k.instr = .redSt tk qs qd g fl fe n rm op → k.sa = some a → k.sb = some b → tileWidth (k.gv.headD 0) = some w → padSound s c →
    (op.toNat < 3 → rowsOf a false [] n.toNat rowS → rowsOf b false [] n.toNat rowD → padTile c a rowS n.toNat w sb src →
      padTile c b rowD n.toNat w 4 dst → apart n.toNat w 4 dst → disjoint n.toNat w sb src 4 dst →
      ∃ t, exec (.commandRetire c .st) s = .next t ∧ tileWritten s t c n.toNat w 4 dst (fun i j =>
          reduced b.fmt op.toNat rm.toNat (elemAt s c 4 dst i j) (convElem a.fmt b.fmt (decodeElem a.fmt (elemAt s c sb src i j) 0 0) rm.toNat).1) ∧
        retiredHead s t c .st k r 0 ∧ flagRaised s t c k ∧ sysKept s t c [0x030]) ∧
    (op.toNat = 3 → rowsOf a false [] (3 * n.toNat) rowS → rowsOf b false [] (3 * n.toNat) rowD → padTile c a rowS (3 * n.toNat) w 4 src →
      padTile c b rowD (3 * n.toNat) w 4 dst → apart (3 * n.toNat) w 4 dst → disjoint (3 * n.toNat) w 4 src 4 dst →
      ∃ t, exec (.commandRetire c .st) s = .next t ∧ tileWritten s t c (3 * n.toNat) w 4 dst (fun i j =>
          let at3 (pos : Nat → Nat → Nat) : MeanState := ⟨elemAt s c 4 pos (i % n.toNat) j, elemAt s c 4 pos (n.toNat + i % n.toNat) j,
            elemAt s c 4 pos (2 * n.toNat + i % n.toNat) j⟩
          let m := bankMerge (pairIn (s.live c) (k.mshape.toNat % 16)) k.mshape (at3 dst) (at3 src)
          match i / n.toNat with
          | 0 => m.n
          | 1 => m.m
          | _ => m.s) ∧
        retiredHead s t c .st k r 0 ∧ flagRaised s t c k ∧ sysKept s t c [0x030])) ∧
  (∀ (s : State) (c : Nat) (k : Cmd) (r : List Cmd) (b : RStream) (tk : Tok) (qd : BitVec 4) (g : BitVec 5) (fl : BitVec 6) (fe : BitVec 1) (n : BitVec 12)
      (w : Nat) (rowD : Nat → Nat) (dst : Nat → Nat → Nat),
    canRetire s c .st k r → k.instr = .chpop tk qd g fl fe n → k.sb = some b → tileWidth (k.gv.headD 0) = some w → padSound s c →
    rowsOf b false [] n.toNat rowD → padTile c b rowD n.toNat w 2 dst → apart n.toNat w 2 dst → n.toNat ≤ (s.live c).chimney.length →
    ∃ t, exec (.commandRetire c .st) s = .next t ∧
      tileWritten s t c n.toNat w 2 dst (fun i j => (((s.live c).chimney.getD i []).getD j 0).toNat) ∧
      (t.live c).chimney = (s.live c).chimney.drop n.toNat ∧ (t.live c).chDone = (s.live c).chDone + BitVec.ofNat 32 n.toNat ∧
      retiredHead s t c .st k r 0 ∧ flagRaised s t c k ∧ sysKept s t c [0x030]) ∧
  (∀ (s : State) (c : Nat) (k : Cmd) (r : List Cmd) (a : RStream) (tk : Tok) (qs : BitVec 4) (g : BitVec 5) (fl : BitVec 6) (fe : BitVec 1) (n : BitVec 12)
      (rowS : Nat → Nat) (src : Nat → Nat → Nat) (v : Nat → W64),
    canRetire s c .ld k r → k.instr = .ldo tk qs g fl fe n → k.sa = some a → k.sb = none → padSound s c → rowsOf a false [] n.toNat rowS →
    padTile c a rowS n.toNat 8 1 src → (∀ i, v i = BitVec.ofNat 64 (leNat ((List.range 8).map fun j => s.byte (.win c (s.live c).id (src i j))))) →
    (∀ i, i < n.toNat → scan (v i) = 0) →
    ∃ t, exec (.commandRetire c .ld) s = .next t ∧
      (∀ i, i < n.toNat → (t.live c).word ((k.gv.headD 0).toNat % 2 ^ 15 + i) = ⟨v i, .exec⟩) ∧
      (∀ i, (∀ j, j < n.toNat → i ≠ (k.gv.headD 0).toNat % 2 ^ 15 + j) → (t.live c).word i = (s.live c).word i) ∧
      (∀ p, plain p = true → t.byte p = s.byte p) ∧ retiredHead s t c .ld k r 0 ∧ flagRaised s t c k ∧ sysKept s t c [0x030]) ∧
  (∀ (s : State) (c : Nat) (k : Cmd) (r : List Cmd) (tk : Tok) (qs : BitVec 4) (g : BitVec 5) (fl : BitVec 6) (fe : BitVec 1) (n : BitVec 12),
    canRetire s c .ld k r → k.instr = .pref tk qs g fl fe n → k.sb = none →
    ∃ t, exec (.commandRetire c .ld) s = .next t ∧ retiredHead s t c .ld k r 0 ∧ flagRaised s t c k ∧ sysKept s t c [0x030] ∧
      ∀ p, plain p = true → t.byte p = s.byte p) ∧
  ∀ (s : State) (c : Nat) (k m : Cmd) (r q : List Cmd) (tk : Tok) (fl : BitVec 6) (fe : BitVec 1), canRetire s c .ld k r → k.instr = .qmark tk fl fe → k.sb = none →
    (s.live c).st = m :: q →
    ∃ t, exec (.commandRetire c .ld) s = .next t ∧ (t.live c).ld = headSince s.cycle r ∧ (t.live c).st = headSince s.cycle q ∧
      (t.live c).vx = (s.live c).vx ∧ (t.live c).mx = (s.live c).mx ∧
      (t.live c).tokens = ((s.live c).pushTokens (pushFifos .ld (tokOf k.instr).push)).tokens ∧ flagRaised s t c k ∧ (∀ p, plain p = true → t.byte p = s.byte p)


namespace Sys2Proof.Spec
open Sys2Proof.Machine

/-! ## Vector and matrix commands -/

/-- The elements that a vector command with rounding writes where its mask is set, with the flags that each raises (R77, R187, R188, R194, R195): destination, mask, and
bits and flags at row i and column j. -/
def roundingElement (x : Ctx) : Instr → Option (BitVec 5 × BitVec 3 × (Nat → Nat → Nat × Flags))
  | .valu _ d a b mk ty rd _ op =>
    if ty.toNat = 0 ∧ op.toNat < 3 then
      some (d, mk, fun i j =>
        let p := decodeF F32 (x.ve a.toNat i j).toNat
        let q := decodeF F32 (x.ve b.toNat i j).toNat
        rounded F32 (match op.toNat with
          | 0 => p.add rd.toNat q
          | 1 => p.add rd.toNat q.negate
          | _ => p.mul q) rd.toNat)
    else none
  | .vfma _ d a b mk ty rd op =>
    if ty.toNat = 0 then
      some (d, mk, fun i j =>
        let p := decodeF F32 (x.ve a.toNat i j).toNat
        let z := decodeF F32 (x.ve d.toNat i j).toNat
        ffma F32 (if op.toNat < 2 then p else p.negate) (decodeF F32 (x.ve b.toNat i j).toNat) (if op.toNat % 2 = 0 then z else z.negate) rd.toNat)
    else none
  | .vcvt _ d a mk ty rd dir code =>
    let (src, dst) := if dir = 0 then (cvtFmt ty.toNat, cvtFmt code.toNat) else (cvtFmt code.toNat, cvtFmt ty.toNat)
    some (d, mk, fun i j => convElem src dst (decodeElem src ((x.ve a.toNat i j).toNat % 2 ^ elemBits src) 0 0) rd.toNat)
  | .vrcp _ d a mk => some (d, mk, fun i j => reciprocal (x.ve a.toNat i j).toNat)
  | .vrsq _ d a mk => some (d, mk, fun i j => reciprocalRoot (x.ve a.toNat i j).toNat)
  | .vexp2 _ d a mk => some (d, mk, fun i j => powerOfTwo (x.ve a.toNat i j).toNat)
  | .vlog2 _ d a mk => some (d, mk, fun i j => binaryLog (x.ve a.toNat i j).toNat)
  | .vrcps _ d a b mk rd => some (d, mk, fun i j => reciprocalStep (x.ve a.toNat i j).toNat (x.ve b.toNat i j).toNat rd.toNat)
  | .vrsqs _ d a b mk rd => some (d, mk, fun i j => rootStep (x.ve a.toNat i j).toNat (x.ve b.toNat i j).toNat rd.toNat)
  | _ => none
/-- The state of a mean at a position of registers n, n + 1 and n + 2 (R249). -/
def stateAt (x : Ctx) (n i j : Nat) : MeanState := ⟨(x.ve n i j).toNat, (x.ve (n + 1) i j).toNat, (x.ve (n + 2) i j).toNat⟩
/-- What a mean command makes of a position (R252 to R255): the words of its destination and the flags, none for a domain violation. -/
def meanElement (x : Ctx) (sh : W64) : Instr → Option (BitVec 5 × BitVec 3 × Nat × (Nat → Nat → Option (List Nat × Flags)))
  | .vmeanE _ d a mk => some (d, mk, 3, fun i j =>
      (stateTake (pairIn x (sh.toNat % 16)) sh (stateAt x d.toNat i j) (x.ve a.toNat i j).toNat).map fun r => ([r.1.n, r.1.m, r.1.s], r.2))
  | .vmeanM _ d a mk => some (d, mk, 3, fun i j =>
      (stateMerge (pairIn x (sh.toNat % 16)) sh (stateAt x d.toNat i j) (stateAt x a.toNat i j)).map fun r => ([r.1.n, r.1.m, r.1.s], r.2))
  | .vmeanX _ d a mk => some (d, mk, 1, fun i j =>
      (stateMean (pairIn x (sh.toNat % 16)) sh (stateAt x a.toNat i j)).map fun r => ([r.1], r.2))
  | .vmsh _ d a mk => some (d, mk, 3, fun i j =>
      (stateShift (pairIn x (sh.toNat % 16)) sh (stateAt x d.toNat i j) (x.ve a.toNat i j).toNat).map fun r => ([r.1.n, r.1.m, r.1.s], r.2))
  | _ => none
/-- The flags of FPSTICKY that a command of element results joins: those of every element its mask selects (R77, R178). -/
def joined (m : BitVec 1024) (f : Nat → Nat → Flags) (fl : Flags) : Prop :=
  ∀ b, fl.getLsbD b = true ↔ ∃ i j, i < 16 ∧ j < 64 ∧ m.getLsbD (64 * i + j) = true ∧ (f i j).getLsbD b = true
/-- The mask that VCMP writes (R190), bit by bit: its condition where the governing mask is set, zero elsewhere; the conditions are EQ, NE, LT, LE, GT, GE and, for
F32, UN and ORD. -/
def compared (ty cond : Nat) (p q : W32) : Bool :=
  if ty = 0 then
    let u := decodeF F32 p.toNat
    let v := decodeF F32 q.toNat
    let un : Bool := u == .nan || v == .nan
    let less (s t : Machine.Num) : Bool := s.lt t && !s.eqv t
    match cond with
    | 0 => u.eqv v
    | 1 => !u.eqv v
    | 2 => !un && less u v
    | 3 => !un && (less u v || u.eqv v)
    | 4 => !un && less v u
    | 5 => !un && (less v u || u.eqv v)
    | 6 => un
    | _ => !un
  else
    let u : Int := if ty = 1 then p.toInt else (p.toNat : Int)
    let v : Int := if ty = 1 then q.toInt else (q.toNat : Int)
    match cond with
    | 0 => decide (u = v)
    | 1 => decide (u ≠ v)
    | 2 => decide (u < v)
    | 3 => decide (u ≤ v)
    | 4 => decide (v < u)
    | 5 => decide (v ≤ u)
    | _ => false
/-- What a list of writes leaves at a place: the last of them, else what stood there. -/
def lastOf {α β : Type} [DecidableEq α] (l : List (α × β)) (k : α) (old : β) : β := match l.reverse.find? (·.1 = k) with | some e => e.2 | none => old

/-- An INT40 accumulator element, as an integer, after the first n plane rows of a column have passed it, in ascending order (R209). -/
def passedInt (x : Ctx) (slot sr col : Nat) (a : List Machine.Num) (v : Nat) : Nat → Int
  | 0 => sextNat v 40
  | n + 1 => stepInt sr (passedInt x slot sr col a v n) (a.getD n (.zero false)).toRat.floor (x.cell slot n col).toRat.floor
/-- An FA40 accumulator element after the first n plane rows of a column have passed it, in ascending order, with the flags raised: by four products at once
under quad packing, else by one (R205, R209). -/
def passedFa (x : Ctx) (slot sr col : Nat) (a : List Machine.Num) (v : Nat) : Nat → Nat × Flags
  | 0 => (v, 0)
  | n + 1 =>
    let (u, f) := passedFa x slot sr col a v n
    let (w, g) := if (x.entry slot).quad then quadStep u ((a.drop (4 * n)).take 4) ((List.range 4).map fun q => x.cell slot (4 * n + q) col)
      else stepFa sr u (a.getD n (.zero false)) (x.cell slot n col)
    (w, f ||| g)
/-- What an accumulator element becomes under n plane rows: an integer step for I8 operands and planes, else one on FA40. -/
def passed (x : Ctx) (slot sr col : Nat) (intg : Bool) (a : List Machine.Num) (v n : Nat) : Nat :=
  if intg then wrapNat (passedInt x slot sr col a v n) 40 else (passedFa x slot sr col a v n).1
/-- The accumulator, the semiring and the number of plane rows of MXRUN and MXGO. -/
def runForm : Instr → Option (BitVec 2 × BitVec 3 × Nat)
  | .mxrun _ _ _ acc sr _ _ _ kc _ => some (acc, sr, kc.toNat + 1)
  | .mxgo _ _ _ acc sr _ _ kc => some (acc, sr, kc.toNat + 1)
  | _ => none
/-- The identity that MXACL puts into every element of a tile (R221): of SUM and OR zero, of MIN the greatest value, of the others the least, in FA40 or INT40. -/
def identity (sr : Nat) (intg : Bool) : BitVec 40 :=
  if sr = 1 then (if intg then 0x7F_FFFF_FFFF else BitVec.ofNat 40 FA40.infBits)
  else if sr = 2 ∨ sr = 3 then (if intg then 0x80_0000_0000 else BitVec.ofNat 40 (FA40.signed true FA40.infBits))
  else 0
/-- The value of an accumulator element (R67, R222). -/
def accNum (x : Ctx) (acc row col : Nat) (intg : Bool) : Machine.Num :=
  let v := x.acc.get 0 (acc * 4096 + 64 * row + col)
  if intg then Machine.Num.ofInt v.toInt else decodeF FA40 v.toNat
/-- What MXACR makes of an accumulator element for a vector register (R222): an integer saturated to 32 bits, or an FA40 value rounded to F32. -/
def accToVec (x : Ctx) (acc row col rm : Nat) (intg : Bool) : Nat × Flags :=
  let v := x.acc.get 0 (acc * 4096 + 64 * row + col)
  if intg then (((max (-(2 ^ 31) : Int) (min v.toInt (2 ^ 31 - 1))) % (2 ^ 32 : Int)).toNat, 0) else roundTo F32 (decodeF FA40 v.toNat) rm
/-- Every slot and its directory entry but one, every accumulator tile but one, and every vector register is as it was. -/
def planesKept (s t : State) (c : Nat) (but : Nat) : Prop :=
  ∀ p, p < 8 → p ≠ but → (t.live c).entry p = (s.live c).entry p ∧ ∀ row col, row < 256 → col < 64 → (t.live c).cell p row col = (s.live c).cell p row col
def tilesKept (s t : State) (c : Nat) (but : Nat) : Prop :=
  ∀ a e, a < 4 → e < 4096 → a ≠ but → (t.live c).acc.get 0 (4096 * a + e) = (s.live c).acc.get 0 (4096 * a + e)

/-! ## What the entries of R181 to R198, R256, R266, R281, R282 and R292 write -/

/-- What a vector command writes, by its entry: the bits of element (i, j) of register n and bit (i, j) of mask n where it writes them, the byte at an offset of the
own scratchpad where it writes one, the flags it raises, the word for the VX result FIFO, the pair it loads, the chimney's new rows, and what it adds to SKIPCNT and
to DOMCNT. -/
structure Written where
  v : Nat → Nat → Nat → Option Nat := fun _ _ _ => none
  m : Nat → Nat → Nat → Option Bool := fun _ _ _ => none
  mem : Nat → Option Nat := fun _ => none
  fl : Flags := 0
  fifo : List W64 := []
  pair : Option (Nat × MeanPair) := none
  rows : List (List (BitVec 16)) := []
  skipped : Option Nat := none
  excluded : Option Nat := none

/-- The positions of a register in row-major order, and those that a mask selects (R175, R178). -/
def positions : List (Nat × Nat) := (List.range 16).flatMap fun i => (List.range 64).map fun j => (i, j)
def selected (x : Ctx) (mk : BitVec 3) : List (Nat × Nat) := positions.filter fun p => (x.mask mk.toNat).getLsbD (64 * p.1 + p.2)
/-- Flags raised together (R77). -/
def together (l : List Flags) : Flags := l.foldl (· ||| ·) 0
/-- A number held within bounds. -/
def clamped (lo hi v : Int) : Int := max lo (min v hi)

/-- The bytes of an element by memory format (R181). -/
def memBytes (mf : Nat) : Nat := [4, 2, 2, 1, 1, 1, 1, 2, 2].getD mf 0
/-- The element that VLD makes of the bytes read (R181): bits unchanged, an exact F32 value, or the integer sign- or zero-extended. -/
def vldElem (mf b : Nat) : Nat :=
  match mf with
  | 1 => (convElem 0x02 0x01 (decodeElem 0x02 b 0 0) 0).1
  | 2 => (convElem 0x03 0x01 (decodeElem 0x03 b 0 0) 0).1
  | 3 => (convElem 0x04 0x01 (decodeElem 0x04 b 0 0) 0).1
  | 4 => (convElem 0x05 0x01 (decodeElem 0x05 b 0 0) 0).1
  | 5 => (signed 8 b % (2 ^ 32 : Int)).toNat
  | 7 => (signed 16 b % (2 ^ 32 : Int)).toNat
  | _ => b
/-- The bytes that VST makes of an element, as a number, with its flags (R181): bits unchanged, rounded to the float format, or saturated to the integer. -/
def vstElem (mf rm b : Nat) : Nat × Flags :=
  match mf with
  | 1 => roundTo BF16 (decodeF F32 b) rm
  | 2 => roundTo F16 (decodeF F32 b) rm
  | 3 => roundTo E4M3 (decodeF F32 b) rm
  | 4 => roundTo E5M2 (decodeF F32 b) rm
  | 5 => ((clamped (-128) 127 (signed 32 b) % (2 ^ 8 : Int)).toNat, 0)
  | 6 => (min b 255, 0)
  | 7 => ((clamped (-32768) 32767 (signed 32 b) % (2 ^ 16 : Int)).toNat, 0)
  | 8 => (min b 65535, 0)
  | _ => (b, 0)
/-- The scratchpad offset of element (i, j) of VLD and VST (R182), from the base and the pitch that travel with the command. -/
def elemOffset (gv : List W64) (w i j : Nat) : Nat :=
  (gv.getD 0 0).toNat + i * (if gv.getD 1 0 = 0 then 64 * w else (gv.getD 1 0).toNat) + j * w

/-- The identity of a reduction or scan (R192): of SUM −0 or 0, of MIN the greatest value, of MAX the least, in F32, I32 and N32. -/
def lineIdent (op ty : Nat) : Nat :=
  match op with
  | 0 => if ty = 0 then 0x80000000 else 0
  | 1 => if ty = 0 then 0x7F800000 else if ty = 1 then 2 ^ 31 - 1 else 2 ^ 32 - 1
  | _ => if ty = 0 then 0xFF800000 else if ty = 1 then 2 ^ 31 else 0
/-- Its step (R192). -/
def lineStep (op ty rm p q : Nat) : Nat × Flags :=
  if ty = 0 then
    match op with
    | 0 => fadd F32 p q rm
    | 1 => (f32Pick false p q, 0)
    | _ => (f32Pick true p q, 0)
  else
    match op with
    | 0 => ((p + q) % 2 ^ 32, 0)
    | 1 => (if ty = 1 then (if signed 32 p ≤ signed 32 q then p else q) else min p q, 0)
    | _ => (if ty = 1 then (if signed 32 p ≤ signed 32 q then q else p) else max p q, 0)
/-- Element k of line l along an axis, 0 a row and 1 a column (R192): that of the register where the mask selects it, else the identity. -/
def lineElem (x : Ctx) (a : BitVec 5) (mk : BitVec 3) (axis op ty l k : Nat) : Nat :=
  let (i, j) := if axis = 0 then (l, k) else (k, l)
  if (x.mask mk.toNat).getLsbD (64 * i + j) then (x.ve a.toNat i j).toNat else lineIdent op ty
/-- Term i of red_tree at a level, each level joining the pairs of the one below, with the flags of the steps under it (R80). -/
def treeAt (step : Nat → Nat → Nat × Flags) (x : Nat → Nat) : Nat → Nat → Nat × Flags
  | 0, i => (x i, 0)
  | n + 1, i =>
    let p := treeAt step x n (2 * i)
    let q := treeAt step x n (2 * i + 1)
    ((step p.1 q.1).1, p.2 ||| q.2 ||| (step p.1 q.1).2)
/-- Prefix k of a line with the flags of the steps up to it (R193); a NaN is delivered as the canonical one (R66). -/
def prefixAt (step : Nat → Nat → Nat × Flags) (ty : Nat) (x : Nat → Nat) : Nat → Nat × Flags
  | 0 => (if ty = 0 ∧ decodeF F32 (x 0) = .nan then 0x7FC00000 else x 0, 0)
  | k + 1 => ((step (prefixAt step ty x k).1 (x (k + 1))).1, (prefixAt step ty x k).2 ||| (step (prefixAt step ty x k).1 (x (k + 1))).2)

/-- VREDR and VREDC (R192): each line's tree, in its first element or, under BC, in all of them. -/
def reduces (x : Ctx) (d a : BitVec 5) (mk ty rd : BitVec 3) (bc : BitVec 1) (op axis : Nat) : Written :=
  let line (l : Nat) : Nat × Flags := treeAt (lineStep op ty.toNat rd.toNat) (lineElem x a mk axis op ty.toNat l) (if axis = 0 then 6 else 4) 0
  { v := fun n i j =>
      let (l, k) := if axis = 0 then (i, j) else (j, i)
      if n = d.toNat ∧ (bc = 1 ∨ k = 0) then some (line l).1 else none
    fl := together ((List.range (if axis = 0 then 16 else 64)).map fun l => (line l).2) }
/-- VSCANR and VSCANC (R193). -/
def scans (x : Ctx) (d a : BitVec 5) (mk ty rd : BitVec 3) (ex : BitVec 1) (op axis : Nat) : Written :=
  let at' (l k : Nat) : Nat × Flags := prefixAt (lineStep op ty.toNat rd.toNat) ty.toNat (lineElem x a mk axis op ty.toNat l) k
  { v := fun n i j =>
      let (l, k) := if axis = 0 then (i, j) else (j, i)
      if n = d.toNat then some (if ex = 0 then (at' l k).1 else if k = 0 then lineIdent op ty.toNat else (at' l (k - 1)).1) else none
    fl := together ((List.range (if axis = 0 then 16 else 64)).map fun l => (at' l (if axis = 0 then 63 else 15)).2) }

/-- VMASK but for TOV (R196): the bits of the mask it writes. -/
def maskBit (x : Ctx) (a b : BitVec 5) (op n i j : Nat) : Bool :=
  let p := (x.mask a.toNat).getLsbD (64 * i + j)
  let q := (x.mask b.toNat).getLsbD (64 * i + j)
  match op with
  | 0 => p && q
  | 1 => p || q
  | 2 => p != q
  | 3 => p && !q
  | 4 => !p
  | 5 => decide (x.ve a.toNat i j ≠ 0)
  | 7 => decide (j < n)
  | 8 => decide (i < n)
  | _ => decide (64 * i + j < n)
/-- VPOPC (R197): how many bits of a mask are set in row i, in column j, or in all. -/
def bitsSet (x : Ctx) (a : BitVec 5) (mode i j : Nat) : Nat :=
  (positions.filter fun p => (x.mask a.toNat).getLsbD (64 * p.1 + p.2) && (mode == 2 || (mode == 0 && p.1 == i) || (mode == 1 && p.2 == j))).length

/-- Whether VMTLD refuses element n of its register (R250, R256): a table entry of a power or general pair that is not finite or less than the one before it, or an
attribute word with a reserved bit or SYM 11. -/
def tableRefused (x : Ctx) (a : BitVec 5) (n : Nat) : Bool :=
  let el (k : Nat) : W32 := x.ve a.toNat (k / 64) (k % 64)
  let attr := (el 514).toNat
  if n = 514 then decide (16 ≤ attr) || attr / 4 % 4 == 3
  else (attr % 4 == 0 || attr % 4 == 2) && ((decodeF F32 (el n).toNat).notFinite ||
    (n != 0 && n != 257 && decide ((decodeF F32 (el n).toNat).toRat < (decodeF F32 (el (n - 1)).toNat).toRat)))

/-- One rounding of VUPD (R266): an exact zero is +0, or −0 under rd. -/
def updRound (rm : Nat) (v : Machine.Num) : Nat × Flags := roundTo F32 (if v.isZero then .zero (rm == 3) else v) rm
/-- What VUPD makes of one element (R266): the new weight and moments with the flags of its four roundings, none where it is skipped. -/
def updated (h : List W64) (rm w g m1 m2 : Nat) : Option (Nat × Nat × Nat × Flags) :=
  let low (i : Nat) : Machine.Num := decodeF F32 ((h.getD i 0).extractLsb' 0 32).toNat
  let high (i : Nat) : Machine.Num := decodeF F32 ((h.getD i 0).extractLsb' 32 32).toNat
  let mul (p q : Machine.Num) : Machine.Num := (p.mul q).1
  let add (p q : Machine.Num) : Machine.Num := (p.add rm q).1
  let less1 (p : Machine.Num) : Machine.Num := add (.fin 1) p.negate
  let num := decodeF F32
  let bad (b : Nat) : Bool := (num b).notFinite
  if bad g || bad m1 || bad m2 then none
  else
    let m2 := if 2 ^ 31 ≤ m2 then 0 else m2
    let x := mul (num g) (high 2)
    let m1n := updRound rm (add (mul (low 1) (num m1)) (mul (less1 (low 1)) x))
    let m2n := updRound rm (add (mul (high 1) (num m2)) (mul (mul (less1 (high 1)) x) x))
    let den := sqrtPlus (mul (high 3) (num m2n.1)) (low 2) rm
    let step := mul (low 0) (add ((mul (low 3) (num m1n.1)).div (num den.1)).1 (mul (high 0) (num w)))
    let wn := updRound rm (add (num w) step.negate)
    if bad m1n.1 || bad m2n.1 || bad den.1 || bad wn.1 then none else some (wn.1, m1n.1, m2n.1, m1n.2 ||| m2n.2 ||| den.2 ||| wn.2)

/-- quant (R281). -/
def quantised (v lo hi : Machine.Num) (k : Nat) : Nat :=
  if lo.notFinite ∨ hi.notFinite ∨ hi.toRat ≤ lo.toRat then 0
  else match v with
    | .nan => 0
    | .inf neg => if neg then 0 else 2 ^ k - 1
    | v => (clamped 0 (2 ^ k - 1) ((v.toRat - lo.toRat) * 2 ^ k / (hi.toRat - lo.toRat)).floor).toNat
/-- The coordinates under the first loop of R281, for the levels Q = 2^n, …, 2. -/
def hilbertDown (d : Nat) : Nat → List Nat → List Nat
  | 0, x => x
  | n + 1, x =>
    let q := 2 ^ (n + 1)
    hilbertDown d n ((List.range d).foldl (fun x a =>
      if (x.getD a 0).testBit (n + 1) then x.set 0 (x.getD 0 0 ^^^ (q - 1))
      else
        let t := (x.getD 0 0 ^^^ x.getD a 0) % q
        let y := x.set 0 (x.getD 0 0 ^^^ t)
        y.set a (y.getD a 0 ^^^ t)) x)
/-- The running exclusive or of the second loop. -/
def hilbertGray : Nat → List Nat → List Nat
  | _, [] => []
  | p, v :: r => (v ^^^ p) :: hilbertGray (v ^^^ p) r
/-- The word t of the third loop: Q − 1 for every level whose bit the last coordinate has set. -/
def hilbertTail (last : Nat) : Nat → Nat
  | 0 => 0
  | n + 1 => (if last.testBit (n + 1) then 2 ^ (n + 1) - 1 else 0) ^^^ hilbertTail last n
/-- curve_key (R281) of K-bit coordinates: Morton interleaves them, axis 0 in the lowest place; Hilbert transforms them first and puts axis 0 in the highest. -/
def curveNumber (k : Nat) (hil : Bool) (q : List Nat) : Nat :=
  let y := hilbertGray 0 (hilbertDown q.length (k - 1) q)
  let z := y.map (· ^^^ hilbertTail (y.getLastD 0) (k - 1))
  let inner := if hil then z.reverse else q
  ((List.range k).map fun t => ((List.range q.length).map fun a => if (inner.getD a 0).testBit t then 2 ^ (q.length * t + a) else 0).sum).sum
/-- The key of position (i, j) under VKEY (R281, R282). -/
def keyAt (x : Ctx) (gv : List W64) (a : BitVec 5) (ty k : Nat) (hil three : Bool) (i j : Nat) : Nat :=
  curveNumber k hil ((List.range (if three then 3 else 2)).map fun ax =>
    let b := (x.ve (a.toNat + ax) i j).toNat
    quantised (match ty with | 0 => decodeF F32 b | 1 => .ofInt (signed 32 b) | _ => .ofInt b) (decodeF F32 ((gv.getD ax 0).extractLsb' 0 32).toNat)
      (decodeF F32 ((gv.getD ax 0).extractLsb' 32 32).toNat) k)

/-- What a vector command writes whose entry does not give each element by itself; none for the others, for what the table calls illegal, for a footprint outside the
scratchpad, and for a VMTLD that faults. -/
def commandWrites (s : State) (c : Nat) (k : Cmd) : Option Written :=
  let x := s.live c
  match k.instr with
  | .vld _ d _ _ mk mf =>
    let w := memBytes mf.toNat
    if mf.toNat < 9 ∧ elemOffset k.gv w 15 64 ≤ 0x200000 then
      some { v := fun n i j => if n = d.toNat ∧ (x.mask mk.toNat).getLsbD (64 * i + j) then
               some (vldElem mf.toNat (winNat s c x.id (elemOffset k.gv w i j) w)) else none }
    else none
  | .vst _ d _ _ mk rd mf =>
    let w := memBytes mf.toNat
    let val (p : Nat × Nat) : Nat × Flags := vstElem mf.toNat rd.toNat (x.ve d.toNat p.1 p.2).toNat
    if mf.toNat < 9 ∧ elemOffset k.gv w 15 64 ≤ 0x200000 then
      some { mem := fun off => (((selected x mk).filter fun p => elemOffset k.gv w p.1 p.2 ≤ off && off < elemOffset k.gv w p.1 p.2 + w).getLast?).map
               fun p => (val p).1 / 256 ^ (off - elemOffset k.gv w p.1 p.2) % 256
             fl := together ((selected x mk).map fun p => (val p).2) }
    else none
  | .vredr _ d a mk ty rd bc op => if op.toNat < 3 ∧ ty.toNat < 3 then some (reduces x d a mk ty rd bc op.toNat 0) else none
  | .vredc _ d a mk ty rd bc op => if op.toNat < 3 ∧ ty.toNat < 3 then some (reduces x d a mk ty rd bc op.toNat 1) else none
  | .vscan _ d a mk ty rd ex axis op => if op.toNat < 3 ∧ ty.toNat < 3 then some (scans x d a mk ty rd ex op.toNat axis.toNat) else none
  | .vmask _ d a b ty n op =>
    if op.toNat = 6 then
      some { v := fun r i j => if r = d.toNat then
               some (if (x.mask a.toNat).getLsbD (64 * i + j) then (if ty.toNat = 0 then 0x3F800000 else 1) else 0) else none }
    else if op.toNat < 10 ∧ d.toNat < 8 then
      some { m := fun r i j => if r = d.toNat then some (maskBit x a b op.toNat n.toNat i j) else none }
    else none
  | .vpopc _ d a mode =>
    if mode.toNat < 3 then some { v := fun n i j => if n = d.toNat then some (bitsSet x a mode.toNat i j) else none } else none
  | .vtog _ a ty src col row =>
    let el := x.ve a.toNat row.toNat col.toNat
    some { fifo := [if src = 1 then (x.mask a.toNat).extractLsb' (64 * row.toNat) 64 else if ty = 1 then el.signExtend 64 else el.setWidth 64] }
  | .vmtld _ a pair =>
    let el (n : Nat) : W32 := x.ve a.toNat (n / 64) (n % 64)
    match (List.range 515).find? (tableRefused x a) with
    | none => some { pair := some (pair.toNat, ⟨(List.range 257).map el, (List.range 257).map fun n => el (257 + n), (el 514).setWidth 64⟩), excluded := some 0 }
    | some _ => if k.mshape.getLsbD 6 then some { excluded := some 1 } else none
  | .vupd _ d a b mk _ rd _ =>
    let new (p : Nat × Nat) : Option (Nat × Nat × Nat × Flags) := updated k.gv rd.toNat (x.ve d.toNat p.1 p.2).toNat (x.ve a.toNat p.1 p.2).toNat
      (x.ve b.toNat p.1 p.2).toNat (x.ve (b.toNat + 1) p.1 p.2).toNat
    if b.toNat < 31 ∧ d ≠ b ∧ d.toNat ≠ b.toNat + 1 then
      some { v := fun n i j => if !(x.mask mk.toNat).getLsbD (64 * i + j) then none
               else (new (i, j)).bind fun e => if n = d.toNat then some e.1 else if n = b.toNat then some e.2.1 else if n = b.toNat + 1 then some e.2.2.1 else none
             fl := together ((selected x mk).filterMap fun p => (new p).map (·.2.2.2))
             skipped := some ((selected x mk).filter fun p => (new p).isNone).length }
    else none
  | .vkey _ d a mk ty hil three kk _ =>
    if d.toNat < 31 ∧ ty.toNat < 3 then
      some { v := fun n i j => if (x.mask mk.toNat).getLsbD (64 * i + j) then
               let key := keyAt x k.gv a ty.toNat (kk.toNat + 1) (hil == 1) (three == 1) i j
               if n = d.toNat then some (key % 2 ^ 32) else if n = d.toNat + 1 then some (key / 2 ^ 32) else none
               else none }
    else none
  | .chpush _ a rd fmt r n =>
    let val (i j : Nat) : Nat × Flags := vstElem ([1, 2, 7, 8].getD fmt.toNat 0) rd.toNat (x.ve a.toNat (r.toNat + i) j).toNat
    if r.toNat + n.toNat + 1 ≤ 16 then
      some { rows := (List.range (n.toNat + 1)).map fun i => (List.range 64).map fun j => BitVec.ofNat 16 (val i j).1
             fl := together ((List.range (n.toNat + 1)).flatMap fun i => (List.range 64).map fun j => (val i j).2) }
    else none
  | _ => none


end Sys2Proof.Spec

open Sys2Proof Sys2Proof.Machine Sys2Proof.Spec

/-- COMMAND_RETIRE on VX: a started command of R184 to R189 without rounding writes each element that its mask selects and no other; one that rounds (VALU and VFMA
in F32, VCVT, the estimates and their steps) writes the rounded values and joins their flags into FPSTICKY; a mean command writes its states and, under DMODE 1,
counts its domain violations in DOMCNT, and under DMODE 0 is stopped by DOMAIN at the first; VCMP writes its mask; VLD, VST, VREDR, VREDC, VSCANR, VSCANC, VMASK,
VPOPC, VTOG, VMTLD, VUPD, VKEY and CHPUSH write the elements, mask bits, bytes, FIFO word, pair and rows that their entries compute, and VMTLD under DMODE 0 is
stopped by DOMAIN at the first element it refuses. Every command of VX that meets no uncorrectable word and no fault writes exactly the elements, the mask, the
bytes, the flags and the words that its entry gives, the last of each where it gives several, makes its pushes and leaves its queue. The points of the estimates
and of the standard pairs are the nearest ones (R42, R77, R83, R84, R175, R178 to R198, R248, R250, R252 to R256, R266, R282, R292). -/
def Obligations.VectorCommandsWriteTheirElements : Prop :=
  pointsAsGiven ∧
  (∀ (s : State) (c : Nat) (k : Cmd) (r : List Cmd) (d : BitVec 5) (mk : BitVec 3) (f : Nat → Nat → W32),
    canRetire s c .vx k r → k.pins = [] → k.objs = [] → element (s.live c) k.gv k.instr = some (d, mk, f) → (s.live c).badV = [] → (s.live c).badM = [] →
    ∃ t, exec (.commandRetire c .vx) s = .next t ∧
      (∀ n i j, n < 32 → i < 16 → j < 64 → (t.live c).ve n i j =
        if n = d.toNat ∧ ((s.live c).mask mk.toNat).getLsbD (64 * i + j) then f i j else (s.live c).ve n i j) ∧
      retiredHead s t c .vx k r 0 ∧ sysKept s t c [0x030] ∧
      { (t.live c) with v := (s.live c).v, vx := (s.live c).vx, sys := (s.live c).sys, tokens := (s.live c).tokens } = s.live c ∧ onlyLive s t c) ∧
  (∀ (s : State) (c : Nat) (k : Cmd) (r : List Cmd) (d : BitVec 5) (mk : BitVec 3) (f : Nat → Nat → Nat × Flags),
    canRetire s c .vx k r → k.pins = [] → k.objs = [] → roundingElement (s.live c) k.instr = some (d, mk, f) → (s.live c).badV = [] → (s.live c).badM = [] →
    ∃ t fl, exec (.commandRetire c .vx) s = .next t ∧
      (∀ n i j, n < 32 → i < 16 → j < 64 → (t.live c).ve n i j =
        if n = d.toNat ∧ ((s.live c).mask mk.toNat).getLsbD (64 * i + j) then BitVec.ofNat 32 (f i j).1 else (s.live c).ve n i j) ∧
      joined ((s.live c).mask mk.toNat) (fun i j => (f i j).2) fl ∧ retiredHead s t c .vx k r fl ∧ sysKept s t c [0x030] ∧
      { (t.live c) with v := (s.live c).v, vx := (s.live c).vx, sys := (s.live c).sys, tokens := (s.live c).tokens } = s.live c ∧ onlyLive s t c) ∧
  (∀ (s : State) (c : Nat) (k : Cmd) (r : List Cmd) (d : BitVec 5) (mk : BitVec 3) (w : Nat) (f : Nat → Nat → Option (List Nat × Flags)) (bad : List (Nat × Nat)),
    canRetire s c .vx k r → k.idx = [] → meanElement (s.live c) k.mshape k.instr = some (d, mk, w, f) → d.toNat + w ≤ 32 →
    bad = ((List.range 16).flatMap fun i => (List.range 64).map fun j => (i, j)).filter (fun p =>
      ((s.live c).mask mk.toNat).getLsbD (64 * p.1 + p.2) && (f p.1 p.2).isNone) →
    (s.live c).badV = [] → (s.live c).badM = [] →
    ((k.mshape.getLsbD 6 = true ∨ bad = []) → ∃ t fl, exec (.commandRetire c .vx) s = .next t ∧
      (∀ n i j, n < 32 → i < 16 → j < 64 → (t.live c).ve n i j =
        if d.toNat ≤ n ∧ n < d.toNat + w ∧ ((s.live c).mask mk.toNat).getLsbD (64 * i + j) then
          (match f i j with | some e => BitVec.ofNat 32 (e.1.getD (n - d.toNat) 0) | none => (s.live c).ve n i j)
        else (s.live c).ve n i j) ∧
      joined ((s.live c).mask mk.toNat) (fun i j => ((f i j).map (·.2)).getD 0) fl ∧ retiredHead s t c .vx k r fl ∧ sysKept s t c [0x030, 0x032] ∧
      (t.live c).sr 0x032 = (if bad = [] then BitVec.ofNat 64 (min ((s.live c).sr 0x032).toNat (2 ^ 32 - 1))
        else BitVec.ofNat 64 (min (((s.live c).sr 0x032).toNat + bad.length) (2 ^ 32 - 1)))) ∧
    (∀ i j l, k.mshape.getLsbD 6 = false → bad = (i, j) :: l → ∃ t p, exec (.commandRetire c .vx) s = .next t ∧
      (t.live c).vx = { k with stop := some p } :: r ∧ p.cause = 0x09 ∧ p.detail = 64 * i + j ∧ (t.live c).pend = (s.live c).pend ++ [p] ∧
      (t.live c).v = (s.live c).v ∧ (t.live c).sys = (s.live c).sys ∧ (t.live c).tokens = (s.live c).tokens)) ∧
  (∀ (s : State) (c : Nat) (k : Cmd) (r : List Cmd) (tk : Tok) (d a b : BitVec 5) (mk ty cond : BitVec 3), canRetire s c .vx k r →
    k.instr = .vcmp tk d a b mk ty cond → d.toNat < 8 → (s.live c).badV = [] → (s.live c).badM = [] →
    ∃ t, exec (.commandRetire c .vx) s = .next t ∧ (t.live c).v = (s.live c).v ∧
      (∀ n i j, 1 ≤ n → n < 8 → i < 16 → j < 64 → ((t.live c).mask n).getLsbD (64 * i + j) =
        if n = d.toNat then ((s.live c).mask mk.toNat).getLsbD (64 * i + j) && compared ty.toNat cond.toNat ((s.live c).ve a.toNat i j) ((s.live c).ve b.toNat i j)
        else ((s.live c).mask n).getLsbD (64 * i + j)) ∧
      retiredHead s t c .vx k r 0 ∧ sysKept s t c [0x030]) ∧
  (∀ (s : State) (c : Nat) (k : Cmd) (r : List Cmd) (e : Written), canRetire s c .vx k r → k.idx = [] → commandWrites s c k = some e →
    (s.live c).badV = [] → (s.live c).badM = [] → padSound s c →
    ∃ t, exec (.commandRetire c .vx) s = .next t ∧ retiredHead s t c .vx k r e.fl ∧ sysKept s t c [0x030, 0x031, 0x032] ∧
      (∀ n i j, n < 32 → i < 16 → j < 64 → (t.live c).ve n i j = ((e.v n i j).map (BitVec.ofNat 32)).getD ((s.live c).ve n i j)) ∧
      (∀ n i j, 1 ≤ n → n < 8 → i < 16 → j < 64 →
        ((t.live c).mask n).getLsbD (64 * i + j) = (e.m n i j).getD (((s.live c).mask n).getLsbD (64 * i + j))) ∧
      (∀ off, off < 0x200000 → t.byte (.win c (s.live c).id off) = ((e.mem off).map (BitVec.ofNat 8)).getD (s.byte (.win c (s.live c).id off))) ∧
      (t.live c).vxFifo = (s.live c).vxFifo ++ e.fifo ∧ (t.live c).chimney = (s.live c).chimney ++ e.rows ∧
      (t.live c).bank = (match e.pair with | some (n, p) => (s.live c).bank.put n p | none => (s.live c).bank) ∧
      (t.live c).sr 0x031 = (match e.skipped with
        | some n => BitVec.ofNat 64 (min (((s.live c).sr 0x031).toNat + n) (2 ^ 32 - 1))
        | none => (s.live c).sr 0x031) ∧
      (t.live c).sr 0x032 = (match e.excluded with
        | some n => BitVec.ofNat 64 (min (((s.live c).sr 0x032).toNat + n) (2 ^ 32 - 1))
        | none => (s.live c).sr 0x032) ∧
      (t.live c).acc = (s.live c).acc ∧ (t.live c).planes = (s.live c).planes ∧ t.tier2 = s.tier2 ∧ t.host = s.host ∧ t.tier1 = s.tier1) ∧
  (∀ (s : State) (c : Nat) (k : Cmd) (r : List Cmd) (tk : Tok) (a : BitVec 5) (pair : BitVec 4) (n : Nat), canRetire s c .vx k r →
    k.instr = .vmtld tk a pair → k.mshape.getLsbD 6 = false → (List.range 515).find? (tableRefused (s.live c) a) = some n → (s.live c).badV = [] →
    ∃ t p, exec (.commandRetire c .vx) s = .next t ∧ (t.live c).vx = { k with stop := some p } :: r ∧ p.cause = 0x09 ∧ p.detail = n ∧
      (t.live c).pend = (s.live c).pend ++ [p] ∧ (t.live c).bank = (s.live c).bank ∧ (t.live c).v = (s.live c).v ∧ (t.live c).sys = (s.live c).sys ∧
      (t.live c).tokens = (s.live c).tokens) ∧
  ∀ (s : State) (c : Nat) (k : Cmd) (r : List Cmd) (e : VRes), canRetire s c .vx k r → k.idx = [] → e = s.vecRes c k → s.vecEcc c e = none → e.fault = none →
    (∀ w ∈ e.mem, ∃ off, off < 0x200000 ∧ w.1 = .win c (s.live c).id off) → padSound s c →
    ∃ t, exec (.commandRetire c .vx) s = .next t ∧ retiredHead s t c .vx k r e.fl ∧ sysKept s t c [0x030, 0x031, 0x032] ∧
      (∀ i, (t.live c).v.get 0 i = lastOf (e.v.map fun w => (w.1, BitVec.ofNat 32 w.2)) i ((s.live c).v.get 0 i)) ∧
      (∀ n, 1 ≤ n → (t.live c).mask n = (match e.m with | some (d, v) => if n = d then v else (s.live c).mask n | none => (s.live c).mask n)) ∧
      (∀ off, off < 0x200000 → t.byte (.win c (s.live c).id off) = lastOf e.mem (.win c (s.live c).id off) (s.byte (.win c (s.live c).id off))) ∧
      (t.live c).chimney = (s.live c).chimney ++ e.rows ∧
      (t.live c).bank = (match e.pair with | some (n, p) => (s.live c).bank.put n p | none => (s.live c).bank) ∧
      (t.live c).vxFifo = (match k.instr with | .vtog .. => (s.live c).vxFifo ++ [BitVec.ofNat 64 (e.note.headD 0)] | _ => (s.live c).vxFifo) ∧
      (∀ tk d a b mk ty rd gh, k.instr = .vupd tk d a b mk ty rd gh →
        (t.live c).sr 0x031 = BitVec.ofNat 64 (min (((s.live c).sr 0x031).toNat + e.note.headD 0) (2 ^ 32 - 1))) ∧
      ((match k.instr with | .vupd .. => False | _ => True) → (t.live c).sr 0x031 = (s.live c).sr 0x031) ∧
      (t.live c).acc = (s.live c).acc ∧ (t.live c).planes = (s.live c).planes ∧ t.tier2 = s.tier2 ∧ t.host = s.host ∧ t.tier1 = s.tier1

/-- MX_ROW_COMMIT commits the oldest admitted row of the head: MXGRAD adds the outer product of its operands to its G slot, each cell rounded once to FA40; MXRUN and
MXGO pass the plane rows of the slot that the row found, in ascending order, over one row of their accumulator tile; a row whose predicate is clear only counts;
while MX is gated it is woken instead (R302). COMMAND_RETIRE joins the flags of a command whose rows have all committed into FPSTICKY; PLOAD fills a slot with its
fetched values and zeros, PCLR clears it, PSTORE writes its rows to a tile of the own scratchpad, MXACL puts the identity of its semiring into a tile, MXACR writes a
tile or a quarter to vector registers or a tile to the own scratchpad and clears it where Z is set, MXSTAT delivers the word it has read, PDIR, MXNEST and an MXRES
that finds nothing stopped only retire, and an MXRES at the end of the repair lane lets the stopped head go on. No other cell, tile or register changes (R42, R77,
R201, R202, R205, R209 to R223, R302). -/
def Obligations.MatrixCommandsTakeEffect : Prop :=
  (∀ (s : State) (c : Nat) (k : Cmd) (slot : Nat) (r : MxRow),
    (s.core c).active = true → (s.live c).mx = [k] → isRowCmd k.instr = true → k.phase = .started → k.husk = false → k.stop = none →
    k.suspended = false → k.admitted = k.rows.length → k.committed < k.admitted → k.slots[k.committed]? = some slot → slot ≤ 8 →
    k.rows[k.committed]? = some r → (s.live c).badSlot = [] →
    ((s.core c).gated.contains 5 = true → exec (.mxRowCommit c) s =
      .next (if (s.core c).waking.contains 5 then s else s.setCore c { s.core c with waking := (s.core c).waking ++ [5] })) ∧
    ((s.core c).gated.contains 5 = false →
    ∃ t fl, exec (.mxRowCommit c) s = .next t ∧ (t.live c).mx = [{ k with committed := k.committed + 1, fl := k.fl ||| fl }] ∧
      (slot = 8 → (t.live c).acc = (s.live c).acc ∧ (t.live c).planes = (s.live c).planes ∧ fl = 0) ∧
      (∀ tk qa qb qt n kx ky, slot < 8 → k.instr = .mxgrad tk qa qb qt n kx ky → (t.live c).acc = (s.live c).acc ∧
        ∀ p row col, p < 8 → row < 256 → col < 64 → (t.live c).cell p row col =
          if p = slot ∧ row ≤ kx.toNat ∧ col ≤ ky.toNat then
            decodeF FA40 (rounded FA40 (((s.live c).cell slot row col).add 0
              ((r.a.getD row (.zero false)).mul (r.b.getD col (.zero false))).1) 0).1
          else (s.live c).cell p row col) ∧
      (∀ acc sr kc, slot < 8 → runForm k.instr = some (acc, sr, kc) → r.accRow < 64 → (t.live c).planes = (s.live c).planes ∧
        (((k.sa.map RStream.fmt) == some 0x0B && ((s.live c).entry slot).fmt == 0x0B) = false → ∀ b, fl.getLsbD b = true ↔ ∃ col, col < 64 ∧
          (passedFa (s.live c) slot sr.toNat col r.a ((s.live c).acc.get 0 (4096 * acc.toNat + 64 * r.accRow + col)).toNat kc).2.getLsbD b = true) ∧
        ∀ a e, a < 4 → e < 4096 → (t.live c).acc.get 0 (4096 * a + e) =
          if a = acc.toNat ∧ e / 64 = r.accRow then
            BitVec.ofNat 40 (passed (s.live c) slot sr.toNat (e % 64) ((k.sa.map RStream.fmt) == some 0x0B && ((s.live c).entry slot).fmt == 0x0B) r.a
              ((s.live c).acc.get 0 (4096 * a + e)).toNat kc)
          else (s.live c).acc.get 0 (4096 * a + e)) ∧
      (t.live c).v = (s.live c).v ∧ (t.live c).g = (s.live c).g ∧ (t.live c).sys = (s.live c).sys ∧ (t.live c).m = (s.live c).m ∧ (t.live c).q = (s.live c).q ∧
      (t.live c).tokens = (s.live c).tokens ∧ (∀ d, d ≠ c → t.core d = s.core d) ∧
      (r.accRow < 64 → ∀ p, plain p = true →
        (∀ acc sr kc y off, slot < 8 → runForm k.instr = some (acc, sr, kc) → 0x240000 + 0x8000 * acc.toNat ≤ off →
          off < 0x248000 + 0x8000 * acc.toNat → p ≠ .win c y off) → t.byte p = s.byte p))) ∧
  (∀ (s : State) (c : Nat) (k : Cmd) (r : List Cmd), canRetire s c .mx k r → isRowCmd k.instr = true →
    ∃ t, exec (.commandRetire c .mx) s = .next t ∧ retiredHead s t c .mx k r k.fl ∧ sysKept s t c [0x030] ∧ planesKept s t c 8 ∧ tilesKept s t c 4 ∧
      (t.live c).v = (s.live c).v ∧ ∀ p, plain p = true → t.byte p = s.byte p) ∧
  (∀ (s : State) (c : Nat) (k : Cmd) (r : List Cmd), canRetire s c .mx k r →
    (∀ tk qa g rows slot w, k.instr = .pload tk qa g rows slot → tileWidth (k.gv.headD 0) = some w → 0 < w → w ≤ 64 → rows.toNat < 256 →
      k.data.length = (rows.toNat + 1) * w →
      ∃ t, exec (.commandRetire c .mx) s = .next t ∧ retiredHead s t c .mx k r 0 ∧ planesKept s t c slot.toNat ∧ tilesKept s t c 4 ∧
        (∀ row col, row < 256 → col < 64 → (t.live c).cell slot.toNat row col =
          if row ≤ rows.toNat ∧ col < w then k.data.getD (row * w + col) (.zero false) else .zero false) ∧
        ((t.live c).entry slot.toNat).st = (if ((s.live c).entry slot.toNat).st = 2 then 1 else ((s.live c).entry slot.toNat).st) ∧
        ((t.live c).entry slot.toNat).tag = ((s.live c).entry slot.toNat).tag ∧ ((t.live c).entry slot.toNat).role = ((s.live c).entry slot.toNat).role ∧
        (∀ e ∈ (t.live c).badSlot, e / 4096 ≠ slot.toNat)) ∧
    (∀ tk slot e, k.instr = .pclr tk slot e →
      ∃ t, exec (.commandRetire c .mx) s = .next t ∧ retiredHead s t c .mx k r 0 ∧ planesKept s t c slot.toNat ∧ tilesKept s t c 4 ∧
        (∀ row col, row < 256 → col < 64 → (t.live c).cell slot.toNat row col = .zero false) ∧
        (t.live c).entry slot.toNat = { (s.live c).entry slot.toNat with
          st := if e = 1 then 0 else if ((s.live c).entry slot.toNat).st = 2 then 1 else ((s.live c).entry slot.toNat).st
          quad := false
          fmt := 0x11 } ∧
        (∀ e ∈ (t.live c).badSlot, e / 4096 ≠ slot.toNat)) ∧
    (∀ tk qb g rows slot rm b w eb row pos, k.instr = .pstore tk qb g rows slot rm → k.sb = some b → tileWidth (k.gv.headD 0) = some w → w ≤ 64 →
      padSound s c → (s.live c).badSlot = [] → ((s.live c).entry slot.toNat).st ≠ 2 → rowsOf b false [] (rows.toNat + 1) row →
      padTile c b row (rows.toNat + 1) w eb pos → apart (rows.toNat + 1) w eb pos →
      ∃ t, exec (.commandRetire c .mx) s = .next t ∧ retiredHead s t c .mx k r 0 ∧ planesKept s t c 8 ∧ tilesKept s t c 4 ∧
        tileWritten s t c (rows.toNat + 1) w eb pos fun i j => (convElem 0x11 b.fmt
          (if i < (if ((s.live c).entry slot.toNat).quad then 256 else 64) then (s.live c).cell slot.toNat i j else .zero false) rm.toNat).1) ∧
    (∀ tk acc sr i, k.instr = .mxacl tk acc sr i →
      ∃ t, exec (.commandRetire c .mx) s = .next t ∧ retiredHead s t c .mx k r 0 ∧ planesKept s t c 8 ∧ tilesKept s t c acc.toNat ∧
        ∀ e, e < 4096 → (t.live c).acc.get 0 (4096 * acc.toNat + e) = identity sr.toNat (i == 1)) ∧
    (∀ tk qb acc vd all quarter i z rm, k.instr = .mxacr tk qb acc 0 vd all quarter i z rm → (all = 1 → vd.toNat < 29) →
      ∃ t fl, exec (.commandRetire c .mx) s = .next t ∧ retiredHead s t c .mx k r (matrixFlags fl) ∧ planesKept s t c 8 ∧ tilesKept s t c acc.toNat ∧
        (∀ b, fl.getLsbD b = true ↔ ∃ row col, row < (if all = 1 then 64 else 16) ∧ col < 64 ∧
          (accToVec (s.live c) acc.toNat ((if all = 1 then 0 else 16 * quarter.toNat) + row) col rm.toNat (i == 1)).2.getLsbD b = true) ∧
        (∀ n row col, n < 32 → row < 16 → col < 64 → (t.live c).ve n row col =
          if vd.toNat ≤ n ∧ n < vd.toNat + (if all = 1 then 4 else 1) then
            BitVec.ofNat 32 (accToVec (s.live c) acc.toNat ((if all = 1 then 0 else 16 * quarter.toNat) + 16 * (n - vd.toNat) + row) col rm.toNat (i == 1)).1
          else (s.live c).ve n row col) ∧
        ∀ e, e < 4096 → (t.live c).acc.get 0 (4096 * acc.toNat + e) = if z = 1 then 0 else (s.live c).acc.get 0 (4096 * acc.toNat + e)) ∧
    (∀ tk qb acc vd all quarter i z rm b eb row pos, k.instr = .mxacr tk qb acc 1 vd all quarter i z rm → k.sb = some b → padSound s c →
      rowsOf b false [] 64 row → padTile c b row 64 64 eb pos → apart 64 64 eb pos →
      ∃ t fl, exec (.commandRetire c .mx) s = .next t ∧ retiredHead s t c .mx k r (matrixFlags fl) ∧ planesKept s t c 8 ∧ tilesKept s t c acc.toNat ∧
        (∀ b', fl.getLsbD b' = true ↔ ∃ r' col, r' < 64 ∧ col < 64 ∧
          (convElem (if i = 1 then 0x10 else 0x11) b.fmt (accNum (s.live c) acc.toNat r' col (i == 1)) rm.toNat).2.getLsbD b' = true) ∧
        (∀ r' col j y, r' < 64 → col < 64 → j < eb → t.byte (.win c y (pos r' col + j)) =
          BitVec.ofNat 8 ((convElem (if i = 1 then 0x10 else 0x11) b.fmt (accNum (s.live c) acc.toNat r' col (i == 1)) rm.toNat).1 / 256 ^ j)) ∧
        ∀ e, e < 4096 → (t.live c).acc.get 0 (4096 * acc.toNat + e) = if z = 1 then 0 else (s.live c).acc.get 0 (4096 * acc.toNat + e)) ∧
    (∀ tk sel v, k.instr = .mxstat tk sel → k.idx = [v] →
      ∃ t, exec (.commandRetire c .mx) s = .next t ∧ retiredHead s t c .mx k r 0 ∧ planesKept s t c 8 ∧ tilesKept s t c 4 ∧
        (t.live c).mxFifo = (s.live c).mxFifo ++ [BitVec.ofNat 64 v]) ∧
    ((match k.instr with | .pdir .. => True | .mxnest .. => True | .mxres .. => True | _ => False) →
      ∃ t, exec (.commandRetire c .mx) s = .next t ∧ retiredHead s t c .mx k r 0 ∧ planesKept s t c 8 ∧ tilesKept s t c 4 ∧
        (t.live c).v = (s.live c).v ∧ ∀ p, plain p = true → t.byte p = s.byte p)) ∧
  ∀ (s : State) (c : Nat) (m k : Cmd) (r : List Cmd) (tk : Tok), (s.core c).active = true → (s.live c).lane = [m] → m.instr = .mxres tk → m.phase = .started →
    m.husk = false → m.stop = none → m.suspended = false → m.pins = [] → m.objs = [] → s.canApply c .mx m = true →
    (s.live c).hasRoom (pushFifos .mx (tokOf m.instr).push) = true → (s.live c).mx = k :: r → k.dropping = false →
    (∃ p, k.stop = some p ∧ (p.cause = 0x07 ∨ p.cause = 0x08)) → k.phase = .started → k.husk = false → k.suspended = false →
    (s.live c).badSlot = [] → (r.all fun q => q.phase == .queued) = true →
    ∃ t k', exec (.commandRetire c .mx) s = .next t ∧ (t.live c).lane = [] ∧ (t.live c).mx = k' :: r ∧ k'.resumed = true ∧ k'.instr = k.instr ∧ k'.seq = k.seq ∧
      k'.committed = k.committed ∧ k.admitted ≤ k'.admitted ∧
      (k'.stop = none ↔ (isRowCmd k.instr = true → k'.rows.length ≤ k'.admitted)) ∧
      (t.live c).tokens = ((s.live c).pushTokens (pushFifos .mx (tokOf m.instr).push)).tokens ∧ (t.live c).acc = (s.live c).acc ∧ (t.live c).planes = (s.live c).planes

namespace Sys2Proof.Spec
open Sys2Proof.Machine

/-- Whether n words of 8 bytes from an offset of the own scratchpad can be loaded. -/
def padWords (s : State) (o n : Nat) : Bool := (List.range n).all fun k => padFree s (o + 8 * k) 8
/-- The 64-bit word i from an offset of the own scratchpad. -/
def padWord (s : State) (o i : Nat) : Nat := winNat s s.cur s.ctx.id (o + 8 * i) 8

/-- The members of a communicator: node, 0xFFF for this package, and core, from n entries in the own scratchpad (R270). -/
def membersAt (s : State) (l n : Nat) : List (Nat × Nat) :=
  (List.range n).map fun i =>
    let e := winNat s s.cur s.ctx.id (l + 4 * i) 4
    (if bits e 27 16 = Config.node then 0xFFF else bits e 27 16, bits e 10 0)
/-- Whether the fields of a descriptor at o and of its entries at l are in range and the reserved ones zero (R270). -/
def descriptorLegal (s : State) (o l : Nat) : Bool :=
  let w := padWord s o
  let n := bits (w 0) 10 0
  decide (bits (w 0) 63 28 = 0 ∧ bits (w 0) 19 19 = 0 ∧ bits (w 0) 15 14 = 0 ∧ bits (w 0) 11 11 = 0)
    && decide (w 1 % 8 = 0 ∧ w 2 = 0 ∧ w 3 = 0 ∧ w 4 = 0 ∧ w 5 = 0 ∧ w 6 = 0 ∧ w 7 = 0)
    && decide (1 ≤ n ∧ n ≤ 1536 ∧ 1 ≤ bits (w 0) 27 20 ∧ bits (w 0) 27 20 ≤ 32 ∧ bits (w 0) 18 16 ≠ 7)
    && (List.range n).all fun i =>
      let e := winNat s s.cur s.ctx.id (l + 4 * i) 4
      decide (bits e 31 28 = 0 ∧ bits e 15 11 = 0) && coreId (bits e 10 0)
/-- The slot memory that a communicator needs on a headland (R271): RSLOT chunks of the size that CHUNK names, if it has a member there. -/
def slotNeed (w0 : Nat) (ms : List (Nat × Nat)) (h : Nat) : Nat :=
  if ms.any (fun e => e.1 == 0xFFF && e.2 / 256 == h) then
    bits w0 27 20 * [4096, 1024, 2048, 8192, 16384, 32768, 65536].getD (bits w0 18 16) 0 else 0
/-- A communicator as its descriptor defines it. -/
def commFrom (w0 : Nat) (ms : List (Nat × Nat)) : Comm :=
  { rslot := bits w0 27 20, chunk := bits w0 18 16, pri := bits w0 13 12, members := ms }
/-- The slot memory that the present definition of a communicator holds on a headland (R271), none where there is none. -/
def slotsHeld (s : State) (c h : Nat) : Nat :=
  match s.comm s.ctx.id c with
  | none => 0
  | some m => if m.members.any (fun e => e.1 == 0xFFF && e.2 / 256 == h) then
      m.rslot * [4096, 1024, 2048, 8192, 16384, 32768].getD m.chunk 65536 else 0
/-- The code with which COMM refuses a descriptor at o with its entries at l, 0 where it refuses none, the lowest of those that apply (log 51): 1 a field out of
range; 2 a member of this package that is outside the scope named or the context's seats, or named twice; 3 too little slot memory, what an earlier definition of
c holds being free; 4 an unretired record on c; 6 a fabric link without a channel (R271). -/
def commRefusal (s : State) (sc : BitVec 5) (c o l : Nat) (ms : List (Nat × Nat)) : Nat :=
  let w0 := padWord s o 0
  if !descriptorLegal s o l then 1
  else if !(ms.all fun e => e.1 != 0xFFF || (s.inScope s.cur s.ctx sc.toNat e.2 && s.inEntry31 s.ctx.id e.2)) || !decide ms.Nodup then 2
  else if (List.range 8).any fun h => decide (0 < slotNeed w0 ms h ∧ 2 ^ 21 < (s.head h).slotUsed - slotsHeld s c h + slotNeed w0 ms h) then 3
  else if s.recs.any fun r => r.ctx == s.ctx.id && r.comm == c then 4
  else if !s.channelsOk s.ctx.id c (commFrom w0 ms) then 6
  else 0
/-- Slot memory in use on a headland once a definition has taken the place of an earlier one. -/
def slotsThen (s : State) (c w0 : Nat) (ms : List (Nat × Nat)) (h : Nat) : Nat :=
  if slotsHeld s c h = slotNeed w0 ms h then (s.head h).slotUsed else (s.head h).slotUsed - slotsHeld s c h + slotNeed w0 ms h
/-- The state t has communicator c defined anew by m, its slot memory taken and that of an earlier definition given back, the code in gd, and nothing else
changed. -/
def defined (s t : State) (tk : Tok) (d : BitVec 5) (c w0 : Nat) (ms : List (Nat × Nat)) : Prop :=
  t.ctx = (s.ctx.setG d 0).retired tk (s.ctx.pc + 1) ∧ t.comm s.ctx.id c = some (commFrom w0 ms) ∧
    (∀ k, k ≠ c → t.comm s.ctx.id k = s.comm s.ctx.id k) ∧
    (∀ h, h < 8 → t.head h = { s.head h with slotUsed := slotsThen s c w0 ms h }) ∧
    { t with cores := s.cores, contexts := s.contexts, heads := s.heads } = s

/-- The state t has communicator c gone and its slot memory given back, the code 0 in gd, and nothing else changed. -/
def undefined (s t : State) (tk : Tok) (d : BitVec 5) (c : Nat) (m : Comm) : Prop :=
  t.ctx = (s.ctx.setG d 0).retired tk (s.ctx.pc + 1) ∧ t.comm s.ctx.id c = none ∧
    (∀ k, k ≠ c → t.comm s.ctx.id k = s.comm s.ctx.id k) ∧
    (∀ h, h < 8 → t.head h = { s.head h with slotUsed := (s.head h).slotUsed - m.slotBytes h }) ∧
    { t with cores := s.cores, contexts := s.contexts, heads := s.heads } = s

/-- Whether a record of core c and a context on a communicator has not retired. -/
def outstanding (c ctx k : Nat) (r : Rec) : Bool := r.core == c && r.ctx == ctx && r.comm == k

end Sys2Proof.Spec

open Sys2Proof Sys2Proof.Machine Sys2Proof.Spec

/-- COMM reads its descriptor and members. A field out of range, members, slot memory, unretired records or channels that R271 refuses answer 1, 2, 3, 4 or 6, the
lowest that applies, and change nothing; else one of members of this package defines the communicator, in place of an earlier definition, takes its slot memory and
answers 0; with a member in another package it waits, and COMM_COMPLETE answers the code of the round trip, 0 defining the communicator. That the lowest code is
answered, and that a member that names the own node is one of this package, is the model's reading (log 51). COMM.DEL answers 5 where none is defined, 4 while a
record on it is unretired, and else removes it, gives its slot memory back and answers 0; with a member in another package it waits likewise for COMM_COMPLETE, whose
code 0 removes it and whose other codes are answered (R270, R271). -/
def Obligations.CommunicatorsAreDefinedAndDeleted : Prop :=
  (∀ (s : State) (tk : Tok) (sc a d : BitVec 5) (c : BitVec 4) (o l n : Nat) (ms : List (Nat × Nat)), s.goesClear s.cur tk = true →
    s.ctx.rg a = ownAddr o → o % 64 = 0 → padWords s o 8 = true → l < 0x200000 → padWord s o 1 = (ownAddr l).toNat →
    n = bits (padWord s o 0) 10 0 → (l % 8 = 0 → 1 ≤ n → n ≤ 1536 → padWords s l ((n + 1) / 2) = true) → ms = membersAt s l n →
    (∀ code, code = commRefusal s sc c.toNat o l ms → code ≠ 0 →
      goesOn (.comm tk sc a d c) s ((s.ctx.setG d (BitVec.ofNat 64 code)).retired tk (s.ctx.pc + 1)) ∧
      ∀ (w : Wait) (r : Nat), s.ctx.wait = some w → w.kind = .collective → s.mayGo s.cur = true → s.wordAt s.cur = some (.comm tk sc a d c) →
        goesOn (.commComplete s.cur r) s ((s.ctx.setG d (BitVec.ofNat 64 code)).retired tk (s.ctx.pc + 1))) ∧
    (commRefusal s sc c.toNat o l ms = 0 →
      ((∀ e ∈ ms, e.1 = 0xFFF) → ∃ t, exec (.comm tk sc a d c) s = .next t ∧ defined s t tk d c.toNat (padWord s o 0) ms) ∧
      ((∃ e ∈ ms, e.1 ≠ 0xFFF) → s.ctx.wait = none →
        goesOn (.comm tk sc a d c) s (waiting s.ctx tk (Wait.mk .collective c.toNat s.cycle))) ∧
      ∀ (w : Wait) (code : Nat), (∃ e ∈ ms, e.1 ≠ 0xFFF) → s.ctx.wait = some w → w.kind = .collective → s.mayGo s.cur = true →
        s.wordAt s.cur = some (.comm tk sc a d c) →
        (code = 0 → ∃ t, exec (.commComplete s.cur code) s = .next t ∧ defined s t tk d c.toNat (padWord s o 0) ms) ∧
        (code ≠ 0 → goesOn (.commComplete s.cur code) s ((s.ctx.setG d (BitVec.ofNat 64 code)).retired tk (s.ctx.pc + 1))))) ∧
  ∀ (s : State) (tk : Tok) (d : BitVec 5) (c : BitVec 4), s.goes s.cur tk = true →
    (s.comm s.ctx.id c.toNat = none → goesOn (.commDel tk d c) s ((s.ctx.setG d 5).retired tk (s.ctx.pc + 1))) ∧
    ∀ m, s.comm s.ctx.id c.toNat = some m →
      ((∃ r ∈ s.recs, r.ctx = s.ctx.id ∧ r.comm = c.toNat) → goesOn (.commDel tk d c) s ((s.ctx.setG d 4).retired tk (s.ctx.pc + 1))) ∧
      ((∀ r ∈ s.recs, ¬(r.ctx = s.ctx.id ∧ r.comm = c.toNat)) →
        ((∀ e ∈ m.members, e.1 = 0xFFF) → ∃ t, exec (.commDel tk d c) s = .next t ∧ undefined s t tk d c.toNat m) ∧
        ((∃ e ∈ m.members, e.1 ≠ 0xFFF) → s.ctx.wait = none →
          goesOn (.commDel tk d c) s (waiting s.ctx tk (Wait.mk .collective c.toNat s.cycle))) ∧
        ∀ (w : Wait) (code : Nat), (∃ e ∈ m.members, e.1 ≠ 0xFFF) → s.ctx.wait = some w → w.kind = .collective → s.mayGo s.cur = true →
          s.wordAt s.cur = some (.commDel tk d c) →
          (code = 0 → ∃ t, exec (.commComplete s.cur code) s = .next t ∧ undefined s t tk d c.toNat m) ∧
          (code ≠ 0 → goesOn (.commComplete s.cur code) s ((s.ctx.setG d (BitVec.ofNat 64 code)).retired tk (s.ctx.pc + 1))))

/-- CWAIT answers, in gd: the records this core has retired on the communicator in [31:0], those outstanding in [55:40], and an error since the last CWAIT in
[62:56] with bit 63, which it clears; for a communicator that is not defined, error 5. Without P it waits while a record is outstanding, and CWAIT_SATISFIED ends
the wait with that answer (R280). -/
def Obligations.CollectiveWaitsReportTheirRecords : Prop :=
  ∀ (s : State) (tk : Tok) (d : BitVec 5) (p : BitVec 1) (k : BitVec 4),
    (s.comm s.ctx.id k.toNat = none → s.goes s.cur tk = true →
      goesOn (.cwait tk d p k) s ((s.ctx.setG d (BitVec.ofNat 64 (2 ^ 63 + 5 * 2 ^ 56))).retired tk (s.ctx.pc + 1))) ∧
    ∀ m, s.comm s.ctx.id k.toNat = some m →
      (p = 0 → (s.recs.any (outstanding s.cur s.ctx.id k.toNat)) = true → mayTrap s tk = true → s.ctx.wait = none →
        goesOn (.cwait tk d p k) s (waiting s.ctx tk (Wait.mk .collective k.toNat s.cycle))) ∧
      ∀ i : Instr, s.goes s.cur tk = true → m.err.get 0 s.cur < 128 → s.recs.length < 65536 →
        (i = .cwait tk d p k ∧ (p = 1 ∨ (s.recs.any (outstanding s.cur s.ctx.id k.toNat)) = false) ∨
          (i = .cwaitSatisfied s.cur ∧ p = 0 ∧ (s.recs.any (outstanding s.cur s.ctx.id k.toNat)) = false ∧ s.mayGo s.cur = true ∧
            s.wordAt s.cur = some (.cwait tk d p k) ∧ ∃ w, s.ctx.wait = some w ∧ w.kind = .collective)) →
        ∃ (t : State) (v : W64), exec i s = .next t ∧ t.ctx = (s.ctx.setG d v).retired tk (s.ctx.pc + 1) ∧
          (v.extractLsb' 0 32).toNat = m.done.get 0 s.cur % 2 ^ 32 ∧ v.extractLsb' 32 8 = 0 ∧
          (v.extractLsb' 40 16).toNat = (s.recs.filter (outstanding s.cur s.ctx.id k.toNat)).length ∧
          (v.extractLsb' 56 7).toNat = m.err.get 0 s.cur ∧ v.getLsbD 63 = decide (m.err.get 0 s.cur ≠ 0) ∧
          t.comm s.ctx.id k.toNat = some { m with err := m.err.erase s.cur } ∧
          { t with cores := s.cores, contexts := s.contexts } = s

/-- COLL and REPART read 128 bytes at ga. A legal record is handed over in order, with MSHAPE as it stands, and the word completes, its pushes left to the record's
retirement; a REPART hands over with it what its three areas hold, none of it uncorrectable, and every byte outside them and the breakwater stays. A ninth record
waits; an address that is no multiple of 128 traps ALIGN, and a record that R278 does not allow traps ACCESS, with no effect (R269, R278, R283, R288). That a ninth
record waits before the alignment and the record are checked is the model's reading (log 52), and that the record keeps what the areas hold at the hand-over is its
choice (log 56). -/
def Obligations.RecordsAreHandedOver : Prop :=
  ∀ (s : State) (tk : Tok) (a : BitVec 5) (rep : Bool) (o : Nat) (i : Instr) (raw : BitVec 1024),
    i = (if rep then .repart tk a else .coll tk a) → s.ctx.rg a = ownAddr o → o < 0x200000 → raw = BitVec.ofNat 1024 (winNat s s.cur s.ctx.id o 128) →
    s.ctx.path = [] →
    (8 ≤ (s.recs.filter fun r => r.core == s.cur).length → mayTrap s tk = true → s.ctx.wait = none →
      goesOn i s (waiting s.ctx tk (Wait.mk .queueRoom 5 s.cycle))) ∧
    ((s.recs.filter fun r => r.core == s.cur).length < 8 → mayTrap s tk = true →
      (o % 128 ≠ 0 → exec i s = .next (s.trap s.cur { cause := 0x04, addr := 2 ^ 63 + o, opc := s.opcAt s.cur, clk := s.cycle } s.ctx.pc)) ∧
      (o % 128 = 0 → padWords s o 16 = true →
        ((if rep then s.repOk s.cur s.ctx raw else s.collOk s.cur s.ctx raw) = false →
          exec i s = .next (s.trap s.cur { cause := 0x03, addr := 2 ^ 63 + o, opc := s.opcAt s.cur, clk := s.cycle } s.ctx.pc)) ∧
        (s.goes s.cur { tk with push := 0 } = true →
          (rep = false → s.collOk s.cur s.ctx raw = true →
            exec i s = .next { (s.setCtx (s.ctx.retired { tk with push := 0 } (s.ctx.pc + 1))) with
              recs := s.recs ++ [{ rid := s.nextRid, core := s.cur, ctx := s.ctx.id, lesson := s.ctx.lesson, instr := .coll tk a,
                                   comm := raw.toNat % 16, raw := raw, mshape := s.ctx.sr 0x033, sup := s.ctx.sup }]
              nextRid := s.nextRid + 1 }) ∧
          (rep = true → s.repOk s.cur s.ctx raw = true → (s.core s.cur).badWords = [] → ∀ m, s.comm s.ctx.id (raw.toNat % 16) = some m →
            ∀ areas, s.repAreas s.cur s.ctx raw m.members.length = some areas →
            ∃ t r, exec i s = .next t ∧ t.recs = s.recs ++ [r] ∧ r.rid = s.nextRid ∧ r.core = s.cur ∧ r.ctx = s.ctx.id ∧ r.lesson = s.ctx.lesson ∧
              r.instr = .repart tk a ∧ r.comm = raw.toNat % 16 ∧ r.raw = raw ∧ r.mshape = s.ctx.sr 0x033 ∧ r.sup = s.ctx.sup ∧ r.started = false ∧
              r.saved = areas.map (fun e => (e.1, (List.range e.2).map fun j => s.byte (.win s.cur s.ctx.id (e.1 + j)))) ∧
              t.ctx = s.ctx.retired { tk with push := 0 } (s.ctx.pc + 1) ∧
              ∀ p : Place, plain p = true → (∀ e ∈ areas, ∀ j y, j < e.2 → p ≠ .win s.cur y (e.1 + j)) →
                (∀ j, j < repBwcap raw * repRsz raw → s.vaPlace s.ctx.id s.ctx.root (recW raw 4 + j) ≠ some p) → t.byte p = s.byte p))))

namespace Sys2Proof.Spec
open Sys2Proof.Machine

/-- Whether an offset of a core's scratchpad may be reached from outside the core for a context (R57, R149, R302, R330), in a word without an error, correctable ones
included, which an access would count (R64). -/
def reachable (s : State) (c ctx off : Nat) : Bool :=
  decide (off < 0x200000 ∧ c < 2048) && !s.heldOff c off && !s.overlapped ctx c off && ((s.core c).whereCtx ctx).isSome
    && !s.gated c (bankOf off) && !(s.core c).badWords.contains (off / 8) && !(s.core c).softWords.contains (off / 8)

/-- No chunk of this package is on its way to another one (R272, R277). -/
def noneAbroad (s : State) : Prop := s.fabricOut = [] ∧ s.links = []

/-- Fields of a COLL record (R273): the levels, and of level l the count, the peer coefficient and the byte strides. -/
def levelsOf (r : Rec) : Nat := bits (recW r.raw 0) 13 12 + 1
def countAt (r : Rec) (l : Nat) : Nat := bits (recW r.raw (4 + 2 * l)) 31 0
def peerStep (r : Rec) (l : Nat) : Int := signed 32 (bits (recW r.raw (4 + 2 * l)) 63 32)
def srcStep (r : Rec) (l : Nat) : Int := signed 32 (bits (recW r.raw (5 + 2 * l)) 31 0)
def dstStep (r : Rec) (l : Nat) : Int := signed 32 (bits (recW r.raw (5 + 2 * l)) 63 32)
/-- The iterations of the levels from l on, and the index of level l in iteration n, level 0 outermost (R274). -/
def iterationsFrom (r : Rec) (l : Nat) : Nat := ((List.range (levelsOf r)).filter (l ≤ ·)).foldl (fun p j => p * countAt r j) 1
def indexAt (r : Rec) (n l : Nat) : Nat := n / iterationsFrom r (l + 1) % countAt r l
def nestSum (r : Rec) (n : Nat) (f : Nat → Int) : Int := ((List.range (levelsOf r)).map fun l => f l * (indexAt r n l : Int)).sum
/-- Peer among N members, source and destination of iteration n (R274). -/
def peerAt (r : Rec) (rank members n : Nat) : Nat :=
  ((nestSum r n (peerStep r) + signed 32 (bits (recW r.raw 1) 63 32) + (if bits (recW r.raw 0) 14 14 = 1 then (rank : Int) else 0)) % (members : Int)).toNat
def srcAt (r : Rec) (n : Nat) : Int := recW r.raw 2 + nestSum r n (srcStep r)
def dstAt (r : Rec) (n : Nat) : Int := recW r.raw 3 + nestSum r n (dstStep r)
/-- A record not yet started that is the only one, of no REPART. -/
def fresh (s : State) (r : Rec) : Prop :=
  s.recs = [r] ∧ r.isRepart = false ∧ r.started = false ∧ r.walked = false ∧ r.paused = false ∧ r.iter = 0 ∧ r.sent = 0 ∧ r.gathered = []
/-- The first chunk of the network, of a COLL to this package. -/
def firstChunk (s : State) (k : Chunk) (l : List Chunk) : Prop :=
  s.chunks = k :: l ∧ (∀ q ∈ l, k.cid < q.cid) ∧ k.node = 0xFFF ∧ ∀ r ∈ s.recs, r.rid = k.rid → r.isRepart = false
/-- Every byte but n from an offset of a core's window on is as it was, and only chunks and cores differ. -/
def onlyThere (s t : State) (c off n : Nat) : Prop :=
  (∀ p : Place, (∀ i y, i < n → p ≠ .win c y (off + i)) → t.byte p = s.byte p) ∧ { t with chunks := s.chunks, cores := s.cores } = s
/-- A receive counter with v words more, or armed anew, of a member's core whose active context is the communicator's (R276): where it is armed and has what it expects
it loses that, disarms and increments its flag once; nothing else of the communicator, and no other flag of the core, changes. -/
def counted (s t : State) (ctx c core k : Nat) (m : Comm) (z : Counter) : Prop :=
  ∃ m', t.comm ctx c = some m' ∧ { m' with counters := m.counters } = m ∧
    (∀ n, n ≠ core * 4 + k → m'.counters.get {} n = m.counters.get {} n) ∧
    (∀ e f, z.armed = some (e, f) → e ≤ z.count → m'.counters.get {} (core * 4 + k) = { count := z.count - e, armed := none } ∧
      ∀ n, (t.live core).flag n = if n = f then (s.live core).flag n + 1 else (s.live core).flag n) ∧
    ((∀ e f, z.armed = some (e, f) → z.count < e) → m'.counters.get {} (core * 4 + k) = z ∧ ∀ n, (t.live core).flag n = (s.live core).flag n)

/-- A record of one transfer: a SET of LEN bytes between scratchpads, with no counter armed, to rank P0 (R273, R274). -/
def oneTransfer (r : Rec) (src dst len p0 : Nat) : Prop :=
  recW r.raw 0 / 2 ^ 12 % 4 = 0 ∧ bits (recW r.raw 4) 31 0 = 1 ∧ bits (recW r.raw 0) 6 4 = 0 ∧ bits (recW r.raw 0) 18 18 = 0 ∧
  bits (recW r.raw 0) 19 19 = 0 ∧ bits (recW r.raw 0) 14 14 = 0 ∧ bits (recW r.raw 1) 31 0 = len ∧ bits (recW r.raw 1) 63 32 = p0 ∧
  recW r.raw 2 = src ∧ recW r.raw 3 = dst ∧ (∀ k, k < 4 → bits (recW r.raw (12 + k)) 38 38 = 0)

end Sys2Proof.Spec

open Sys2Proof Sys2Proof.Machine Sys2Proof.Spec

/-- COLL_RECORD_START puts the bytes of the source of a SET into the network for the core of rank P0; of a nest of up to four levels one chunk for every iteration, in
ascending order with level 0 outermost, each to its peer by the floor modulo, while slots suffice. CHUNK_ARRIVAL puts the bytes at the destination and nowhere else;
one of ADD, MIN or MAX updates each word as RED.ST does, and one of MEAN merges each state, under the pair of the context that handed the record over (the model's
choice, log 22). Words that count go to the receiver's counter, which raises its flag once where it is armed and has them, and so does arming at a record's start. A
chunk for a page that is not valid is parked, with COLLPAGE pending on seat 0, and stays where the park store is full. COLL_RECORD_RETIRE counts the record as
retired, increments its flag once where LFE is set, and makes its pushes (R89, R242, R258, R259, R272 to R277, R279). -/
def Obligations.CollectiveTransfersArrive : Prop :=
  (∀ (s : State) (r : Rec) (m : Comm) (src dst len p0 core : Nat), s.recs = [r] → s.chunks = [] → noneAbroad s → r.isRepart = false → r.started = false → r.walked = false →
    r.paused = false → r.iter = 0 → r.sent = 0 → s.comm r.ctx r.comm = some m → oneTransfer r src dst len p0 → 0 < len → len ≤ 1024 → p0 < m.members.length →
    p0 < 2 ^ 31 → m.members[p0]? = some (0xFFF, core) → 1 ≤ m.rslot → m.chunk < 7 → m.pri < 4 → (m.rank r.core).isSome = true →
    (∀ i, i < len → reachable s r.core r.ctx (src + i) = true ∧ (s.leased r.ctx core (dst + i) = true)) → dst + len ≤ 0x200000 →
    ∃ t k, exec (.collRecordStart r.rid) s = .next t ∧ t.chunks = [k] ∧ k.rid = r.rid ∧ k.ctx = r.ctx ∧ k.comm = r.comm ∧ k.src = r.core ∧ k.node = 0xFFF ∧
      k.dst = core ∧ k.addr = dst ∧ k.virt = false ∧ k.op = 0 ∧ k.bytes = (List.range len).map (fun i => s.byte (.win r.core r.ctx (src + i))) ∧
      (t.recs.map fun q => (q.rid, q.started, q.walked, q.err)) = [(r.rid, true, true, r.err)] ∧ t.cores = s.cores) ∧
  (∀ (s : State) (r : Rec) (m : Comm) (rank n len : Nat), fresh s r → s.chunks = [] → noneAbroad s → s.comm r.ctx r.comm = some m →
    m.members.findIdx? (· == (0xFFF, r.core)) = some rank → (∀ e ∈ m.members, e.1 = 0xFFF) → m.rslot ≤ 32 → m.chunk < 7 → m.pri < 4 →
    bits (recW r.raw 0) 6 4 = 0 → bits (recW r.raw 0) 18 18 = 0 → bits (recW r.raw 0) 19 19 = 0 → (∀ k, k < 4 → bits (recW r.raw (12 + k)) 38 38 = 0) →
    len = bits (recW r.raw 1) 31 0 → 0 < len → len ≤ 1024 → (∀ l, l < levelsOf r → 1 ≤ countAt r l) → n = iterationsFrom r 0 → n ≤ m.rslot →
    (∀ i, i < n → 0 ≤ srcAt r i ∧ 0 ≤ dstAt r i ∧ dstAt r i + len ≤ 0x200000 ∧ ∀ j, j < len → reachable s r.core r.ctx ((srcAt r i).toNat + j) = true ∧
      ∀ e, m.members[peerAt r rank m.members.length i]? = some e → s.leased r.ctx e.2 ((dstAt r i).toNat + j) = true) →
    ∃ t, exec (.collRecordStart r.rid) s = .next t ∧ t.chunks.length = n ∧ t.cores = s.cores ∧
      (t.recs.map fun q => (q.rid, q.started, q.walked, q.err)) = [(r.rid, true, true, r.err)] ∧
      ∀ i, i < n → ∃ k e, t.chunks[i]? = some k ∧ m.members[peerAt r rank m.members.length i]? = some e ∧ k.node = 0xFFF ∧ k.dst = e.2 ∧ k.rid = r.rid ∧
        k.ctx = r.ctx ∧ k.comm = r.comm ∧ k.src = r.core ∧ k.virt = false ∧ k.op = 0 ∧ k.addr = (dstAt r i).toNat ∧
        k.bytes = (List.range len).map fun j => s.byte (.win r.core r.ctx ((srcAt r i).toNat + j))) ∧
  (∀ (s : State) (k : Chunk) (l : List Chunk), firstChunk s k l → k.virt = false → k.op = 0 → k.cnt = false →
    (∀ i, i < k.bytes.length → reachable s k.dst k.ctx (k.addr + i) = true) →
    ∃ t, exec (.chunkArrival k.cid) s = .next t ∧ t.chunks = l ∧
      (∀ i y, i < k.bytes.length → t.byte (.win k.dst y (k.addr + i)) = k.bytes.getD i 0) ∧ onlyThere s t k.dst k.addr k.bytes.length) ∧
  (∀ (s : State) (k : Chunk) (l : List Chunk) (n : Nat), firstChunk s k l → k.virt = false → k.op ∈ [1, 2, 3] → k.ty < 3 → k.rm < 4 → k.cnt = false →
    k.bytes.length = 4 * n → (∀ i, i < 4 * n → reachable s k.dst k.ctx (k.addr + i) = true) →
    ∃ t, exec (.chunkArrival k.cid) s = .next t ∧ t.chunks = l ∧ onlyThere s t k.dst k.addr (4 * n) ∧
      ∀ i j y, i < n → j < 4 → t.byte (.win k.dst y (k.addr + 4 * i + j)) = BitVec.ofNat 8 (reduced ([0x0C, 0x0F, 0x01].getD k.ty 0) (k.op - 1) k.rm
        (winNat s k.dst k.ctx (k.addr + 4 * i) 4) (leNat ((k.bytes.drop (4 * i)).take 4)) / 256 ^ j)) ∧
  (∀ (s : State) (k : Chunk) (l : List Chunk) (n : Nat) (r : Rec) (x : Ctx), firstChunk s k l → k.virt = false → k.op = 4 → k.cnt = false → k.len = 12 * n →
    k.bytes.length = 12 * n → 0 < n → s.recs.find? (·.rid = k.rid) = some r → s.seatCtx r.core r.ctx r.lesson = some x →
    (∀ i, i < 12 * n → reachable s k.dst k.ctx (k.addr + i) = true) →
    ∃ t, exec (.chunkArrival k.cid) s = .next t ∧ t.chunks = l ∧ onlyThere s t k.dst k.addr (12 * n) ∧
      ∀ i w j y, i < n → w < 3 → j < 4 → t.byte (.win k.dst y (k.addr + 4 * (w * n + i) + j)) =
        (let old (u : Nat) : Nat := winNat s k.dst k.ctx (k.addr + 4 * (u * n + i)) 4
         let new (u : Nat) : Nat := leNat ((k.bytes.drop (4 * (u * n + i))).take 4)
         let m := bankMerge (pairIn x (k.mshape.toNat % 16)) k.mshape ⟨old 0, old 1, old 2⟩ ⟨new 0, new 1, new 2⟩
         BitVec.ofNat 8 ((if w = 0 then m.n else if w = 1 then m.m else m.s) / 256 ^ j))) ∧
  (∀ (s : State) (k : Chunk) (l : List Chunk) (m : Comm) (z : Counter), firstChunk s k l → k.virt = false → k.op = 0 → k.cnt = true → k.tidx < 4 →
    (∀ i, i < k.bytes.length → reachable s k.dst k.ctx (k.addr + i) = true) → s.comm k.ctx k.comm = some m → z = m.counters.get {} (k.dst * 4 + k.tidx) →
    (s.core k.dst).active = true → (s.live k.dst).id = k.ctx →
    ∃ t, exec (.chunkArrival k.cid) s = .next t ∧ t.chunks = l ∧ (∀ i y, i < k.bytes.length → t.byte (.win k.dst y (k.addr + i)) = k.bytes.getD i 0) ∧
      counted s t k.ctx k.comm k.dst k.tidx m { z with count := z.count + k.bytes.length / 4 }) ∧
  (∀ (s : State) (r : Rec) (m : Comm) (j : Nat) (z : Counter), fresh s r → s.comm r.ctx r.comm = some m → j < 4 →
    (∀ k, k < 4 → bits (recW r.raw (12 + k)) 38 38 = if k = j then 1 else 0) → z = m.counters.get {} (r.core * 4 + j) →
    (s.core r.core).active = true → (s.live r.core).id = r.ctx →
    ∃ t, exec (.collRecordStart r.rid) s = .next t ∧
      counted s t r.ctx r.comm r.core j m { z with armed := some (bits (recW r.raw (12 + j)) 31 0, bits (recW r.raw (12 + j)) 37 32) }) ∧
  (∀ (s : State) (k : Chunk) (l : List Chunk) (r : Rec) (j : Nat), firstChunk s k l → k.virt = true → s.recs.find? (·.rid = k.rid) = some r →
    j < k.bytes.length → (∀ i, i < j → ∃ p, s.engPage k.ctx (s.recRoot r) (k.addr + i : Nat) true = .at p) →
    s.engPage k.ctx (s.recRoot r) (k.addr + j : Nat) true = .absent →
    (64 ≤ (s.head (hlOf k.dst)).park.length → exec (.chunkArrival k.cid) s = .next s) ∧
    ((s.heads.all fun h => h.2.park == []) = true →
      ∃ t, exec (.chunkArrival k.cid) s = .next t ∧ t.chunks = l ∧ (t.head (hlOf k.dst)).park = [k] ∧ (∀ p, plain p = true → t.byte p = s.byte p) ∧
        ∀ c se, s.lesson r.ctx r.lesson = some c → c.seats.find? (·.idx = 0) = some se → (s.core se.core).active = true → (s.live se.core).id = r.ctx →
          (s.live se.core).lesson = r.lesson → (s.live se.core).pend = [] →
          ∃ p, (t.live se.core).pend = [p] ∧ p.cause = 0x0E ∧ p.agent = 5 ∧ p.sub = r.comm ∧ p.addr = (k.addr + j) / 4096 * 4096)) ∧
  ∀ (s : State) (r : Rec) (m : Comm), s.recs = [r] → r.isRepart = false → r.started = true → r.walked = true → r.done = false → r.err = 0 →
    (s.chunks.all fun k => k.rid != r.rid) = true → (s.heads.all fun h => h.2.park.all fun k => k.rid != r.rid) = true → noneAbroad s → s.comm r.ctx r.comm = some m →
    (s.core r.core).active = true → (s.live r.core).id = r.ctx → (s.live r.core).lesson = r.lesson →
    (s.live r.core).hasRoom (pushFifos .cc (tokOf r.instr).push) = true →
    ∃ t, exec (.collRecordRetire r.rid) s = .next t ∧ t.recs = [] ∧
      t.comm r.ctx r.comm = some { m with done := m.done.put r.core ((m.done.get 0 r.core + 1) % 2 ^ 32) } ∧
      (t.live r.core).tokens = ((s.live r.core).pushTokens (pushFifos .cc (tokOf r.instr).push)).tokens ∧
      ∀ n, (t.live r.core).flag n =
        if bits (recW r.raw 0) 26 26 = 1 ∧ n = bits (recW r.raw 0) 25 20 then (s.live r.core).flag n + 1 else (s.live r.core).flag n

namespace Sys2Proof.Spec
open Sys2Proof.Machine

/-! ## REPART (R283 to R287) -/

/-- The word at an offset of row i of a member's POBJ, as its record keeps it. -/
def rowWord (r : Rec) (i off : Nat) : Nat := leNat (((r.saved.headD (0, [])).2.drop (i * repRsz r.raw + off)).take 4)
/-- The key of particle i of a member (R281, R285): axis a has its field's offset in byte 3 + a of word 1 and its box in word 6 + a. -/
def particleKey (r : Rec) (i : Nat) : Nat :=
  curveNumber (repK r.raw) (bits (recW r.raw 0) 4 4 == 1) ((List.range (if bits (recW r.raw 0) 5 5 = 1 then 3 else 2)).map fun a =>
    let b := rowWord r i (recW r.raw 1 / 2 ^ (24 + 8 * a) % 256)
    quantised (if bits (recW r.raw 0) 11 11 = 1 then .ofInt b else decodeF F32 b) (decodeF F32 (recW r.raw (6 + a) % 2 ^ 32))
      (decodeF F32 (recW r.raw (6 + a) / 2 ^ 32)) (repK r.raw))
/-- Its load (R285): in units of 2^−16, to nearest even, a NaN or negative one 0, saturated at 2^40 − 1. -/
def particleLoad (r : Rec) (i : Nat) : Nat :=
  if bits (recW r.raw 0) 12 12 = 1 then 2 ^ 16
  else match decodeF F32 (rowWord r i (recW r.raw 1 / 2 ^ 48 % 256)) with
    | .nan => 0
    | .inf neg => if neg then 0 else 2 ^ 40 - 1
    | v =>
      let y := v.toRat * 2 ^ 16
      let f : Int := y.floor
      let fr : Rat := y - (f : Rat)
      let n : Int := if fr < 1 / 2 ∨ (fr = 1 / 2 ∧ f % 2 = 0) then f else f + 1
      (clamped 0 (2 ^ 40 - 1) n).toNat
/-- Its bucket (R285). -/
def particleBucket (r : Rec) (i : Nat) : Nat :=
  particleKey r i / 2 ^ ((if bits (recW r.raw 0) 5 5 = 1 then 3 else 2) * repK r.raw - repLog2B r.raw)
/-- The load of a bucket over the members, each member's part saturated, and of all buckets together (R285). -/
def bucketLoad (l : List Rec) (b : Nat) : Nat :=
  (l.map fun r => min (((List.range (repNP r.raw)).filter fun i => particleBucket r i == b).map (particleLoad r)).sum (2 ^ 40 - 1)).sum
def cumLoad (l : List Rec) (b : Nat) : Nat := ((List.range (b + 1)).map (bucketLoad l)).sum
def totalLoad (l : List Rec) (buckets : Nat) : Nat := min ((List.range buckets).map (bucketLoad l)).sum (2 ^ 40 - 1)
/-- s_j, the first bucket of rank j (R285). -/
def firstBucket (l : List Rec) (buckets j : Nat) : Nat :=
  if j = 0 then 0
  else if l.length ≤ j then buckets
  else ((List.range buckets).find? fun b => decide (j * totalLoad l buckets ≤ cumLoad l b * l.length)).getD 0 + 1
/-- The particles by member and index, those due to rank j, and whether one comes before another (R285, R286). -/
def particlesOf (l : List Rec) : List (Nat × Nat) := l.zipIdx.flatMap fun e => (List.range (repNP e.1.raw)).map fun i => (e.2, i)
def memberOf (l : List Rec) (j : Nat) : Rec :=
  l.getD j { rid := 0, core := 0, ctx := 0, lesson := 0, instr := .eret ⟨0, 0⟩, comm := 0, raw := 0, mshape := 0 }
def dueTo (l : List Rec) (j : Nat) : List (Nat × Nat) :=
  let buckets := 2 ^ repLog2B (memberOf l 0).raw
  (particlesOf l).filter fun p => decide (firstBucket l buckets j ≤ particleBucket (memberOf l p.1) p.2 ∧
    particleBucket (memberOf l p.1) p.2 < firstBucket l buckets (j + 1))
def comesBefore (l : List Rec) (p q : Nat × Nat) : Bool :=
  let u := particleKey (memberOf l p.1) p.2
  let v := particleKey (memberOf l q.1) q.2
  decide (u < v ∨ (u = v ∧ (p.1 < q.1 ∨ (p.1 = q.1 ∧ p.2 < q.2))))
/-- How many of the particles due to rank j come before p, and whether p stays with its sender: rank j takes CAP and then BWCAP of them (R286). -/
def placeOf (l : List Rec) (j : Nat) (p : Nat × Nat) : Nat := ((dueTo l j).filter fun q => comesBefore l q p).length
def staysBack (l : List Rec) (p : Nat × Nat) : Bool := (List.range l.length).any fun j =>
  (dueTo l j).contains p && decide (repCap (memberOf l j).raw + repBwcap (memberOf l j).raw ≤ placeOf l j p)
/-- The bytes of particle i of a member. -/
def particleBytes (r : Rec) (i : Nat) : List Byte := ((r.saved.headD (0, [])).2.drop (i * repRsz r.raw)).take (repRsz r.raw)
/-- Bytes with a run at an offset. -/
def holds (bs : List Byte) (off : Nat) (v : List Byte) : Prop := (bs.drop off).take v.length = v

/-- What the operation gives the record q of rank j to write at its retirement: the rows that stay in POBJ, the rows of ROBJ, the status block and the rows of the
breakwater (R286, R287). -/
def planned (l : List Rec) (j : Nat) (q : Rec) : Prop :=
  let r := memberOf l j
  let rsz := repRsz r.raw
  let np := repNP r.raw
  let due := (dueTo l j).length
  let recv := min due (repCap r.raw)
  let spill := min (due - recv) (repBwcap r.raw)
  let stay := (List.range np).filter fun i => staysBack l (j, i)
  let buckets := 2 ^ repLog2B (memberOf l 0).raw
  let shift := (if bits (recW r.raw 0) 5 5 = 1 then 3 else 2) * repK r.raw - repLog2B r.raw
  ∃ pb rb sb : List Byte,
    q.out = [((r.saved.getD 0 (0, [])).1, pb, np * rsz), ((r.saved.getD 1 (0, [])).1, rb, recv * rsz),
             ((r.saved.getD 2 (0, [])).1, sb, 0x40 + 8 * (l.length - 1))] ∧
      (∀ n i, stay[n]? = some i → holds pb (n * rsz) (particleBytes r i)) ∧
      (∀ p, p ∈ dueTo l j → placeOf l j p < recv → holds rb (placeOf l j p * rsz) (particleBytes (memberOf l p.1) p.2)) ∧
      q.spill.length = spill ∧
      (∀ p, p ∈ dueTo l j → recv ≤ placeOf l j p → placeOf l j p < recv + spill →
        q.spill[placeOf l j p - recv]? = some (recW r.raw 4 + (placeOf l j p - recv) * rsz, particleBytes (memberOf l p.1) p.2)) ∧
      holds sb 0x00 (natLe 4 np) ∧ holds sb 0x04 (natLe 4 due) ∧ holds sb 0x08 (natLe 4 recv) ∧ holds sb 0x0C (natLe 4 spill) ∧
      holds sb 0x10 (natLe 4 stay.length) ∧ holds sb 0x14 (natLe 4 (due - recv - spill)) ∧ holds sb 0x18 (natLe 8 0) ∧
      holds sb 0x20 (natLe 8 (totalLoad l buckets)) ∧ holds sb 0x28 (natLe 24 0) ∧
      ∀ i, 1 ≤ i → i < l.length → holds sb (0x38 + 8 * i) (natLe 8 (firstBucket l buckets i * 2 ^ shift))
/-- What members whose records disagree get to write: their own POBJ and ROBJ, and a status block in which nothing has moved (R284). -/
def unmoved (l : List Rec) (r q : Rec) : Prop :=
  q.err = (if r.err = 0 then 0x07 else r.err) ∧ q.spill = r.spill ∧
    ∃ sb, q.out = [((r.saved.getD 0 (0, [])).1, (r.saved.getD 0 (0, [])).2, 0), ((r.saved.getD 1 (0, [])).1, (r.saved.getD 1 (0, [])).2, 0),
                   ((r.saved.getD 2 (0, [])).1, sb, 0x40 + 8 * (l.length - 1))] ∧
      holds sb 0x00 (natLe 4 (repNP r.raw)) ∧ holds sb 0x04 (natLe 12 0) ∧ holds sb 0x10 (natLe 4 (repNP r.raw)) ∧
      sb.drop 0x14 = List.replicate (0x2C + 8 * (l.length - 1)) 0
/-- Whether two records agree in CURVE, DIM3, K, CF, UNIT, LOG2B, RSZ and the box (R284). -/
def agrees (p q : Rec) : Prop :=
  bits (recW p.raw 0) 17 4 = bits (recW q.raw 0) 17 4 ∧ repRsz p.raw = repRsz q.raw ∧ ∀ i, i < 3 → recW p.raw (6 + i) = recW q.raw (6 + i)
/-- The started REPARTs of a communicator whose members are all of this package, in rank order, none computed yet, and no other such. -/
def operation (s : State) (m : Comm) (ctx c : Nat) (l : List Rec) : Prop :=
  c < 16 ∧ s.comm ctx c = some m ∧ m.members = l.map (fun r => (0xFFF, r.core)) ∧ m.members.Nodup ∧ (s.recs.map (·.rid)).Nodup ∧
    (∀ r ∈ l, r ∈ s.recs ∧ r.isRepart = true ∧ r.started = true ∧ r.walked = false ∧ r.ready = false ∧ r.touched = false ∧ r.ctx = ctx ∧ r.comm = c) ∧
    ∀ r ∈ s.recs, r.isRepart = true → r.started = true → r.walked = false → r.ready = false → r.ctx = ctx → r.comm = c → r ∈ l
/-- A computed REPART that has only its areas left to write: no row for the breakwater, no chunk of it on its way, and its areas in the scratchpad apart from each
other and free. -/
def atItsAreas (s : State) (r : Rec) (m : Comm) : Prop :=
  s.recs = [r] ∧ r.isRepart = true ∧ r.started = true ∧ r.walked = false ∧ r.ready = true ∧ r.done = false ∧ r.spill = [] ∧ s.chunks = [] ∧
    s.heads.all (fun h => h.2.park == []) = true ∧ noneAbroad s ∧ s.comm r.ctx r.comm = some m ∧ (s.core r.core).active = true ∧ (s.live r.core).id = r.ctx ∧
    (s.live r.core).lesson = r.lesson ∧ (s.live r.core).hasRoom (pushFifos .cc (tokOf r.instr).push) = true ∧ repNP r.raw * repRsz r.raw ≤ (r.saved.headD (0, [])).2.length ∧
    r.saved.Pairwise (fun a b => a.1 + a.2.length ≤ b.1 ∨ b.1 + b.2.length ≤ a.1) ∧
    ∀ e ∈ r.saved, ∀ i, i < e.2.length → reachable s r.core r.ctx (e.1 + i) = true

end Sys2Proof.Spec

open Sys2Proof Sys2Proof.Machine Sys2Proof.Spec

/-- REPART_RETIRE. Once the REPARTs of all members are there, the operation gives every one of them what it is to write: of the particles due to it, in the order of
their keys, the first in ROBJ, the next for the breakwater, and the rest back in the POBJ of their senders, with the status block and the split keys; where the
records disagree, nothing moves and CAUSE is 0x07. A member with rows for the breakwater sends them as the communicator's slots allow, and each that arrives is
kept by the record until the retirement; without any, it writes its areas, whose other bytes come back, and its breakwater, and is counted as retired, its flag
incremented once where LFE is set and its pushes made. Of one member with room for all, the rows of POBJ stand in ROBJ, each once (R89, R276, R277, R281, R284 to
R288). What the record keeps, and that its rows stand in memory at the retirement, is the model's choice (log 56). -/
def Obligations.RepartsMoveAndKeepTheirParticles : Prop :=
  (∀ (s : State) (m : Comm) (ctx c : Nat) (l : List Rec) (r : Rec), operation s m ctx c l → r ∈ l →
    ((∀ p ∈ l, ∀ q ∈ l, agrees p q) → (∀ p ∈ l, 1 ≤ repK p.raw ∧ repK p.raw ≤ 21 ∧ repLog2B p.raw ≤ 16 ∧
        repLog2B p.raw ≤ (if bits (recW p.raw 0) 5 5 = 1 then 3 else 2) * repK p.raw ∧ p.saved.length = 3 ∧
        repNP p.raw * repRsz p.raw ≤ (p.area 0).2.length ∧ repCap p.raw * repRsz p.raw ≤ (p.area 1).2.length) →
      ∃ t u, exec (.repartRetire r.rid) s = .next t ∧ exec (.repartRetire r.rid) u = .next t ∧ { u with recs := s.recs, freeCtr := s.freeCtr } = s ∧
        ∀ j p, l[j]? = some p → ∃ q ∈ u.recs, { q with ready := p.ready, out := p.out, spill := p.spill } = p ∧ q.ready = true ∧ planned l j q) ∧
    ((∃ p ∈ l, ∃ q ∈ l, ¬ agrees p q) →
      ∃ t u, exec (.repartRetire r.rid) s = .next t ∧ exec (.repartRetire r.rid) u = .next t ∧ { u with recs := s.recs, freeCtr := s.freeCtr } = s ∧
        ∀ p ∈ l, ∃ q ∈ u.recs, { q with ready := p.ready, out := p.out, err := p.err } = p ∧ q.ready = true ∧ unmoved l p q)) ∧
  (∀ (s : State) (r : Rec) (m : Comm) (w : Nat × List Byte) (ws : List (Nat × List Byte)), s.recs = [r] → r.isRepart = true → r.started = true → r.walked = false →
    r.ready = true → r.done = false → s.chunks = [] → noneAbroad s → s.comm r.ctx r.comm = some m → 1 ≤ m.rslot → r.spill = w :: ws → ws.length < m.rslot →
    ∃ t, exec (.repartRetire r.rid) s = .next t ∧ t.recs = [{ r with spill := [] }] ∧ t.cores = s.cores ∧ (∀ p, t.byte p = s.byte p) ∧
      (t.chunks.map fun k => (k.addr, k.bytes)) = w :: ws ∧
      ∀ k ∈ t.chunks, k.rid = r.rid ∧ k.ctx = r.ctx ∧ k.comm = r.comm ∧ k.node = 0xFFF ∧ k.src = r.core ∧ k.dst = r.core ∧ k.virt = true ∧ k.op = 0 ∧ k.cnt = false) ∧
  (∀ (s : State) (k : Chunk) (l : List Chunk) (r : Rec) (ps : List Place), s.chunks = k :: l → (∀ q ∈ l, k.cid < q.cid) → k.node = 0xFFF → k.virt = true → k.op = 0 →
    k.cnt = false → s.heads.all (fun h => h.2.park == []) = true → s.recs = [r] → r.rid = k.rid → r.isRepart = true → ps.length = k.bytes.length →
    (∀ i, i < k.bytes.length → ∃ p, ps[i]? = some p ∧ s.engPage k.ctx (s.recRoot r) (k.addr + i : Nat) true = .at p ∧ s.badUnit p = false) →
    ∃ t q, exec (.chunkArrival k.cid) s = .next t ∧ t.chunks = l ∧ t.recs = [q] ∧ q.bwNew = r.bwNew ++ ps.zip k.bytes ∧
      { q with bwNew := r.bwNew, veiled := r.veiled } = r ∧ ∀ p, p ∉ ps → t.byte p = s.byte p) ∧
  (∀ (s : State) (r : Rec) (m : Comm), atItsAreas s r m → r.out.map (·.1) = r.saved.map (·.1) →
    (∀ n o, r.out[n]? = some o → o.2.2 ≤ o.2.1.length ∧ o.2.2 ≤ (r.area n).2.length) → (∀ w ∈ r.bwOld ++ r.bwNew, ∃ a, w.1 = .tier2 a ∧ s.badUnit w.1 = false) →
    ∃ t, exec (.repartRetire r.rid) s = .next t ∧ t.recs = [] ∧
      (∀ n o i, r.out[n]? = some o → i < (r.area n).2.length → t.byte (.win r.core r.ctx (o.1 + i)) =
        if i < o.2.2 then o.2.1.getD i 0 else (r.area n).2.getD i 0) ∧
      (∀ p : Place, plain p = true → (∀ e ∈ r.saved, ∀ i y, i < e.2.length → p ≠ .win r.core y (e.1 + i)) → t.byte p = lastOf (r.bwOld ++ r.bwNew) p (s.byte p)) ∧
      t.comm r.ctx r.comm = some { m with
        done := m.done.put r.core ((m.done.get 0 r.core + 1) % 2 ^ 32)
        err := if r.err = 0 then m.err else m.err.put r.core r.err } ∧
      (t.live r.core).tokens = ((s.live r.core).pushTokens (pushFifos .cc (tokOf r.instr).push)).tokens ∧
      ∀ n, (t.live r.core).flag n =
        if bits (recW r.raw 0) 24 24 = 1 ∧ n = bits (recW r.raw 0) 23 18 then (s.live r.core).flag n + 1 else (s.live r.core).flag n) ∧
  ∀ (s : State) (r : Rec) (m : Comm) (po ro st np rsz : Nat) (pb rb sb : List Byte), s.recs = [r] → r.isRepart = true → r.started = true → r.walked = false →
    r.ready = false → r.done = false → r.paused = false → r.touched = false → r.bwOld = [] → r.bwNew = [] → r.err = 0 → s.chunks = [] → s.heads.all (fun h => h.2.park == []) = true →
    noneAbroad s → s.comm r.ctx r.comm = some m → m.members = [(0xFFF, r.core)] →
    r.saved = [(po, pb), (ro, rb), (st, sb)] → np = repNP r.raw → rsz = repRsz r.raw → np ≤ repCap r.raw → np * rsz ≤ pb.length → np * rsz ≤ rb.length →
    sb.length = 64 → repLog2B r.raw ≤ 16 → repLog2B r.raw ≤ repDim r.raw * repK r.raw →
    (∀ p q, (p, q) ∈ [((po, pb.length), (ro, rb.length)), ((po, pb.length), (st, 64)), ((ro, rb.length), (st, 64))] → p.1 + p.2 ≤ q.1 ∨ q.1 + q.2 ≤ p.1) →
    (∀ e ∈ [(po, pb.length), (ro, rb.length), (st, 64)], ∀ i, i < e.2 → reachable s r.core r.ctx (e.1 + i) = true) →
    (s.core r.core).active = true → (s.live r.core).id = r.ctx → (s.live r.core).lesson = r.lesson →
    (s.live r.core).hasRoom (pushFifos .cc (tokOf r.instr).push) = true →
    ∃ t, exec (.repartRetire r.rid) s = .next t ∧ t.recs = [] ∧
      t.comm r.ctx r.comm = some { m with done := m.done.put r.core ((m.done.get 0 r.core + 1) % 2 ^ 32) } ∧
      (∃ order : List Nat, order.Perm (List.range np) ∧
        ∀ k i, k < np → i < rsz → t.byte (.win r.core r.ctx (ro + k * rsz + i)) = pb.getD (order.getD k 0 * rsz + i) 0) ∧
      winNat t r.core r.ctx st 4 = np ∧ winNat t r.core r.ctx (st + 4) 4 = np ∧ winNat t r.core r.ctx (st + 8) 4 = np ∧
      winNat t r.core r.ctx (st + 12) 4 = 0 ∧ winNat t r.core r.ctx (st + 16) 4 = 0 ∧ winNat t r.core r.ctx (st + 20) 4 = 0 ∧
      (t.live r.core).tokens = ((s.live r.core).pushTokens (pushFifos .cc (tokOf r.instr).push)).tokens

namespace Sys2Proof.Spec
open Sys2Proof.Machine

/-- Window offset and size of the registers of a VXFER (R52, R295): n + 1 vector registers, or an accumulator tile. -/
def vxRegs (kind : BitVec 1) (r n : BitVec 5) : Nat × Nat :=
  if kind = 1 then (0x240000 + 0x8000 * r.toNat, 0x8000) else (0x200000 + 0x1000 * r.toNat, 0x1000 * (n.toNat + 1))
/-- The operation that a word hands to the chimney controller. -/
def handedOp (s : State) (i : Instr) (ga : W64) : ChimOp := { instr := i, ga := ga, ctx := s.ctx.id, lesson := s.ctx.lesson }
/-- The state in which the core has handed operations on and its word has retired without its pushes (R89). -/
def handedOn (s : State) (tk : Tok) (ops : List ChimOp) : State :=
  s.setCore s.cur { s.core s.cur with ops := ops, live := s.ctx.retired { tk with push := 0 } (s.ctx.pc + 1) }
/-- A core whose active context is that of an operation, with nothing in its queues and nothing held, gated or bad. -/
def idleCore (s : State) (c : Nat) (o : ChimOp) : Prop :=
  (s.core c).active = true ∧ (s.live c).id = o.ctx ∧ (s.live c).lesson = o.lesson ∧ (s.live c).ld = [] ∧ (s.live c).st = [] ∧ (s.live c).vx = [] ∧
  (s.live c).mx = [] ∧ (s.live c).lane = [] ∧ (s.live c).chimney = [] ∧ (s.core c).gated = [] ∧ (s.core c).waking = [] ∧ (s.core c).badWords = [] ∧
  (s.live c).badV = [] ∧ (s.live c).badA = [] ∧ (s.core c).ops = [o] ∧ c < 2048 ∧ (s.core c).sh0 = {} ∧ (s.core c).sh1 = {} ∧
  (s.live c).hasRoom (pushFifos .cc (tokOf o.instr).push) = true

end Sys2Proof.Spec

open Sys2Proof Sys2Proof.Machine Sys2Proof.Spec

/-- VXFER and PGREQ.OFF complete with an operation handed to the chimney controller; PGREQ.ON of a unit that is not gated retires at once, with one that is gated it
wakes it, and it retires a deferred PGREQ.OFF with itself; a ninth operation waits; a VXFER outside the scratchpad or, in user code, the lease traps ACCESS and one off
a multiple of 64 ALIGN, a PGREQ of a group outside the lease ACCESS in user code (R330). TIDE sets TIDEPRI. Nothing else changes (R295, R299 to R302). That TVAL of a
refused PGREQ is the unit's number and of a refused VXFER the whole of ga, and that a ninth operation waits before the ACCESS and ALIGN checks, are the model's choices
(log 92). -/
def Obligations.LayerWordsAreHandedOn : Prop :=
  ∀ (s : State) (tk : Tok) (a : BitVec 5) (dir kind : BitVec 1) (r n : BitVec 5) (unit : BitVec 4) (k : Core) (i : Instr), k = s.core s.cur →
    i = .vxfer tk a dir kind r n →
    (s.ctx.path = [] → 8 ≤ k.ops.length → mayTrap s tk = true → s.ctx.wait = none → ∀ j ∈ [i, .pgreqOff tk unit, .pgreqOn tk unit],
      goesOn j s (waiting s.ctx tk (Wait.mk .chimneyOps 0 s.cycle))) ∧
    (s.ctx.path = [] → k.ops.length < 8 → s.goes s.cur { tk with push := 0 } = true →
      ((∀ b, b < (vxRegs kind r n).2 → (s.ctx.rg a).toNat + b < 0x200000 ∧ (s.ctx.sup || s.leased s.ctx.id s.cur ((s.ctx.rg a).toNat + b)) = true) →
        ((s.ctx.rg a).toNat % 64 = 0 → exec i s = .next (handedOn s tk (k.ops ++ [handedOp s i (s.ctx.rg a)]))) ∧
        ((s.ctx.rg a).toNat % 64 ≠ 0 →
          exec i s = .next (s.trap s.cur { cause := 0x04, addr := (s.ctx.rg a).toNat, opc := s.opcAt s.cur, clk := s.cycle } s.ctx.pc))) ∧
      ((∃ b, b < (vxRegs kind r n).2 ∧ (0x200000 ≤ (s.ctx.rg a).toNat + b ∨ (s.ctx.sup || s.leased s.ctx.id s.cur ((s.ctx.rg a).toNat + b)) = false)) →
        exec i s = .next (s.trap s.cur { cause := 0x03, addr := (s.ctx.rg a).toNat, opc := s.opcAt s.cur, clk := s.cycle } s.ctx.pc)) ∧
      ((4 ≤ unit.toNat ∨ s.ctx.sup = true ∨ (k.leaseOf s.ctx.id).testBit unit.toNat = true) →
        exec (.pgreqOff tk unit) s = .next (handedOn s tk (k.ops ++ [handedOp s (.pgreqOff tk unit) 0])) ∧
        (unit.toNat ∈ k.gated → k.waking = [] → k.ops = [] →
          exec (.pgreqOn tk unit) s =
            .next ((handedOn s tk [handedOp s (.pgreqOn tk unit) 0]).setCore s.cur
              { (handedOn s tk [handedOp s (.pgreqOn tk unit) 0]).core s.cur with waking := [unit.toNat] })) ∧
        (k.gated = [] → k.active = true → s.goes s.cur tk = true →
          (k.ops = [] → goesOn (.pgreqOn tk unit) s (s.ctx.retired tk (s.ctx.pc + 1))) ∧
          ∀ off : Tok, k.ops = [handedOp s (.pgreqOff off unit) 0] → (∀ f, f < 20 → s.ctx.tokens.get 0 f < 14) →
            exec (.pgreqOn tk unit) s = .next (s.setCore s.cur { k with
              ops := []
              live := ((s.ctx.startPops tk.pop).pushTokens (pushFifos .cc off.push ++ pushFifos .cc tk.push)).retired ⟨0, 0⟩ (s.ctx.pc + 1) }))) ∧
      (unit.toNat < 4 → s.ctx.sup = false → (k.leaseOf s.ctx.id).testBit unit.toNat = false → ∀ j ∈ [Instr.pgreqOff tk unit, .pgreqOn tk unit],
        exec j s = .next (s.trap s.cur { cause := 0x03, addr := unit.toNat, opc := s.opcAt s.cur, clk := s.cycle } s.ctx.pc))) ∧
    (s.goes s.cur tk = true → ∀ v : BitVec 1,
      goesOn (.tide tk v) s ((s.ctx.setSr 0x036 (if v = 1 then 1 else 0)).retired tk (s.ctx.pc + 1)))

/-- VXFER_RETIRE copies the bytes between the scratchpad and the registers, counts in VCNT and makes the pushes (R295, R296). GATE_OFF gates a unit that nothing
names and retires its PGREQ.OFF, UNIT_WAKE_COMPLETE opens one and retires its PGREQ.ON (R301, R302). TIDE_HALF_BOUNDARY, once CYCLE has passed a multiple of 128, sets the
half, and once it has passed one of 256 puts TIDEPRI of each core into effect, and nothing else changes; wherever clk pass the half is that of CYCLE (R298, R299). -/
def Obligations.LayerOperationsTakeEffect : Prop :=
  (∀ (s : State) (c : Nat) (o : ChimOp) (tk : Tok) (a : BitVec 5) (dir kind : BitVec 1) (r n : BitVec 5) (src dst reg size : Nat),
    o.instr = .vxfer tk a dir kind r n → idleCore s c o → o.done = false → (reg, size) = vxRegs kind r n →
    (if kind = 1 then r.toNat < 4 else r.toNat + n.toNat < 32) → o.ga.toNat + size ≤ 0x200000 →
    (src, dst) = (if dir = 1 then (reg, o.ga.toNat) else (o.ga.toNat, reg)) →
    ∃ t, exec (.vxferRetire c) s = .next t ∧ (t.core c).ops = [] ∧
      (∀ i, i < size → (dir = 1 ∨ kind = 0 ∨ i % 8 < 5) → t.byte (.win c o.ctx (dst + i)) = s.byte (.win c o.ctx (src + i))) ∧
      (∀ p : Place, plain p = true → (∀ i y, i < size → p ≠ .win c y (dst + i)) → t.byte p = s.byte p) ∧
      (t.live c).sr 0x034 = (s.live c).sr 0x034 + 1 ∧ (∀ m, m ≠ 0x034 → (t.live c).sr m = (s.live c).sr m) ∧
      (t.live c).tokens = ((s.live c).pushTokens (pushFifos .cc tk.push)).tokens) ∧
  (∀ (s : State) (c u : Nat) (o : ChimOp) (tk : Tok) (unit : BitVec 4), idleCore s c o → o.done = false → unit.toNat = u → s.recs = [] →
    o.instr = .pgreqOff tk unit →
    exec (.gateOff c u) s = .next (s.setCore c { s.core c with ops := [], gated := [u], live := (s.live c).pushTokens (pushFifos .cc tk.push) })) ∧
  (∀ (s : State) (c u : Nat) (o : ChimOp) (tk : Tok) (unit : BitVec 4) (k : Core), k = s.core c → idleCore (s.setCore c { k with gated := [], waking := [] }) c o →
    k.gated = [u] → k.waking = [u] → o.done = false → unit.toNat = u → o.instr = .pgreqOn tk unit →
    exec (.unitWakeComplete c u) s =
      .next (s.setCore c { k with ops := [], gated := [], waking := [], live := k.live.pushTokens (pushFifos .cc tk.push) })) ∧
  ∀ s : State,
    (s.cycle / 128 = s.tideHalf → exec .tideHalfBoundary s = .next s) ∧
    (s.cycle / 128 ≠ s.tideHalf → exec .tideHalfBoundary s = .next { s with
      ebb := decide (s.cycle / 128 % 2 = 1)
      tideHalf := s.cycle / 128
      cores := if s.cycle / 256 = s.tideHalf / 2 then s.cores
        else s.cores.map fun e => (e.1, { e.2 with tideNow := e.2.active && (e.2.live.sr 0x036).getLsbD 0 }) }) ∧
    ∀ dt : Nat, (s.pass dt).cycle = s.cycle + dt ∧ (s.pass dt).tideHalf = (s.cycle + dt) / 128 ∧
      (s.ebb = decide (s.tideHalf % 2 = 1) → (s.pass dt).ebb = decide ((s.cycle + dt) / 128 % 2 = 1))

namespace Sys2Proof.Spec
open Sys2Proof.Machine

/-- The cause that is taken first of those pending (R141): PREEMPT before TIMER. -/
def urgent (x : Ctx) (p : Pend) : Prop :=
  x.pend.find? (fun q => q.cause == 0x12) = some p ∨
    (x.pend.find? (fun q => q.cause == 0x12) = none ∧ x.pend.find? (fun q => q.cause == 0x11) = some p)

/-- A pending stop: any cause but PREEMPT, TIMER and COLLPAGE (R141). -/
def isStopCause (cause : Nat) : Prop := cause ≠ 0x0E ∧ cause ≠ 0x11 ∧ cause ≠ 0x12
/-- Whether a stop is taken before another (R141): ECC first, then in the order of their clk, then in peer order. -/
def sooner (p q : Pend) : Prop :=
  (p.cause = 0x0B ∧ q.cause ≠ 0x0B) ∨ ((p.cause = 0x0B ↔ q.cause = 0x0B) ∧ (p.clk < q.clk ∨ (p.clk = q.clk ∧ p.agent < q.agent)))
/-- Whether the command whose stop a record is still stands stopped at the head of its queue, or in the repair lane (R138). -/
def stillAwaits (x : Ctx) (p : Pend) : Bool :=
  match p.queue with
  | none => false
  | some a => if p.lane then x.lane.any (fun k => k.stop.isSome && k.seq == p.seq) else match x.queue a with
    | k :: _ => k.stop.isSome && k.seq == p.seq
    | [] => false
/-- TREC0 of a pending cause (R140). -/
def stopRecord (p : Pend) (stopped : Bool) : W64 :=
  BitVec.ofNat 64 (p.cause % 256 * 2 ^ 56 + p.agent % 8 * 2 ^ 53 + stopped.toNat * 2 ^ 52 + p.opc % 256 * 2 ^ 40 + p.sub % 256 * 2 ^ 32 + p.gen % 2 ^ 32)

/-- A control core that waits, with WDOG set and no wait log kept (R45). -/
def waitsAt (s : State) (c : Nat) (w : Wait) : Prop :=
  s.mayGo c = true ∧ (s.live c).wait = some w ∧ ((s.live c).sr 0x042).toNat ≠ 0 ∧ (s.head (hlOf c)).waitThreshold = 0 ∧
    ((s.live c).inh && (s.live c).sup) = false
/-- WAITSTUCK on a wait of a control core (R45, R137, R140): where the wait can no longer be supplied and has lasted more than WDOG clk, the precise trap, with the
kind, the object and the clk waited in its record, its own index in TPC and its pops undone; else nothing. -/
def trapsIf (s : State) (c : Nat) (w : Wait) (stuck : Prop) (kind obj : Nat) : Prop :=
  (¬ (stuck ∧ ((s.live c).sr 0x042).toNat < s.cycle - w.since) → exec (.waitstuck c .cc) s = .next s) ∧
  (stuck → ((s.live c).sr 0x042).toNat < s.cycle - w.since →
    ∃ t, exec (.waitstuck c .cc) s = .next t ∧ (t.live c).sr 0x002 = 0x0D ∧ (t.live c).sr 0x003 = (s.live c).pc ∧
      (t.live c).sr 0x004 = BitVec.ofNat 64 obj ∧ (t.live c).sr 0x00A = BitVec.ofNat 64 obj ∧ ((t.live c).sr 0x008).extractLsb' 56 8 = 0x0D ∧
      ((t.live c).sr 0x008).extractLsb' 32 8 = BitVec.ofNat 8 kind ∧ (t.live c).sr 0x00B = BitVec.ofNat 64 (s.cycle - w.since) ∧ (t.live c).inh = true ∧
      (t.live c).pc = (if toProgram (s.live c) then (s.live c).sr 0x001 else BitVec.ofNat 64 Config.supervisorEntry) ∧
      (t.live c).tokens = (givenUp (s.live c)).tokens ∧ (t.live c).g = (s.live c).g)
/-- A FIFO that is empty and whose producer has nothing left with which to push it: an engine with no command queued or in flight, or a control core that has exited,
halted or waits, with nothing that it has handed over in flight (R45). -/
def lost (s : State) (c n : Nat) : Bool :=
  (s.live c).tokens.get 0 n == 0 &&
    (if agentOf (n / 4) = .cc then s.ccIdle c && !s.handedInFlight c else ((s.live c).cmdsOf (agentOf (n / 4))).isEmpty)
/-- Whether a command is the ST entry of a QMARK, which pops nothing (R89, R169). -/
def stMark (a : Agent) (k : Cmd) : Bool := a == .st && (match k.instr with | .qmark .. => true | _ => false)
/-- Whether an engine's head waits for a token of the control core. -/
def awaitsCC (x : Ctx) (a : Agent) : Prop :=
  ∃ k r f, x.queue a = k :: r ∧ stMark a k = false ∧ k.phase = .queued ∧ k.husk = false ∧ k.stop = none ∧ k.popped = false ∧
    (popFifos a (tokOf k.instr).pop).find? (fun n => x.tokens.get 0 n == 0) = some f ∧ f < 4
/-- Every agent of every seat of a lesson is idle with an empty queue, or waits (R45). -/
def classQuiet (s : State) (l : Lesson) (x : Ctx) : Prop := ∀ se ∈ l.seats, s.seatQuiet se.core x.id x.lesson = true
/-- The engine's head stopped by WAITSTUCK with no pop made (R138, R150): the rest of its queue, the tokens and the pc as they were. -/
def headStuck (s : State) (c : Nat) (a : Agent) (k : Cmd) (r : List Cmd) (kind obj : Nat) : Prop :=
  ∃ t p, exec (.waitstuck c a) s = .next t ∧ (t.live c).queue a = { k with stop := some p } :: r ∧ p.cause = 0x0D ∧ p.sub = kind ∧ p.addr = obj ∧
    p.agent = agentNum a ∧ p.seq = k.seq ∧ p.detail = s.cycle - k.since ∧ (t.live c).pend = (s.live c).pend ++ [p] ∧
    (t.live c).tokens = (s.live c).tokens ∧ (t.live c).pc = (s.live c).pc ∧ ∀ b, b ≠ a → (t.live c).queue b = (s.live c).queue b

/-- The completion record with which a lesson ends (R25): number, outcome and reason, then TIME. -/
def completion (num outcome reason time : Nat) : W64 × W64 :=
  (BitVec.ofNat 64 (reason * 2 ^ 40 + outcome * 2 ^ 32 + num), BitVec.ofNat 64 time)

/-- A lesson ends in a state: it is retired and holds no seat, and where its context has a page with room its completion record is the last there (R25). -/
def ended (s t : State) (l : Lesson) (outcome reason : Nat) : Prop :=
  (∃ m, t.lesson l.ctx l.num = some m ∧ m.st = .retired ∧ m.seats = []) ∧
    ∀ p, s.pageOf l.ctx = some p → (s.page p).comp.length < 256 → l.num < 2 ^ 32 →
      (t.page p).comp = (s.page p).comp ++ [completion l.num outcome reason (s.time6 / 6)]

end Sys2Proof.Spec

open Sys2Proof Sys2Proof.Machine Sys2Proof.Spec

/-- TRAP_ENTRY at a boundary with INH clear takes PREEMPT before TIMER: both go to the supervisor, with the store named in TVAL and the next index in TPC, and the
cause is pending no more. With neither pending it takes the first engine stop, an ECC first and the others by clk and in peer order, with the record of the stop in
TREC, STOP clear where the command has left it; with no stop pending, a COLLPAGE. With nothing pending, the word at the pc that cannot be fetched faults FETCH;
PENDING_FETCH_RELEASE ends the wait of a fetch whose word is pending no more, with nothing else changed, and faults FETCH where it has become non-executable (R101,
R134 to R136, R138, R140, R141, R146). -/
def Obligations.BoundariesTakePendingCauses : Prop :=
  (∀ (s : State) (c : Nat) (w : Wait), s.mayGo c = true → (s.live c).wait = some w → w.kind = .pendingFetch → (s.head (hlOf c)).waitThreshold = 0 →
    (∀ v, s.fetch c = .word v → exec (.pendingFetchRelease c) s =
      .next (s.setLive c { s.live c with wait := none, ccPop := 0, invs := [], latch := none, waitEntry := none })) ∧
    (s.fetch c = .bad → ((s.live c).inh && (s.live c).sup) = false → ∃ t, exec (.pendingFetchRelease c) s = .next t ∧
      (t.live c).sr 0x002 = 0x01 ∧ (t.live c).sr 0x003 = (s.live c).pc ∧ (t.live c).sr 0x004 = BitVec.ofNat 64 (s.live c).pc.toNat ∧ (t.live c).inh = true)) ∧
  (∀ (s : State) (c n z cause : Nat) (p : Pend), s.atBoundary c = true → (s.live c).inh = false → p = { cause := cause, addr := n, clk := z } →
    cause ∈ [0x11, 0x12] → urgent (s.live c) p →
    ∃ t, exec (.trapEntry c) s = .next t ∧
      entered { s.live c with pend := (s.live c).pend.erase p } (t.live c) cause n (s.live c).pc (preciseRecord cause 0) false) ∧
  (∀ (s : State) (c : Nat) (p : Pend), s.atBoundary c = true → (s.live c).inh = false → (∀ q ∈ (s.live c).pend, q.cause ≠ 0x11 ∧ q.cause ≠ 0x12) →
    p ∈ (s.live c).pend → 0x02 ≤ p.cause → p.cause ≤ 0x0D → (∀ q ∈ (s.live c).pend, q ≠ p → isStopCause q.cause → sooner p q) →
    ∃ t, exec (.trapEntry c) s = .next t ∧
      enteredWith { s.live c with pend := (s.live c).pend.erase p } (t.live c) p.cause p.addr (s.live c).pc (stopRecord p (stillAwaits (s.live c) p)) p.seq p.detail
        (toProgram (s.live c) && decide (p.cause ≠ 0x02 ∧ p.cause ≠ 0x0B))) ∧
  (∀ (s : State) (c : Nat) (p : Pend) (l : List Pend), s.atBoundary c = true → (s.live c).inh = false → (s.live c).pend = p :: l →
    (∀ q ∈ p :: l, q.cause = 0x0E) →
    ∃ t, exec (.trapEntry c) s = .next t ∧ (t.live c).collHandler = true ∧
      enteredWith { s.live c with pend := l } (t.live c) 0x0E p.addr (s.live c).pc (stopRecord p (stillAwaits (s.live c) p)) p.seq p.detail false) ∧
  ∀ (s : State) (c : Nat), s.atBoundary c = true → (s.live c).pend = [] → (s.live c).sup = false → (s.live c).parked = false →
    (32768 ≤ (s.live c).pc.toNat ∨ ((s.live c).latch = none ∧ ((s.live c).word (s.live c).pc.toNat).st = .nonexec)) →
    ∃ t, exec (.trapEntry c) s = .next t ∧
      entered (s.live c) (t.live c) 0x01 (s.live c).pc.toNat (s.live c).pc (preciseRecord 0x01 0) (toProgram (s.live c))

/-- WAITSTUCK: a control core that has waited longer than WDOG, not 0, for what can no longer be supplied traps with cause 0x0D, its own index in TPC and the object
in TVAL: a token whose producer has nothing left to do; a flag or a ticket that no outstanding command or record names, in a scope that admits no other lesson, with
every agent of the class idle or waiting; a word of a result FIFO that no VTOG or MXSTAT is to give; a TLB entry whose pins no engine can release; a pending word
that no LDO is to load. Within WDOG, where something can still supply it, and in every other wait, nothing happens. A queue head that waits so for a token, or for a
result-FIFO entry or the chimney that only a waiting control core could free, is stopped, with no pop made; the ST entry of a QMARK, which pops nothing, never is
(R45, R89, R49, R101, R137, R140, R150, R198, R241, R292, R293). That the clk of a wait count from its beginning, at a queue head from the clk in which the command
became head (log 46), those in which the context is not active too (log 76), and that the pops of a given-up wait are undone (log 29), are the model's choices. -/
def Obligations.WaitsThatCannotEndTrap : Prop :=
  (∀ (s : State) (c : Nat) (w : Wait), waitsAt s c w →
    (∀ v i, w.kind = .token → s.fetch c = .word v → decode v = some i → (s.live c).ccPop = 0 →
      (∀ f, (popFifos .cc (tokOf i).pop).find? (lost s c) = some f → trapsIf s c w True 1 f) ∧
      ((popFifos .cc (tokOf i).pop).find? (lost s c) = none → exec (.waitstuck c .cc) s = .next s)) ∧
    (∀ v tk sc b flag l, w.kind = .flag → s.fetch c = .word v → decode v = some (.waitf tk sc b flag) → s.lesson (s.live c).id (s.live c).lesson = some l →
      exec (.flagWaitSatisfied c) s = .next s → trapsIf s c w (classQuiet s l (s.live c) ∧ s.admitsOther c (s.live c) sc.toNat = false ∧
        (∀ e ∈ s.everyCtx, e.2.id = (s.live c).id → ∀ k ∈ e.2.ld ++ e.2.st, ¬ (flagOf k.instr = some (w.obj % 0x1000 / 4) ∧ k.flagCore e.1 = c)) ∧
        ∀ r ∈ s.recs, r.ctx = (s.live c).id → r.namesFlag c (w.obj % 0x1000 / 4) = false) 2 w.obj) ∧
    (∀ v tk sc a b l, w.kind = .ticket → s.fetch c = .word v → decode v = some (.tktWait tk sc a b) → s.lesson (s.live c).id (s.live c).lesson = some l →
      exec (.ticketWaitSatisfied c) s = .next s → trapsIf s c w (classQuiet s l (s.live c) ∧ s.admitsOther c (s.live c) sc.toNat = false ∧
        s.ticketCovered (s.live c).id c w.obj = false) 3 w.obj) ∧
    (w.kind = .resultFifo → w.obj = 0 → trapsIf s c w ((s.live c).vxFifo = [] ∧
      ∀ k ∈ (s.live c).vx, k.husk = false → (match k.instr with | .vtog .. => False | _ => True)) 4 0) ∧
    (w.kind = .resultFifo → w.obj = 1 → trapsIf s c w ((s.live c).mxFifo = [] ∧
      ∀ k ∈ (s.live c).mx ++ (s.live c).lane, k.husk = false → (match k.instr with | .mxstat .. => False | _ => True)) 4 1) ∧
    (w.kind = .tlbPin → exec (.tlbPinResume c) s = .next s → trapsIf s c w (∀ a, a ≠ .cc →
      (∀ k ∈ (s.live c).cmdsOf a, k.pins = []) ∨ awaitsCC (s.live c) a) 5 w.obj) ∧
    (∀ i, w.kind = .pendingFetch → s.fetch c = .pending i → trapsIf s c w
      (∀ k ∈ (s.live c).ld, (match k.instr with | .ldo .. => False | _ => True)) 6 w.obj) ∧
    (w.kind ∉ [.token, .flag, .ticket, .resultFifo, .tlbPin, .pendingFetch] → exec (.waitstuck c .cc) s = .next s)) ∧
  ∀ (s : State) (c : Nat) (a : Agent) (k : Cmd) (r : List Cmd), a ≠ .cc → (s.core c).active = true → (s.live c).halted = false → (s.live c).queue a = k :: r →
    (a = .mx → (s.live c).lane = []) → k.phase = .queued → k.husk = false → k.stop = none → k.popped = false → ((s.live c).sr 0x042).toNat ≠ 0 →
    (s.cycle - k.since ≤ ((s.live c).sr 0x042).toNat → exec (.waitstuck c a) s = .next s) ∧ (stMark a k = true → exec (.waitstuck c a) s = .next s) ∧
    (((s.live c).sr 0x042).toNat < s.cycle - k.since → stMark a k = false →
      (∀ f, (popFifos a (tokOf k.instr).pop).find? (lost s c) = some f → headStuck s c a k r 1 f) ∧
      ((s.live c).hasTokens (popFifos a (tokOf k.instr).pop) = true → (s.live c).resource k = false → s.ccIdle c = true →
        (match k.instr with
          | .vtog .. => headStuck s c a k r 4 0
          | .mxstat .. => headStuck s c a k r 4 1
          | .chpush .. => (∀ q ∈ (s.live c).st, q.husk = false → (match q.instr with | .chpop .. => False | _ => True)) → headStuck s c a k r 7 0x8000000000263000
          | .chpop .. => (∀ q ∈ (s.live c).vx, q.husk = false → (match q.instr with | .chpush .. => False | _ => True)) → headStuck s c a k r 7 0x8000000000263000
          | _ => True)))

/-- A bound context page: bytes written into its launch window stand there, and a write that covers the last word pushes the 128 bytes as a record, or sets OVF where
64 wait; OVF_CLEAR clears it; LESSON_RECORD_CHECK, where the headland of the registrar is up, takes the oldest record, numbers it as a queued lesson where it meets
no reason of R24, and rejects it with reason 1 where bit 16 of its first word is set; COMPLETION_POP takes the oldest completion. A read gives the free entries and
OVF, the two words of the oldest completion, zero where there is none, and IEN; the launch window and every offset of an unbound page read zero (R4, R24, R25, R306
to R308). -/
def Obligations.ContextPagesServeTheHost : Prop :=
  (∀ (s : State) (n off : Nat), (s.page n).bound = none → s.pageRead n off = 0) ∧
  ∀ (s : State) (n ctx : Nat) (p : Page), s.page n = p → n < 256 → p.bound = some ctx →
    ((∀ off, off < 0x80 → s.pageRead n off = 0) ∧ s.pageRead n 0x80 = BitVec.ofNat 64 (2 ^ 8 * p.ovf.toNat + (64 - p.launch.length)) ∧
      s.pageRead n 0x180 = BitVec.ofNat 64 p.ien.toNat ∧ (p.comp = [] → s.pageRead n 0x100 = 0 ∧ s.pageRead n 0x108 = 0) ∧
      ∀ a l, p.comp = a :: l → s.pageRead n 0x100 = a.1 ∧ s.pageRead n 0x108 = a.2) ∧
    (∀ (off : Nat) (bs : List Byte), bs ≠ [] → off + bs.length ≤ 0x80 →
      ∃ t, exec (.launchWindowWrite n off bs) s = .next t ∧
        (∀ i, i < 0x80 → SMap.get 0 (t.page n).window i = if off ≤ i ∧ i < off + bs.length then bs.getD (i - off) 0 else SMap.get 0 p.window i) ∧
        (if off ≤ 0x78 ∧ off + bs.length = 0x80 ∧ p.launch.length < 64 then
            ∃ v : BitVec 1024, (t.page n).launch = p.launch ++ [v] ∧ ∀ i, i < 0x80 → v.extractLsb' (8 * i) 8 = SMap.get 0 (t.page n).window i
          else (t.page n).launch = p.launch) ∧
        (t.page n).ovf = (p.ovf || decide (off ≤ 0x78 ∧ off + bs.length = 0x80 ∧ 64 ≤ p.launch.length)) ∧
        (∀ m, m ≠ n → t.page m = s.page m) ∧ { t with pages := s.pages } = s) ∧
    exec (.ovfClear n) s = .next (if p.ovf then s.setPage n { p with ovf := false } else s) ∧
    (∀ r l, p.launch = r :: l → (s.head (if s.standby then 4 else 0)).down = false → (s.recordFaults ctx r).all (fun f => !f.2) = true →
      ∃ m, exec (.lessonRecordCheck n) s = .next { ((s.setPage n { p with launch := l }).setContext ctx
          { s.context ctx with nextNum := ((s.context ctx).nextNum + 1) % 2 ^ 32 }) with lessons := s.lessons ++ [m] } ∧
        m.ctx = ctx ∧ m.num = (s.context ctx).nextNum ∧ m.rcd = r ∧ m.st = .queued ∧ m.seats = []) ∧
    (∀ r l, p.launch = r :: l → (s.head (if s.standby then 4 else 0)).down = false → r.getLsbD 16 = true → s.pageOf ctx = some n → p.comp.length < 256 → p.ien = false →
      exec (.lessonRecordCheck n) s =
        .next (s.setPage n { p with launch := l, comp := p.comp ++ [completion 0xFFFF_FFFF 2 1 (s.time6 / 6)] })) ∧
    ∀ a l, p.comp = a :: l → p.waiting = [] → exec (.completionPop n) s = .next (s.setPage n { p with comp := l })

namespace Sys2Proof.Spec
open Sys2Proof.Machine

/-- A lesson of one seat, admitted, with no prefetch, plane or argument, whose context is the active one of that seat's core (R22, R33). -/
def oneSeat (s : State) (l : Lesson) (se : Seat) : Prop :=
  s.lesson l.ctx l.num = some l ∧ l.st = .admitted ∧ l.seats = [se] ∧ l.entries = [] ∧ bits (lw l.rcd 1) 63 32 = 0 ∧
  (s.core se.core).active = true ∧ (s.live se.core).id = l.ctx ∧ (s.live se.core).lesson = l.num ∧ (s.core se.core).sh0 = {} ∧
  (s.core se.core).sh1 = {} ∧ (s.core se.core).slot0 = some { ctx := l.ctx, num := l.num, pri := l.pri, lease := l.lease } ∧
  (s.core se.core).slot1 = none

/-- The program object of a lesson in a tensor-store extent: n words, readable, without a deadline, and good (R22, R34, R58). -/
def programAt (s : State) (l : Lesson) (o : ObjEntry) (n : Nat) : Prop :=
  s.objEntry l.ctx (bits (lw l.rcd 0) 15 0) = o ∧ o.kind = 1 ∧ o.rd = true ∧ o.ov = true ∧ o.life = 0 ∧ o.dims = [8 * n] ∧ s.badTier1 = []
/-- The range of a level on a seat (R35): the whole one, or the seat's part of a level that is spatial over cores or over dies; lo and hi. -/
def levelPart (l : Lesson) (se : Seat) (i : Nat) : Nat × Nat :=
  let lo := bits (lw l.rcd (4 + i)) 31 0
  let c := bits (lw l.rcd (4 + i)) 63 32 - lo
  let w := bits (lw l.rcd 0) 35 32 + 1
  let cut (part parts : Nat) : Nat × Nat := (lo + c * part / parts, lo + c * (part + 1) / parts)
  match bits (lw l.rcd 1) (5 + 2 * i) (4 + 2 * i) with
  | 1 => cut (se.y * w + se.x) (w * (bits (lw l.rcd 0) 39 36 + 1))
  | 2 => cut se.ord (2 ^ bits (lw l.rcd 0) 41 40)
  | _ => (lo, lo + c)
/-- Word i of a program object. -/
def programWord (s : State) (o : ObjEntry) (i : Nat) : W64 :=
  BitVec.ofNat 64 (leNat (s.bytes (.tier1 (bits o.home 34 32) (bits o.home 31 0) (8 * i)) 8))

end Sys2Proof.Spec

open Sys2Proof Sys2Proof.Machine Sys2Proof.Spec

/-- RESERVATION_ATTEMPT admits the lesson whose turn it is on its seats, or lets a pre-empted one go on; of the four attempts that run at once, one that reserves a
slot another holds fails, which withholds its lesson for 64 × 2^min(k, 6) clk and a jitter below 64, until BACKOFF_EXPIRY (which of them holds the slot is the
model's input: log 61); the jitter is bits [5:0] of a counter that advances with every clk, its phase open. With the registrar's headland down nothing is attempted
(R20, R314; log 26).
RESIDENCY_REPORT installs the program of a seat as executable words and notes the headland; where a word is illegal LESSON_COPY_FAULT ends the lesson with OVERLAY.
LESSON_START, once every headland has reported, starts the seat at its entry with its index, class size, level ranges, arguments, time slice and WDOG, and every
other register zero: general, system and stream registers, V, M and A; with empty queues, FIFOs and chimney, every unit open, and the flags and the words as they
stood (R29, R33 to R37). That the time slice is the one configured when the record was accepted is the model's choice (log 80). -/
def Obligations.LessonsAreAdmittedAndStarted : Prop :=
  (∀ s : State, (s.head (if s.standby then 4 else 0)).down = true → ∀ c, exec (.reservationAttempt c) s = .next s) ∧
  (∀ (s : State) (l : Lesson) (seats : List Seat), (s.head (if s.standby then 4 else 0)).down = false → s.nextAttempt = some (l, seats) →
    s.lesson l.ctx l.num = some l →
    (l.st = .queued → ∃ t m, exec (.reservationAttempt none) s = .next t ∧ t.lesson l.ctx l.num = some m ∧ m.st = .admitted ∧ m.seats = seats ∧ m.k = 0) ∧
    (l.st = .preempted → ∃ t m, exec (.reservationAttempt none) s = .next t ∧ t.lesson l.ctx l.num = some m ∧
      m.st = (if l.wasDraining then .draining else .running) ∧ m.seats = l.seats ∧ m.k = 0)) ∧
  (∀ (s : State) (j i : Nat) (a b : Lesson × List Seat) (p q : Seat), (s.head (if s.standby then 4 else 0)).down = false →
    s.attempts[j]? = some a → s.attempts[i]? = some b → i ≠ j → p ∈ a.2 → q ∈ b.2 → q.core = p.core → q.slot = p.slot →
    exec (.reservationAttempt (some (j, p.core))) s = .next (s.modLesson a.1.ctx a.1.num fun m => { m with
      k := a.1.k + 1
      backoff := some (s.cycle + 64 * 2 ^ min (a.1.k + 1) 6 + (s.cycle + Config.registrarPhase s.phase) % 64) })) ∧
  (∀ (s : State) (j c : Nat), (∀ a, s.attempts[j]? = some a → ∀ p ∈ a.2, p.core = c → ∀ i b, s.attempts[i]? = some b → i ≠ j → ∀ q ∈ b.2,
      ¬ (q.core = c ∧ q.slot = p.slot)) →
    exec (.reservationAttempt (some (j, c))) s = .next s) ∧
  (∀ (s : State) (l : Lesson) (z : Nat), s.lesson l.ctx l.num = some l → l.backoff = some z →
    exec (.backoffExpiry l.ctx l.num) s = .next (if z ≤ s.cycle then s.modLesson l.ctx l.num fun m => { m with backoff := none } else s)) ∧
  (∀ (s : State) (l : Lesson) (se : Seat) (o : ObjEntry) (n : Nat), oneSeat s l se → l.reported = [] → programAt s l o n →
    ((∀ i, i < n → scan (programWord s o i) = 0) →
      ∃ t, exec (.residencyReport (se.core / 256) l.ctx l.num) s = .next t ∧ t.lesson l.ctx l.num = some { l with reported := [se.core / 256] } ∧
        (∀ i, (t.live se.core).word i = if i < n then ⟨programWord s o i, .exec⟩ else {}) ∧
        { t.live se.core with words := (s.live se.core).words } = s.live se.core) ∧
    ((∃ i, i < n ∧ scan (programWord s o i) ≠ 0) →
      ∃ t, exec (.lessonCopyFault (se.core / 256) l.ctx l.num) s = .next t ∧ ended s t l 3 0x0C)) ∧
  ∀ (s : State) (l : Lesson) (se : Seat), oneSeat s l se → l.reported = [se.core / 256] →
    ∃ t, exec (.lessonStart l.ctx l.num) s = .next t ∧ t.lesson l.ctx l.num = some { l with st := .running } ∧
      (t.live se.core).waitStart = false ∧ (t.live se.core).pc.toNat = bits (lw l.rcd 0) 31 17 ∧
      (t.live se.core).rg 1 = BitVec.ofNat 64 se.idx ∧
      (t.live se.core).rg 2 = BitVec.ofNat 64 ((bits (lw l.rcd 0) 35 32 + 1) * (bits (lw l.rcd 0) 39 36 + 1) * 2 ^ bits (lw l.rcd 0) 41 40) ∧
      (t.live se.core).rg 3 = 0 ∧
      (∀ i : Nat, i < 6 → (t.live se.core).rg (BitVec.ofNat 5 (4 + i)) =
        if i < bits (lw l.rcd 1) 23 20 then BitVec.ofNat 64 (lw l.rcd (10 + i)) else 0) ∧
      (∀ r : BitVec 5, 10 ≤ r.toNat → (t.live se.core).rg r = 0) ∧
      (∀ n ∈ [0x000, 0x001, 0x002, 0x003, 0x004, 0x008, 0x009, 0x00A, 0x00B, 0x020, 0x021, 0x022, 0x023, 0x024, 0x030, 0x031, 0x032, 0x033, 0x034, 0x036],
        (t.live se.core).sr n = 0) ∧
      (t.live se.core).sr 0x04A = BitVec.ofNat 64 l.slice ∧ (t.live se.core).sr 0x048 = (s.context l.ctx).scopebase ∧
      (t.live se.core).sr 0x049 = (s.context l.ctx).ptbase ∧ (t.live se.core).words = (s.live se.core).words ∧
      (t.live se.core).sr 0x011 = BitVec.ofNat 64 se.idx ∧ (t.live se.core).sr 0x012 = (t.live se.core).rg 2 ∧
      (∀ i, i < 6 → (t.live se.core).sr (0x018 + i) =
        if i < bits (lw l.rcd 1) 2 0 then BitVec.ofNat 64 ((levelPart l se i).2 * 2 ^ 32 + (levelPart l se i).1) else 0) ∧
      (t.live se.core).sr 0x042 = ((s.context l.ctx).wdog).getD Config.wdogCfg ∧
      (∀ n i j, (t.live se.core).ve n i j = 0) ∧ (∀ n, 1 ≤ n → n < 8 → (t.live se.core).mask n = 0) ∧ (∀ e, (t.live se.core).acc.get 0 e = 0) ∧
      (∀ n, (t.live se.core).q.get 0 n = 0) ∧ (t.live se.core).vxFifo = [] ∧ (t.live se.core).mxFifo = [] ∧ (t.live se.core).chimney = [] ∧
      (t.live se.core).chDone = 0 ∧ (∀ a, (t.live se.core).queue a = []) ∧ (t.live se.core).lane = [] ∧ (t.core se.core).gated = [] ∧
      (t.core se.core).waking = [] ∧ (∀ n, (t.live se.core).tokens.get 0 n = 0) ∧ (t.live se.core).f = (s.live se.core).f

/-- LESSON_RETIRE retires a draining lesson whose one seat has nothing left, SUPERVISOR_LESSON_END ends a running or pre-empted one with its cause, each with its
completion record. REGISTRAR_TAKEOVER puts the other registrar in charge and queues the lessons that were reserving or whose attempts were running, which start again
with a count of zero (that it also goes back to H0, and that it does nothing where that registrar's headland is in reset, are the model's choices: log 61, of R20 and
R314). TIME_SLICE_EXPIRY, with PREEMPT at zero, reloads it, and
where no equal shares the seat nothing else changes. CONTEXT_STREAM_COMPLETE ends a stream out in an empty store and a save area, a stream in whose CRC
is right with the store RESIDENT and the saved context in it (PREEMPT naming that store, where its lesson is to become the active one), and a stream in that fails
its CRC with ECC (R20, R25, R26, R31, R38, R143, R144, R146, R314). -/
def Obligations.LessonsEndAndContextsStream : Prop :=
  (∀ (s : State) (l : Lesson) (se : Seat), s.lesson l.ctx l.num = some l → l.seats = [se] → l.st = .draining → s.recs = [] →
    (s.core se.core).active = true → (s.live se.core).id = l.ctx → (s.live se.core).lesson = l.num → (s.live se.core).ld = [] → (s.live se.core).st = [] →
    (s.live se.core).vx = [] → (s.live se.core).mx = [] → (s.live se.core).lane = [] → (s.live se.core).path = [] → (s.live se.core).held = none →
    (s.core se.core).ops = [] → ∃ t, exec (.lessonRetire l.ctx l.num) s = .next t ∧ ended s t l 1 0) ∧
  (∀ (s : State) (l : Lesson) (cause : Nat), s.lesson l.ctx l.num = some l → cause < 256 →
    (l.st = .running ∨ l.st = .preempted → ∃ t, exec (.supervisorLessonEnd l.ctx l.num cause) s = .next t ∧ ended s t l 3 cause) ∧
    (l.st ≠ .running ∧ l.st ≠ .preempted → exec (.supervisorLessonEnd l.ctx l.num cause) s = .next s)) ∧
  (∀ s : State, (s.head (if s.standby then 0 else 4)).down = true → exec .registrarTakeover s = .next s) ∧
  (∀ s : State, (s.head (if s.standby then 0 else 4)).down = false → (s.head (if s.standby then 0 else 4)).trigger = [] →
    ∃ t, exec .registrarTakeover s = .next t ∧ t.standby = !s.standby ∧ t.phase = s.phase + 1 ∧
    t.lessons = s.lessons.map (fun l =>
      if l.st = .reserving then { l with st := .queued, k := 0, backoff := none, seats := [] }
      else if s.attempts.any (fun a => a.1.ctx == l.ctx && a.1.num == l.num) then { l with k := 0 } else l) ∧
    { t with standby := s.standby, phase := s.phase, lessons := s.lessons, heads := s.heads } = s) ∧
  (∀ (s : State) (l : Lesson) (se : Seat) (c : Nat), s.lesson l.ctx l.num = some l → l.seats = [se] → se.core = c → (s.core c).active = true →
    (s.live c).id = l.ctx → (s.live c).lesson = l.num → (s.live c).waitStart = false → (s.live c).sr 0x04A = 0 → l.slice ≠ 0 → (s.core c).equalPeer = none →
    (s.core c).timerDue = false →
    exec (.timeSliceExpiry c) s = .next (s.setLive c ((s.live c).setSr 0x04A (BitVec.ofNat 64 l.slice)))) ∧
  ∀ (s : State) (c : Nat) (x : Ctx),
    ((s.core c).sh0 = ⟨.streamOut, x⟩ → (s.core c).sh1 = {} → (s.core c).active = false → (s.core c).slot0 = none → (s.core c).slot1 = none →
      s.lesson x.id x.lesson = none →
      ∃ t, exec (.contextStreamComplete c 0 true) s = .next t ∧ (t.core c).sh0.st = .empty ∧ t.saves = s.saves.put (saveKey c x.id x.lesson) ⟨x⟩) ∧
    (∀ h o : SlotHold, (s.core c).sh0 = ⟨.streamIn, x⟩ → (s.core c).sh1 = {} → (s.core c).active = true → (s.core c).slot0 = some h → (s.core c).slot1 = some o →
      h.ctx = (s.live c).id → h.num = (s.live c).lesson → o.ctx = x.id → o.num = x.lesson → (o.ctx, o.num) ≠ (h.ctx, h.num) → (s.live c).pend = [] →
      (s.live c).waitStart = false → x.waitStart = false → (s.core c).timerDue = false → s.evicted x = false → s.evicted (s.live c) = false →
      ∃ t, exec (.contextStreamComplete c 0 true) s = .next t ∧ (t.core c).sh0 = ⟨.resident, x⟩ ∧ (t.core c).sh1 = {} ∧ (t.core c).active = true ∧
        t.saves = s.saves.erase (saveKey c x.id x.lesson) ∧ (∀ d, d ≠ c → t.core d = s.core d) ∧ t.lessons = s.lessons ∧ t.tier2 = s.tier2 ∧
        (o.pri ≤ h.pri → t.live c = s.live c) ∧
        (h.pri < o.pri → ∃ p, p.cause = 0x12 ∧ p.addr = 0 ∧ t.live c = { s.live c with pend := [p] })) ∧
    ∀ l, (s.core c).sh0 = ⟨.streamIn, x⟩ → s.lesson x.id x.lesson = some l → l.ctx = x.id → l.num = x.lesson → l.st = .running →
      ∃ t, exec (.contextStreamComplete c 0 false) s = .next t ∧ ended s t l 3 0x0B

/-- REGISTER_WRITE changes the register it names and nothing else: IEN of a bound page, the wait-log threshold, breakpoints, which then stop every context anew, the
debugger's hold, and what the registrar keeps for a context, and the kinds of black-box record that assert FREEZE (that bit k of that register names KIND k, for 64
kinds, is the model's choice, log 67) (R4, R37, R123, R152, R155, R156). -/
def Obligations.DeviceRegistersAreWritten : Prop :=
  ∀ (s : State) (v : W64) (n k hl c cx : Nat), n < 256 → hl < 8 → coreId c = true → cx < 65536 →
    ((s.page n).bound ≠ none → exec (.registerWrite (.pageIen n) v) s = .next (s.setPage n { s.page n with ien := v.getLsbD 0 })) ∧
    ((s.page n).bound = none → exec (.registerWrite (.pageIen n) v) s = .next s) ∧
    exec (.registerWrite (.waitThreshold hl) v) s = .next (s.setHead hl { s.head hl with waitThreshold := v.toNat }) ∧
    exec (.registerWrite (.debugHold c) v) s = .next (s.setCore c { s.core c with debugHold := v.getLsbD 0 }) ∧
    (k < 8 → ∀ b t, (b = .pc v.toNat ∧ exec (.registerWrite (.breakPc c k) v) s = .next t) ∨
        (∃ a, a ≠ .cc ∧ b = .queue a v.toNat ∧ exec (.registerWrite (.breakQueue c k a) v) s = .next t) →
      (t.core c).bps = (s.core c).bps.put k b ∧ b ∉ (t.live c).passed ∧ b ∉ (t.core c).sh0.ctx.passed ∧ b ∉ (t.core c).sh1.ctx.passed) ∧
    (k < 8 → (s.live c).passed = [] → (s.core c).sh0.ctx.passed = [] → (s.core c).sh1.ctx.passed = [] → (∀ e ∈ s.saves, e.2.ctx.passed = []) →
      exec (.registerWrite (.breakPc c k) v) s = .next (s.setCore c { s.core c with bps := (s.core c).bps.put k (.pc v.toNat) }) ∧
      (∀ a, a ≠ .cc → exec (.registerWrite (.breakQueue c k a) v) s =
        .next (s.setCore c { s.core c with bps := (s.core c).bps.put k (.queue a v.toNat) })) ∧
      exec (.registerWrite (.breakClear c k) v) s = .next (s.setCore c { s.core c with bps := (s.core c).bps.erase k })) ∧
    exec (.registerWrite (.freezeTrigger hl) v) s =
      .next (s.setHead hl { s.head hl with trigger := (List.range 64).filter fun k => v.getLsbD k }) ∧
    exec (.registerWrite (.ctxPtbase cx) v) s = .next (s.setContext cx { s.context cx with ptbase := v }) ∧
    exec (.registerWrite (.ctxScopebase cx) v) s = .next (s.setContext cx { s.context cx with scopebase := v }) ∧
    exec (.registerWrite (.ctxWdog cx) v) s = .next (s.setContext cx { s.context cx with wdog := some v }) ∧
    exec (.registerWrite (.ctxSlice cx) v) s = .next (s.setContext cx { s.context cx with slice := some v.toNat })

/-- STOP_REQUEST asks a core to stop; BREAKPOINT_HIT does so before the word at an index that a breakpoint names; STOP_COMPLETE stops a core that has nothing under
way, its waiting instruction given up and its wait still shown, and not before it has been asked or while an instruction is held at retirement (the last is the
model's choice, log 68); STOP_RESUME lets it go on, and the breakpoint at its pc does not stop its context there again, which the context itself keeps. BRK, its
tokens there, asks for a stop while kndbg holds the core and does not retire; once the core has been resumed there it retires, which is the model's choice, log 49
(R108, R123, R151, R152, R155). -/
def Obligations.StopsAndBreakpoints : Prop :=
  (∀ (s : State) (tk : Tok) (code : BitVec 16), (s.core s.cur).debugHold = true →
      (s.ctx.brkPassed = false → s.ctx.canPop tk.pop = true → (s.ctx.wait = none ∨ (s.head (hlOf s.cur)).waitThreshold = 0) →
        exec (.brk tk code) s = .next (s.setCore s.cur { s.core s.cur with
          stopReq := true, brkStop := true, live := { s.ctx with wait := none, ccPop := 0, invs := [], latch := none, waitEntry := none } })) ∧
      (s.ctx.brkPassed = true → s.goes s.cur tk = true →
        goesOn (.brk tk code) s ({ s.ctx with brkPassed := false }.retired tk (s.ctx.pc + 1)))) ∧
  ∀ (s : State) (c : Nat) (k : Core), s.core c = k →
    (coreId c = true → k.stopReq = false → exec (.stopRequest c) s = .next (s.setCore c { k with stopReq := true })) ∧
    (∀ i, k.bps = [(0, .pc i)] → k.live.passed = [] → k.stopReq = false → s.mayGo c = true →
      (k.live.pc.toNat = i → ∃ t, exec (.breakpointHit c) s = .next t ∧ t.core c = { k with stopReq := true } ∧
        { t with cores := s.cores, heads := s.heads, tier2 := s.tier2, badTier2 := s.badTier2 } = s) ∧
      (k.live.pc.toNat ≠ i → exec (.breakpointHit c) s = .next s)) ∧
    (k.stopReq = true → k.stopped = false → k.ops = [] → s.recs = [] → k.live.ld = [] → k.live.st = [] → k.live.vx = [] → k.live.mx = [] → k.live.lane = [] →
      (k.live.held = none → exec (.stopComplete c) s = .next (s.setCore c { k with stopped := true, live := { givenUp k.live with wait := k.live.wait } })) ∧
      (k.live.held ≠ none → k.active = true → exec (.stopComplete c) s = .next s)) ∧
    (k.stopReq = false → exec (.stopComplete c) s = .next s) ∧
    (k.stopped = true → k.brkStop = true → ∃ t, exec (.stopResume c) s = .next t ∧ (t.core c).stopReq = false ∧ (t.core c).stopped = false ∧
      (t.live c).brkPassed = true ∧ { t with cores := s.cores } = s) ∧
    (∀ i, k.bps = [(0, .pc i)] → k.stopped = true → k.brkStop = false → (s.setCore c { k with stopReq := false, stopped := false }).mayGo c = true →
      k.live.pc.toNat = i →
      exec (.stopResume c) s = .next (s.setCore c { k with stopReq := false, stopped := false, live := { k.live with passed := [.pc i], brkPassed := false } })) ∧
    (k.stopped = false → exec (.stopResume c) s = .next s)

/-- FREEZE stops the package: until a reset or the removal of power no step does more than let the next event pass (and than any step does for the areas of an
unretired REPART: R288, log 56). DEVICE_RESET restarts the clocks and leaves no
lesson, no page, no record and no active core, and keeps the black boxes under its new records, the memory outside the logic dies and what is spared, and loses every
extent of the tensor store. POWER_REMOVAL loses the black boxes, tier-2 and the tensor store, and leaves the package frozen. What these two leave of the memories and
of what is spared is the model's choice, logs 26 and 2, as are triggers by KIND, log 67. A rail fault, a throttled tile and a die above its limit each leave a
black-box record, which asserts FREEZE where its kind is a trigger; a throttled tile stays so until it is below 100 °C. PTM_REFRESH slews TIME to the host's, by the
same amount whatever the steps in which the clk pass. ATTESTATION_REQUEST reports the nonce and the identification word (R153, R156, R157, R304, R305, R314, R315,
R317). -/
def Obligations.ServicePortActsOnThePackage : Prop :=
  (∀ s : State, exec .freeze s = .next (if s.frozen then s else { s with frozen := true, hostUp := false })) ∧
  (∀ (s : State) (e : Nat × Instr) (l : List (Nat × Instr)), s.frozen = true → s.agenda = e :: l → e.2 ≠ .deviceReset → e.2 ≠ .powerRemoval →
    step s = .next { s with agenda := l }.veil) ∧
  (∀ s : State, s.frozen = true → s.agenda = [] → step s = .next s.veil) ∧
  (∀ s : State, ∃ t, exec .deviceReset s = .next t ∧ t.cycle = 0 ∧ t.time6 = 0 ∧ t.frozen = false ∧ t.lessons = [] ∧ t.contexts = [] ∧ t.pages = [] ∧ t.recs = [] ∧
    t.chunks = [] ∧ t.saves = [] ∧ (∀ c, (t.core c).active = false) ∧ t.tier2 = s.tier2 ∧ t.host = s.host ∧ t.tier1 = [] ∧
    (∀ h, h < 8 → (t.head h).sparedRows = (s.head h).sparedRows ∧ (t.head h).sparedBanks = (s.head h).sparedBanks ∧
      ∃ n, n ≤ 4 ∧ ∀ i, i + n < 4096 → (t.head h).blackBox[i + n]? = (s.head h).blackBox[i]?)) ∧
  (∀ s : State, ∃ t, exec .powerRemoval s = .next t ∧ t.frozen = true ∧ (∀ h, (t.head h).blackBox = []) ∧ t.tier2 = [] ∧ t.tier1 = []) ∧
  (∀ (s : State) (hl unit : Nat), hl < 8 → 0x15 ∈ (s.head hl).trigger → ∃ t, exec (.powerRailFault hl unit) s = .next t ∧ t.frozen = true ∧ t.hostUp = false ∧
    ((t.head hl).blackBox.head?).map (·.kind) = some 0x15) ∧
  (∀ (s : State) (hl unit : Nat), hl < 8 → (s.head hl).trigger = [] → ∃ r, exec (.powerRailFault hl unit) s =
    .next (s.setHead hl { s.head hl with blackBox := (r :: (s.head hl).blackBox).take 4096 }) ∧ r.kind = 0x15 ∧ r.value = unit ∧ r.time = s.time6 / 6) ∧
  (∀ (s : State) (ns : Nat), s.hostUp = true →
    exec (.ptmRefresh ns) s = .next { s with timeAdj := 6 * (ns : Int) - (s.time6 : Int) }) ∧
  (∀ (s : State) (dt : Nat), s.timeAdj ≤ 5 * dt / 1000 → -(5 * dt / 1000) ≤ s.timeAdj →
    ((s.advance dt).time6 : Int) = s.time6 + 5 * dt + s.timeAdj ∧ (s.advance dt).timeAdj = 0) ∧
  (∀ (s : State) (m n : Nat), s.slewRem < 1000 → ((s.advance m).advance n).time6 = (s.advance (m + n)).time6 ∧
    ((s.advance m).advance n).timeAdj = (s.advance (m + n)).timeAdj) ∧
  (∀ (s : State) (c tile die : Nat), coreId c = true → s.frozen = false → (s.head (hlOf c)).trigger = [] →
    (die ≤ 115 → 105 < tile → (s.core c).throttled = false → ∃ t, exec (.thermalThrottle c tile die) s = .next t ∧
      t.core c = { s.core c with throttled := true } ∧ ((t.head (hlOf c)).blackBox.head?).map (·.kind) = some 0x13 ∧ t.frozen = false) ∧
    (die ≤ 115 → tile < 100 → (s.core c).throttled = true → exec (.thermalThrottle c tile die) s = .next (s.setCore c { s.core c with throttled := false })) ∧
    (die ≤ 115 → 100 ≤ tile → tile ≤ 105 → exec (.thermalThrottle c tile die) s = .next s) ∧
    (115 < die → ∃ t, exec (.thermalThrottle c tile die) s = .next t ∧ t.frozen = true)) ∧
  ∀ (s : State) (nonce : BitVec 256), (s.head 0).down = false → ∃ (w : W64) (ds : List (BitVec 384)) (sig : BitVec 768),
    exec (.attestationRequest nonce) s = .next { s with freeCtr := s.freeCtr + 1, report := some (nonce, w, ds, sig) } ∧
      w.extractLsb' 48 16 = 0x1536 ∧ w.extractLsb' 40 8 = (if s.skuC then 0x43 else 0x4C) ∧ w.extractLsb' 0 12 = 0 ∧
      (w.extractLsb' 32 8 = 0x60 ∨ w.extractLsb' 32 8 = 0x30) ∧ w.extractLsb' 12 12 ≠ 0xFFF

/-- FLIT_CRC_FAIL only counts a replay. The first LANE_FAILURE of a link makes it retrain onto its spare lane, the second leaves it at half width; a chunk for
another package leaves over the link of its route, which holds it while it retrains, and LANE_RETRAIN_COMPLETE ends the training and lets it leave.
HOST_LINK_TRAINING sets the width and the speed. A hard MEMORY_SOFT_ERROR leaves its word uncorrectable, a soft one of the scratchpad leaves a word to be corrected
when it is met, and parity finds every error of V, the masks, A and the slots; three corrected errors of a row within an hour let ROW_AUTO_SPARE remap it, while a
spare is left. CORE_SPARE_MAP gives a retired core's ID to a spare tile, with an empty scratchpad (the model's choice, logs 26 and 2). FIRMWARE_SWITCH switches the
image of a prefect, kind 0 (the model's number, log 24), at once, and that of a sequencer or a supervisor not while a lesson runs on the headland; with its headland
in reset none of the three happens. A departed chunk ends in its package, its slot free, at its arrival there: it is applied, or its transfer is dropped with CAUSE 0x03
or 0x0B of its record, which of them a free value says (the model's choice, log 54) (R64, R211, R278, R304, R312, R313, R316, R318, R320). -/
def Obligations.LinksAndRepairsFollowTheirEvents : Prop :=
  (∀ (s : State) (l : Nat) (k : Link), l < 36 → s.links.get {} l = k →
    exec (.flitCrcFail l) s = .next { s with links := s.links.put l { k with replays := k.replays + 1 } } ∧
    ((∀ h, (s.head h).trigger = []) → ∃ t, exec (.laneFailure l) s = .next t ∧ { t with heads := s.heads } =
      { s with links := s.links.put l (if k.failed = 0 then { k with failed := 1, retraining := true } else { k with failed := k.failed + 1, half := true }) }) ∧
    exec (.laneRetrainComplete l) s = .next (if k.retraining then
      { s with links := s.links.put l { k with retraining := false, held := [] }, fabricOut := s.fabricOut ++ k.held } else s)) ∧
  (∀ (s : State) (q : Chunk) (r : List Chunk) (l : Nat) (k : Link), s.chunks = q :: r → (∀ p ∈ r, q.cid < p.cid) → q.node ≠ 0xFFF →
    l = (Config.routeLink q.node).val → s.links.get {} l = k →
    exec (.chunkArrival q.cid) s = .next (if k.retraining then
      { s with chunks := r, links := s.links.put l { k with held := k.held ++ [(q.node, q)] } }
      else { s with chunks := r, fabricOut := s.fabricOut ++ [(q.node, q)] })) ∧
  (∀ (s : State) (cid : Nat) (e : Nat × Chunk) (l : List (Nat × Chunk)), (∀ p ∈ s.chunks, p.cid ≠ cid) → s.fabricOut = e :: l → e.2.cid = cid →
    (∀ p ∈ l, cid < p.2.cid) → (∀ k ∈ s.links, k.2.held = []) → ∃ cause ∈ [0, 0x03, 0x0B], ∃ t, exec (.chunkArrival cid) s = .next t ∧
      (cause = 0 → t = { s with fabricOut := l }) ∧ (∀ p ∈ t.fabricOut, p ∈ l) ∧
      (cause ≠ 0 → ∀ r, s.recs.find? (·.rid = e.2.rid) = some r → r.iter ≠ e.2.iter →
        (t.recs.find? (·.rid = e.2.rid)).map (·.err) = some (if r.err = 0 then cause else r.err))) ∧
  (∀ (s : State) (w r : Nat), w ∈ [0, 4, 8, 16] → r ∈ [16, 32, 64] → (s.head 0).trigger = [] → ∃ t, exec (.hostLinkTraining w r) s = .next t ∧
    { t with heads := s.heads } = { s with hostUp := w != 0, hostLanes := w, hostRate := r }) ∧
  (∀ (s : State) (c off e : Nat), coreId c = true →
    (off < 0x200000 → ∃ t, exec (.memorySoftError (.scratch c off) true) s = .next t ∧ t.badUnit (.win c 0 off) = true ∧ ∀ p, t.byte p = s.byte p) ∧
    (off < 0x200000 → off / 8 ∉ (s.core c).badWords → ∃ t, exec (.memorySoftError (.scratch c off) false) s = .next t ∧ off / 8 ∈ (t.core c).softWords ∧
      { t.core c with softWords := (s.core c).softWords } = s.core c ∧ t.heads = s.heads ∧ ∀ p, t.byte p = s.byte p) ∧
    ((s.core c).active = true → ∀ hard,
      (e < 32768 → ∃ t, exec (.memorySoftError (.vec c e) hard) s = .next t ∧ e ∈ (t.live c).badV ∧ { t.live c with badV := (s.live c).badV } = s.live c) ∧
      (32 ≤ e → e < 256 → ∃ t, exec (.memorySoftError (.mask c e) hard) s = .next t ∧ e ∈ (t.live c).badM ∧ { t.live c with badM := (s.live c).badM } = s.live c) ∧
      (e < 16384 → ∃ t, exec (.memorySoftError (.acc c e) hard) s = .next t ∧ e ∈ (t.live c).badA ∧ { t.live c with badA := (s.live c).badA } = s.live c) ∧
      ∀ n i j, n < 8 → i < 64 → j < 64 → ∃ t, exec (.memorySoftError (.slot c n i j) hard) s = .next t ∧ (n * 4096 + 64 * i + j) ∈ (t.live c).badSlot ∧
        { t.live c with badSlot := (s.live c).badSlot } = s.live c)) ∧
  (∀ (s : State) (st bank row : Nat) (h : Headland), s.head st = h → bank < 256 → row < 2 ^ 24 →
    (h.down = true → exec (.rowAutoSpare st bank row) s = .next s) ∧ (h.down = false → h.sparedRows.length < Config.spareRows st →
    3 ≤ (h.corrected.filter fun e => decide (e.1 = bank * 2 ^ 24 + row ∧ s.time6 / 6 ≤ e.2 + 3600 * 10 ^ 9)).length →
    ∃ t, exec (.rowAutoSpare st bank row) s = .next t ∧ (t.head st).sparedRows = h.sparedRows ++ [bank * 2 ^ 24 + row] ∧ t.cores = s.cores)) ∧
  (∀ (s : State) (c : Nat) (k : Core), s.core c = k → k.retiring = true → k.slot0 = none → k.slot1 = none → k.active = false → k.sh0 = {} → k.sh1 = {} →
    ((s.head (hlOf c)).down = true → exec (.coreSpareMap c) s = .next s) ∧
    ((s.head (hlOf c)).down = false → 0 < (s.head (hlOf c)).spares → ∃ t, exec (.coreSpareMap c) s = .next t ∧ (t.core c).retiring = false ∧ (t.core c).tile.isSome = true ∧
      (t.core c).scratch = [] ∧ (t.head (hlOf c)).spares + 1 = (s.head (hlOf c)).spares) ∧
    ((s.head (hlOf c)).down = false → (s.head (hlOf c)).spares = 0 → exec (.coreSpareMap c) s = .next (s.setCore c { k with retiring := false, unavailable := true }))) ∧
  (∀ (s : State) (hl : Nat), (s.head hl).down = true → exec (.firmwareSwitch hl) s = .next s) ∧
  (∀ (s : State) (hl k : Nat) (l : Lesson) (se : Seat), k = 2 ∨ k = 3 → (s.head hl).fwPending = [k] → l ∈ s.lessons → l.st = .running → se ∈ l.seats → hlOf se.core = hl →
    exec (.firmwareSwitch hl) s = .next s) ∧
  ∀ (s : State) (hl : Nat) (l : List Nat), hl < 8 → (s.head hl).down = false → (s.head hl).fwPending = 0 :: l → (s.head hl).trigger = [] →
    ∃ t, exec (.firmwareSwitch hl) s = .next t ∧
    t.images.get 0 (4 * hl) = 1 - s.images.get 0 (4 * hl) ∧ (t.head hl).fwPending = l ∧ { t with heads := s.heads, images := s.images } = s

namespace Sys2Proof.Spec
open Sys2Proof.Machine

/-- Address of slot k of a headland's ring (R309). -/
def ringSlot (hl k : Nat) : Nat := Config.ringBase hl + 0x40 + 32 * (k % 510)
/-- The next command of a headland's ring: slot k, not yet performed, with its OP, CTX, OBJ, HL, ARGA and ARGB and what stands in the byte that is to be zero (R309). -/
def commandLow (s : State) (hl k op ctx obj tgt low a b : Nat) : Prop :=
  hl < 8 ∧ (s.head hl).down = false ∧ t2Nat s (Config.ringBase hl + 8) 8 = k ∧ k < (s.head hl).tail ∧
  t2Nat s (ringSlot hl k) 8 = op * 2 ^ 56 + (s.byte (.tier2 (ringSlot hl k + 6))).toNat * 2 ^ 48 + ctx * 2 ^ 32 + obj * 2 ^ 16 + tgt * 2 ^ 8 + low ∧
  op < 256 ∧ ctx < 65536 ∧ obj < 65536 ∧ tgt < 256 ∧ low < 256 ∧ t2Nat s (ringSlot hl k + 8) 8 = a ∧ t2Nat s (ringSlot hl k + 16) 8 = b
/-- One with no reserved field set. -/
def command (s : State) (hl k op ctx obj tgt a b : Nat) : Prop := commandLow s hl k op ctx obj tgt 0 a b
/-- A command is answered: STATUS in its byte of the slot, RESULT in the slot's last word where the command states one, HEAD past the slot; every other byte of
tier-2 that is to stay is as it was (R309). -/
def answeredBut (keeps : Nat → Prop) (s t : State) (hl k status : Nat) (result : Option Nat) : Prop :=
  (t.byte (.tier2 (ringSlot hl k + 6))).toNat = status ∧ t2Nat t (Config.ringBase hl + 8) 8 = (k + 1) % 2 ^ 64 ∧
  (∀ v, result = some v → t2Nat t (ringSlot hl k + 24) 8 = v % 2 ^ 64) ∧
  ∀ pa, pa ≠ ringSlot hl k + 6 → (pa < ringSlot hl k + 24 ∨ ringSlot hl k + 32 ≤ pa) → (pa < Config.ringBase hl + 8 ∨ Config.ringBase hl + 16 ≤ pa) →
    keeps pa → t.byte (.tier2 pa) = s.byte (.tier2 pa)
def answered (s t : State) (hl k status : Nat) (result : Option Nat) : Prop := answeredBut (fun _ => True) s t hl k status result
/-- The words of the ring commands with their OP, those of 0x14 by ARGB (R310). -/
def ringTable (b : Nat) : List ((Nat → Instr) × Nat) :=
  [(.ocreate, 0x01), (.odestroy, 0x02), (.olife, 0x03), (.scrub, 0x04), (.spare, 0x05), (.caprep, 0x06), (.therm, 0x07), (.reten, 0x08), (.scan, 0x10),
   (.trace, 0x11), (.bind, 0x12), (.retire, 0x13), (if b = 1 then .t2on else .t2off, 0x14), (.fwsw, 0x15)]
/-- Whether an argument of a command other than OCREATE has a value that the table does not give it (R310): the target headland or stack, LIFE, a row or bank, a size,
a page, a core ID, a site, on or off, an image kind. -/
def badArgument (skuC : Bool) (op tgt a b : Nat) : Prop :=
  (op ∈ [0x04, 0x05, 0x06, 0x07, 0x08, 0x11, 0x15] ∧ 8 ≤ tgt) ∨ (op = 0x03 ∧ 2 ≤ a) ∨ (op = 0x05 ∧ (2 ≤ b ∨ 2 ^ 32 ≤ a)) ∨ (op = 0x11 ∧ b % 4096 ≠ 0) ∨
  (op = 0x12 ∧ 256 ≤ a ∧ a ≠ 0xFFFF) ∨ (op = 0x13 ∧ coreId a = false) ∨ (op = 0x14 ∧ ((if skuC then 8 else 16) ≤ a ∨ 2 ≤ b)) ∨ (op = 0x15 ∧ 4 ≤ a)
/-- The words of a ring that a sequencer or prefect of another headland performs, with their OP (R310). -/
def ringWords : List ((Nat → Instr) × Nat) :=
  [(.scrub, 0x04), (.spare, 0x05), (.caprep, 0x06), (.therm, 0x07), (.reten, 0x08), (.trace, 0x11), (.fwsw, 0x15)]
/-- A field of n bytes at an offset of the entry image at a tier-2 address, and bits [lo + wid − 1 : lo] of its first word (R58). -/
def imageField (s : State) (a off n : Nat) : Nat := t2Nat s (a + off) n
def imageBits (s : State) (a lo wid : Nat) : Nat := t2Nat s a 8 / 2 ^ lo % 2 ^ wid
/-- The entry that an image gives (R58): its dimensions and strides up to RANK. -/
def entryOf58 (s : State) (a : Nat) : ObjEntry :=
  { kind := imageBits s a 62 2, fmt := imageBits s a 56 5, rank := imageBits s a 53 3, rd := imageBits s a 52 1 == 1, wr := imageBits s a 51 1 == 1
    ov := imageBits s a 50 1 == 1, emir := imageBits s a 49 1 == 1, eval := imageBits s a 48 1 == 1, life := imageBits s a 46 2, qaxis := imageBits s a 43 3
    owner := imageBits s a 16 16, home := imageField s a 0x08 8, blen := imageField s a 0x58 1, sobj := imageField s a 0x60 2, zobj := imageField s a 0x62 2
    deadline := imageField s a 0x68 8, dims := (List.range (imageBits s a 53 3)).map fun i => imageField s a (0x10 + 4 * i) 4
    strides := (List.range (imageBits s a 53 3)).map fun i => imageField s a (0x28 + 8 * i) 6 }
/-- Whether an image holds no reserved value, no non-zero reserved field, and no packing that R70 forbids: a 4-bit or 6-bit object has an innermost stride of 1, and an
innermost extent and other strides that are multiples of 2 or of 4 (R58, R70, R310). -/
def imageLegal (s : State) (a : Nat) : Prop :=
  let o := entryOf58 s a
  let step := if o.fmt = 0x07 then 4 else if o.fmt = 0x08 ∨ o.fmt = 0x0A then 2 else 1
  o.kind ≠ 0 ∧ 1 ≤ o.fmt ∧ o.fmt ≤ 0x12 ∧ 1 ≤ o.rank ∧ o.rank ≤ 6 ∧ o.life ≤ 1 ∧ (o.qaxis < o.rank ∨ o.qaxis = 7) ∧
    imageBits s a 61 1 = 0 ∧ imageBits s a 32 11 = 0 ∧ imageBits s a 0 16 = 0 ∧ (o.kind = 1 → o.home < 2 ^ 35) ∧
    (∀ i, i < 6 → (o.rank ≤ i → imageField s a (0x10 + 4 * i) 4 = 0) ∧ imageField s a (0x2E + 8 * i) 2 = 0) ∧
    imageField s a 0x59 7 = 0 ∧ imageField s a 0x64 4 = 0 ∧ imageField s a 0x70 16 = 0 ∧
    (step ≠ 1 → o.strides.getLastD 0 = 1 ∧ o.dims.getLastD 0 % step = 0 ∧ ∀ t ∈ o.strides.dropLast, t % step = 0)
/-- The bytes that an extent of an entry takes: from its first element to its last. -/
def extentBytes (o : ObjEntry) : Nat :=
  if 0 ∈ o.dims then 0 else ((List.zipWith (fun d t => (d - 1) * t) o.dims o.strides).sum * elemBits o.fmt + elemBits o.fmt + 7) / 8

/-- Apart from the answer of a command, t is u. -/
def apartFromAnswer (u t : State) : Prop := { t with tier2 := u.tier2, badTier2 := u.badTier2, freeCtr := u.freeCtr } = u

end Sys2Proof.Spec

open Sys2Proof Sys2Proof.Machine Sys2Proof.Spec

/-- RING_POLL takes TAIL from the ring, and answers 1 to a slot whose OP is no command's; so does each command to a reserved field that is not zero, and OCREATE to
index 0, to an image with reserved values and, of KIND 01, for a stack that there is not, all without effect (what is a bad field of OCREATE is log 66's reading).
OCREATE of a legal image of KIND 10 or 11 defines an empty entry, of KIND 01 it also allocates the extent, whose handle it writes into HOME and RESULT, or answers 3
where the stack has no room for it (4 where its prefect is in reset, the model's choice, log 66); for a used entry it answers 2. That the handle is the stack's next
one, counted up by one, is the model's choice (log 12; R310 lets the prefect choose). ODESTROY empties an entry whose
in-flight count is zero and frees its extent, which then reads zero (the model's unlisted byte, log 2), and waits otherwise; OLIFE rewrites LIFE and DEADLINE; both
answer 2 for an empty entry (R59, R309 to R311). -/
def Obligations.RingCommandsKeepTheObjectTable : Prop :=
  (∀ (s : State) (hl t0 : Nat), hl < 8 → (s.head hl).down = false → t2Nat s (Config.ringBase hl) 8 = t0 →
    (t0 ≤ t2Nat s (Config.ringBase hl + 8) 8 ∨ t2Nat s (ringSlot hl (t2Nat s (Config.ringBase hl + 8) 8)) 8 / 2 ^ 56 ∈
      [0x01, 0x02, 0x03, 0x04, 0x05, 0x06, 0x07, 0x08, 0x10, 0x11, 0x12, 0x13, 0x14, 0x15]) →
    exec (.ringPoll hl) s = .next (if t0 = (s.head hl).tail then s else s.setHead hl { s.head hl with tail := t0 })) ∧
  (∀ (s : State) (hl k t0 : Nat), hl < 8 → (s.head hl).down = false → t2Nat s (Config.ringBase hl) 8 = t0 → t2Nat s (Config.ringBase hl + 8) 8 = k → k < t0 →
    t2Nat s (ringSlot hl k) 8 / 2 ^ 56 ∉ (ringTable 0).map (·.2) →
    ∃ t, exec (.ringPoll hl) s = .next t ∧ answered s t hl k 1 none ∧ apartFromAnswer (s.setHead hl { s.head hl with tail := t0 }) t) ∧
  (∀ (s : State) (hl k op ctx obj tgt low a b : Nat) (e : Nat → Instr), (e, op) ∈ ringTable b → commandLow s hl k op ctx obj tgt low a b → low ≠ 0 →
    ∃ t, exec (e hl) s = .next t ∧ answered s t hl k 1 none ∧ apartFromAnswer s t) ∧
  (∀ (s : State) (hl k ctx obj tgt a b : Nat), command s hl k 0x01 ctx obj tgt a b →
    (obj = 0 ∨ ¬ imageLegal s a ∨ ((entryOf58 s a).kind = 1 ∧ 8 ≤ tgt)) →
    ∃ t, exec (.ocreate hl) s = .next t ∧ answered s t hl k 1 none ∧ apartFromAnswer s t) ∧
  ∀ (s : State) (hl k ctx obj tgt a b : Nat) (o : ObjEntry), obj ≠ 0 → (s.context ctx).objs.get {} obj = o →
    (command s hl k 0x01 ctx obj tgt a b →
      (o.kind = 0 → imageLegal s a → (entryOf58 s a).kind = 1 → tgt < 8 →
        ((s.head tgt).down = true → ∃ t, exec (.ocreate hl) s = .next t ∧ answered s t hl k 4 none ∧ apartFromAnswer s t) ∧
        ((s.head tgt).down = false → s.usable tgt < s.allocated tgt + extentBytes (entryOf58 s a) →
          ∃ t, exec (.ocreate hl) s = .next t ∧ answered s t hl k 3 none ∧ apartFromAnswer s t) ∧
        ((s.head tgt).down = false → s.allocated tgt + extentBytes (entryOf58 s a) ≤ s.usable tgt →
          ∃ t, exec (.ocreate hl) s = .next t ∧ answered s t hl k 0 (some (s.head tgt).nextHandle) ∧
            (t.context ctx).objs.get {} obj = { entryOf58 s a with home := tgt * 2 ^ 32 + (s.head tgt).nextHandle } ∧
            (t.head tgt).nextHandle = (s.head tgt).nextHandle + 1 ∧
            (∀ n, n ≠ obj → (t.context ctx).objs.get {} n = (s.context ctx).objs.get {} n) ∧ t.cores = s.cores ∧ t.tier1 = s.tier1)) ∧
      (o.kind ≠ 0 → imageLegal s a → ((entryOf58 s a).kind = 1 → tgt < 8) →
        ∃ t, exec (.ocreate hl) s = .next t ∧ answered s t hl k 2 none ∧ apartFromAnswer s t) ∧
      (o.kind = 0 → imageLegal s a → 1 < (entryOf58 s a).kind →
        ∃ t, exec (.ocreate hl) s = .next t ∧ answered s t hl k 0 none ∧ (t.context ctx).objs.get {} obj = entryOf58 s a ∧
          (∀ n, n ≠ obj → (t.context ctx).objs.get {} n = (s.context ctx).objs.get {} n) ∧ t.cores = s.cores ∧ t.tier1 = s.tier1)) ∧
    (command s hl k 0x02 ctx obj tgt a b →
      (o.kind = 0 → ∃ t, exec (.odestroy hl) s = .next t ∧ answered s t hl k 2 none ∧ apartFromAnswer s t) ∧
      (o.kind ≠ 0 → (s.context ctx).counts.get 0 obj ≠ 0 → exec (.odestroy hl) s = .next s) ∧
      (o.kind ≠ 0 → (s.context ctx).counts.get 0 obj = 0 →
        ∃ t, exec (.odestroy hl) s = .next t ∧ answered s t hl k 0 none ∧ (t.context ctx).objs.get {} obj = {} ∧
          (∀ n, n ≠ obj → (t.context ctx).objs.get {} n = (s.context ctx).objs.get {} n) ∧
          (o.kind = 1 → ∀ off, t.byte (.tier1 (bits o.home 34 32) (bits o.home 31 0) off) = 0))) ∧
    (command s hl k 0x03 ctx obj tgt a b → a < 2 →
      (o.kind = 0 → ∃ t, exec (.olife hl) s = .next t ∧ answered s t hl k 2 none ∧ apartFromAnswer s t) ∧
      (o.kind ≠ 0 → (s.context ctx).counts.get 0 obj = 0 →
        ∃ t, exec (.olife hl) s = .next t ∧ answered s t hl k 0 none ∧ (t.context ctx).objs.get {} obj = { o with life := a, deadline := b } ∧
          ∀ n, n ≠ obj → (t.context ctx).objs.get {} n = (s.context ctx).objs.get {} n))

/-- The other commands of a ring, each with its effect and its answer (1 without effect for an argument that the table does not give it, as log 66 reads it, 4 where
the headland it concerns is in reset: R314, log 66): SCRUB corrects the correctable errors of its range, base ARGA and size ARGB (the model's choice, log 25), and
answers their number; RETEN; THERM below 2^16, CAPREP; SPARE a row while a spare is left, else 3; SCAN of a page; TRACE; BIND and unbind; RETIRE; T2OFF of a site
that no table maps and T2ON with the bytes installed; FWSW of an image that verifies, of the standby registrar for kind 1, else 4 (R99, R154, R306, R309, R310, R316,
R318 to R320). The unit and kind numbers of FWSW, kind 1 as the standby registrar's whatever HL says (log 24), STATUS 4 for an image that does not verify, SCAN of
the page that holds ARGA, TRACE's count from zero, BIND of a context that has a page, with the completions that stay with it, and T2ON of a site that is on (log 66)
are the model's choices. -/
def Obligations.RingCommandsActAndAnswer : Prop :=
  (∀ (s : State) (hl k op ctx obj tgt a b : Nat) (e : Nat → Instr), (e, op) ∈ ringTable b → command s hl k op ctx obj tgt a b → badArgument s.skuC op tgt a b →
    ∃ t, exec (e hl) s = .next t ∧ answered s t hl k 1 none ∧ apartFromAnswer s t) ∧
  ∀ (s : State) (hl k ctx obj tgt a b : Nat), tgt < 8 →
    ((s.head tgt).down = true → ∀ e op, (e, op) ∈ ringWords → command s hl k op ctx obj tgt a b → (op = 0x05 → b < 2 ∧ a < 2 ^ 32) → (op = 0x11 → b % 4096 = 0) →
      (op = 0x15 → a < 4) → ∃ t, exec (e hl) s = .next t ∧ answered s t hl k 4 none ∧ apartFromAnswer s t) ∧
    (command s hl k 0x04 ctx obj tgt a b → (s.head tgt).down = false → ∀ l, l = s.softTier1.filter (fun e => e.1 / 2 ^ 32 == tgt && (List.range 8).any fun i =>
        decide (a ≤ Config.stackByte tgt (e.1 % 2 ^ 32) (8 * e.2 + i) ∧ Config.stackByte tgt (e.1 % 2 ^ 32) (8 * e.2 + i) < a + b)) →
      ∃ t, exec (.scrub hl) s = .next t ∧ answered s t hl k 0 (some l.length) ∧ t.softTier1 = s.softTier1.filter (fun e => !l.contains e) ∧
        t.cores = s.cores ∧ t.tier1 = s.tier1 ∧ (l = [] → apartFromAnswer s t)) ∧
    (command s hl k 0x08 ctx obj tgt a b → (s.head tgt).down = false → ∃ t, exec (.reten hl) s = .next t ∧ answered s t hl k 0 none ∧ apartFromAnswer s t) ∧
    (command s hl k 0x07 ctx obj tgt a b → (s.head tgt).down = false → ∃ t v, exec (.therm hl) s = .next t ∧ v < 65536 ∧ answered s t hl k 0 (some v) ∧ apartFromAnswer s t) ∧
    (command s hl k 0x06 ctx obj tgt a b → (s.head tgt).down = false → ∃ t, exec (.caprep hl) s = .next t ∧ answered s t hl k 0 (some (s.usable tgt)) ∧ apartFromAnswer s t) ∧
    (command s hl k 0x05 ctx obj tgt a b → (s.head tgt).down = false → b = 0 → a < 2 ^ 32 →
      ((s.head tgt).sparedRows.length < Config.spareRows tgt →
        ∃ t, exec (.spare hl) s = .next t ∧ answered s t hl k 0 none ∧ (t.head tgt).sparedRows = (s.head tgt).sparedRows ++ [a % 256 * 2 ^ 24 + a / 256]) ∧
      (Config.spareRows tgt ≤ (s.head tgt).sparedRows.length →
        ∃ t, exec (.spare hl) s = .next t ∧ answered s t hl k 3 none ∧ apartFromAnswer s t)) ∧
    (command s hl k 0x10 ctx obj tgt a b → ∃ t r, exec (.scan hl) s = .next t ∧ answered s t hl k 0 (some r) ∧ apartFromAnswer s t ∧
      ((∀ i, i < 512 → scan (BitVec.ofNat 64 (t2Nat s (a / 4096 * 4096 + 8 * i) 8)) = 0) → r = 0) ∧
      ∀ i, i < 512 → scan (BitVec.ofNat 64 (t2Nat s (a / 4096 * 4096 + 8 * i) 8)) ≠ 0 →
        (∀ j, j < i → scan (BitVec.ofNat 64 (t2Nat s (a / 4096 * 4096 + 8 * j) 8)) = 0) →
        r = 2 ^ 16 + scan (BitVec.ofNat 64 (t2Nat s (a / 4096 * 4096 + 8 * i) 8)) * 2 ^ 12 + i) ∧
    (command s hl k 0x11 ctx obj tgt a b → (s.head tgt).down = false → b % 4096 = 0 → ∃ t, exec (.trace hl) s = .next t ∧ answered s t hl k 0 none ∧
      (t.head tgt).traceBase = a ∧ (t.head tgt).traceSize = b ∧ (t.head tgt).traceCount = 0) ∧
    (command s hl k 0x12 ctx obj tgt a b →
      (a < 256 → (s.page a).bound = none → ∃ t, exec (.bind hl) s = .next t ∧ answered s t hl k 0 none ∧ (t.page a).bound = some ctx ∧
        ∀ n, n ≠ a → (t.page n).bound ≠ some ctx) ∧
      (∀ c, a < 256 → (s.page a).bound = some c → c ≠ ctx → ∃ t, exec (.bind hl) s = .next t ∧ answered s t hl k 2 none ∧ apartFromAnswer s t) ∧
      (a = 0xFFFF → ∃ t, exec (.bind hl) s = .next t ∧ answered s t hl k 0 none ∧ (∀ n, (t.page n).bound ≠ some ctx) ∧
        ∀ n p, s.pages = [(n, p)] → p.bound = some ctx → (t.context ctx).compHeld = p.comp ++ p.waiting ++ (s.context ctx).compHeld)) ∧
    (command s hl k 0x13 ctx obj tgt a b → coreId a = true → ∃ t, exec (.retire hl) s = .next t ∧ answered s t hl k 0 none ∧
      t.core a = { s.core a with retiring := true }) ∧
    (command s hl k 0x14 ctx obj tgt a b → a < (if s.skuC then 8 else 16) →
      (b = 0 → s.siteMapped a = false → ∃ t, exec (.t2off hl) s = .next t ∧ answered s t hl k 0 none ∧ a ∈ t.t2off) ∧
      (b = 0 → s.siteMapped a = true → ∃ t, exec (.t2off hl) s = .next t ∧ answered s t hl k 2 none ∧ apartFromAnswer s t) ∧
      (b = 1 → a ∉ s.t2off → ∃ t, exec (.t2on hl) s = .next t ∧ answered s t hl k 0 (some (s.installed a)) ∧ apartFromAnswer s t) ∧
      (b = 1 → a ∈ s.t2off → ∃ t, exec (.t2on hl) s = .next t ∧ answeredBut (fun pa => bits pa 43 40 ≠ a) s t hl k 0 (some (s.installed a)) ∧ a ∉ t.t2off ∧
        ∀ n, n ≠ a → (n ∈ t.t2off ↔ n ∈ s.t2off))) ∧
    (command s hl k 0x15 ctx obj tgt a b → (s.head tgt).down = false → a < 4 → ∀ u, u = (if a = 1 then (if s.standby then 0 else 4) * 4 + 1 else 4 * tgt + a) →
      (Config.imageVerified u (1 - s.images.get 0 u) = true →
        ∃ t, exec (.fwsw hl) s = .next t ∧ answered s t hl k 0 none ∧ a ∈ (t.head tgt).fwPending) ∧
      (Config.imageVerified u (1 - s.images.get 0 u) = false →
        ∃ t, exec (.fwsw hl) s = .next t ∧ answered s t hl k 4 none ∧ apartFromAnswer s t))

namespace Sys2Proof.Spec
open Sys2Proof.Machine

/-- Every memory of the package in canonical form: tier-2, host memory, the tensor-store extents, the scratchpads and the bank groups that save areas keep. -/
def memoriesCanonical (s : State) : Prop :=
  Memory.wf s.tier2 = true ∧ Memory.wf s.host = true ∧ (∀ k, Memory.wf (s.tier1.get [] k) = true) ∧
    (∀ c, Memory.wf (s.core c).scratch = true) ∧ ∀ k, Memory.wf (s.bankSaves.get [] k) = true

/-- The opcode bytes of the reserved functions and of class 111 (R97). -/
def reservedOpcode (op : Nat) : Bool :=
  [(0x36, 0x3F), (0x46, 0x5F), (0x65, 0x7F), (0x9E, 0x9F), (0xAC, 0xBF), (0xD5, 0xDF), (0xE0, 0xFF)].any fun e => decide (e.1 ≤ op ∧ op ≤ e.2)

end Sys2Proof.Spec

open Sys2Proof Sys2Proof.Machine Sys2Proof.Spec

/-- For every well-formed instruction word of the table, at every value of every operand, decoding its encoding gives it back, and the scanner finds it legal (R87 to
R98). -/
def Obligations.EncodedInstructionsDecodeBack : Prop :=
  ∀ (i : Instr) (w : W64), encode i = some w → i.wellFormed = true → decode w = some i ∧ scan w = 0

/-- A word decodes exactly where the scanner finds it legal, to a well-formed instruction that it encodes; its class field [47:45] selects its agent: classes 000, 001
and 110 the control core, 010 LD, 011 ST, 100 VX and 101 MX; and no word of class 111 or of a reserved function decodes (R90, R97, R98, R103). -/
def Obligations.DecodedWordsAreLegal : Prop :=
  ∀ w : W64, ((decode w).isSome = true ↔ scan w = 0) ∧ (reservedOpcode (w.extractLsb' 40 8).toNat = true → decode w = none) ∧
    ∀ i : Instr, decode w = some i → i.wellFormed = true ∧ encode i = some w ∧
      match (w.extractLsb' 45 3).toNat with
      | 2 => engineOf i = some .ld
      | 3 => engineOf i = some .st
      | 4 => engineOf i = some .vx
      | 5 => engineOf i = some .mx
      | 7 => False
      | _ => engineOf i = none

/-- Words written out from the encodings of the manual decode to their instructions. -/
def Obligations.WrittenOutWordsDecode : Prop :=
  decode 0x0000_1E39_D000_0003 = some (.shri ⟨0, 0⟩ 7 7 3) ∧
  decode 0x0000_1810_C890_0000 = some (.sel ⟨0, 0⟩ 2 3 4 9) ∧
  decode 0x0000_2529_8080_0008 = some (.ld ⟨0, 0⟩ 5 6 0 2 8) ∧
  decode 0x0000_3319_4000_0003 = some (.qset ⟨0, 0⟩ 3 5 3) ∧
  decode 0x0000_D300_0000_0002 = some (.pgreqOff ⟨0, 0⟩ 2) ∧
  decode 0x0000_D400_0000_0001 = some (.tide ⟨0, 0⟩ 1) ∧
  decode 0x0000_CF01_4000_0000 = some (.coll ⟨0, 0⟩ 5) ∧
  decode 0x0000_D101_4000_0000 = some (.repart ⟨0, 0⟩ 5)

/-- The step of a control core with nothing pending, no wait and no breakpoint runs the instruction that the word at its pc decodes to, one clk on, and releases what
its pops have made room for (R42), with its core's context past the indices where a resumed core was not to stop again (R152); the engines and units move next; in
user mode that word is the executable one of instruction memory. An event of the agenda comes first, after the clk that pass before it, and what it makes room for is
released in the same clk (R42), unless it asserts FREEZE. The schedule itself, one clk a word, the core of cur first and the others after it, and the agenda, is the
model's choice (logs 1, 6 and 27; R44 leaves the order open), and so is that every step ends by leaving the areas of an unretired REPART into which it has written
unspecified (R288, log 56), which is nothing where no REPART is outstanding. -/
def Obligations.StepRunsTheDecodedInstruction : Prop :=
  (∀ (s : State) (w : W64) (i : Instr), s.agenda = [] → s.frozen = false → s.turn = false → s.mayGo s.cur = true → s.ctx.pend = [] →
    (s.core s.cur).bps = [] → s.ctx.wait = none → s.fetch s.cur = .word w → decode w = some i →
    step s = match exec i (s.pass 1) with
      | .next t => .next (t.afterWord s.cur ((s.pass 1).live s.cur)).veil
      | o => o) ∧
  (∀ (s : State) (c : Nat), (s.live c).sup = false → (s.live c).latch = none → (s.live c).pc.toNat < 32768 → ((s.live c).word (s.live c).pc.toNat).st = .exec →
    s.fetch c = .word ((s.live c).word (s.live c).pc.toNat).w) ∧
  ∀ (s : State) (dt : Nat) (i : Instr) (l : List (Nat × Instr)), s.agenda = (dt, i) :: l → s.frozen = false →
    step s = match exec i ({ s with agenda := l }.pass dt) with
      | .next t => .next (if t.frozen then t else t.cores.foldl (fun s e => s.settled e.1) t).veil
      | o => o

/-- Every step keeps every memory in canonical form: addresses strictly rising and no byte listed that an unlisted address reads as. (The form is the model's, log 2.) -/
def Obligations.StepsKeepMemoriesCanonical : Prop :=
  ∀ s t : State, memoriesCanonical s → step s = .next t → memoriesCanonical t

/-- After reset the memories are canonical, CYCLE and TIME are 0, no core is active, no lesson, page, record or chunk exists, instruction memory holds no executable word,
and the registers that reset clears read zero: STATUS, TVEC, TCAUSE, FPSTICKY, VCNT (R26, R101, R119, R120, R153, R314). -/
def Obligations.ResetLeavesAnIdlePackage : Prop :=
  memoriesCanonical State.reset ∧ State.reset.cycle = 0 ∧ State.reset.time6 = 0 ∧ State.reset.frozen = false ∧ State.reset.lessons = [] ∧
    State.reset.pages = [] ∧ State.reset.recs = [] ∧ State.reset.chunks = [] ∧
    ∀ c, (State.reset.core c).active = false ∧ (∀ n, n ∈ [0x000, 0x001, 0x002, 0x030, 0x034] → (State.reset.live c).sr n = 0) ∧
      (∀ i, ((State.reset.live c).word i).st = .nonexec) ∧ (State.reset.live c).inh = false ∧ (State.reset.live c).sup = false
end

