-- ==== Sys2Proof/Laws/Map.lean ====
section
/-! SUPPORT. Laws of finite maps: reading after a write, and the canonical form that every write keeps. -/

namespace Sys2Proof.Machine

theorem SMap.get_put_same {α : Type} (d : α) (m : SMap α) (k : Nat) (v : α) : SMap.get d (SMap.put m k v) k = v := by
  induction m with
  | nil => simp [SMap.put, SMap.get]
  | cons c r ih =>
    simp only [SMap.put]
    split
    · simp [SMap.get]
    · split
      · simp [SMap.get]
      · next h => simp [SMap.get, h, ih]

theorem SMap.get_put_other {α : Type} (d : α) (m : SMap α) {k x : Nat} (v : α) (h : x ≠ k) :
    SMap.get d (SMap.put m k v) x = SMap.get d m x := by
  induction m with
  | nil => simp [SMap.put, SMap.get, h]
  | cons c r ih =>
    simp only [SMap.put]
    split
    · simp [SMap.get, h]
    · split
      · next e => subst e; simp [SMap.get, h]
      · simp only [SMap.get]; split <;> simp [ih]

theorem SMap.get_put {α : Type} (d : α) (m : SMap α) (k x : Nat) (v : α) :
    SMap.get d (SMap.put m k v) x = if x = k then v else SMap.get d m x := by
  split
  · next h => subst h; exact SMap.get_put_same d m x v
  · next h => exact SMap.get_put_other d m v h

theorem SMap.get_filter {α : Type} (d : α) (m : SMap α) (p : Nat × α → Bool) (x : Nat) (h : ∀ v, p (x, v) = true) :
    SMap.get d (m.filter p) x = SMap.get d m x := by
  induction m with
  | nil => rfl
  | cons c r ih =>
    by_cases hc : p c = true
    · simp [List.filter_cons_of_pos hc, SMap.get, ih]
    · have : x ≠ c.1 := by rintro rfl; exact hc (h c.2)
      simp [List.filter_cons_of_neg hc, SMap.get, this, ih]

theorem SMap.get_none {α : Type} (d : α) (m : SMap α) (x : Nat) (h : ∀ c ∈ m, c.1 ≠ x) : SMap.get d m x = d := by
  induction m with
  | nil => rfl
  | cons c r ih =>
    have h1 := h c (by simp)
    simp only [SMap.get, if_neg (Ne.symm h1)]
    exact ih fun e he => h e (by simp [he])

theorem SMap.get_erase {α : Type} (d : α) (m : SMap α) (k x : Nat) :
    SMap.get d (SMap.erase m k) x = if x = k then d else SMap.get d m x := by
  split
  · next h =>
    subst h
    apply SMap.get_none
    intro c hc; simp [SMap.erase] at hc; exact hc.2
  · next h => exact SMap.get_filter d m _ x (fun v => by simpa using h)

theorem SMap.get_set {α : Type} [DecidableEq α] (d : α) (m : SMap α) (k x : Nat) (v : α) :
    SMap.get d (SMap.set d m k v) x = if x = k then v else SMap.get d m x := by
  unfold SMap.set
  split
  · next h => subst h; exact SMap.get_erase v m k x
  · exact SMap.get_put d m k x v

/-! ## The canonical form -/

theorem SMap.rising_mono {α : Type} (m : SMap α) {a b : Nat} (h : a ≤ b) (hm : SMap.risingFrom (some b) m = true) :
    SMap.risingFrom (some a) m = true := by
  cases m with
  | nil => rfl
  | cons c r =>
    simp only [SMap.risingFrom, Bool.and_eq_true, decide_eq_true_eq] at hm ⊢
    exact ⟨by omega, hm.2⟩

theorem SMap.rising_none {α : Type} (m : SMap α) {a : Nat} (hm : SMap.risingFrom (some a) m = true) :
    SMap.risingFrom none m = true := by
  cases m with
  | nil => rfl
  | cons c r => simp only [SMap.risingFrom, Bool.and_eq_true] at hm ⊢; exact ⟨trivial, hm.2⟩

theorem SMap.rising_lt {α : Type} (m : SMap α) {a : Nat} (hm : SMap.risingFrom (some a) m = true) : ∀ c ∈ m, a < c.1 := by
  induction m generalizing a with
  | nil => simp
  | cons c r ih =>
    simp only [SMap.risingFrom, Bool.and_eq_true, decide_eq_true_eq] at hm
    intro e he
    rcases List.mem_cons.mp he with rfl | he
    · exact hm.1
    · exact Nat.lt_trans hm.1 (ih hm.2 e he)

theorem SMap.rising_put {α : Type} (m : SMap α) (k : Nat) (v : α) {lo : Option Nat} (hl : ∀ a, lo = some a → a < k)
    (hm : SMap.risingFrom lo m = true) : SMap.risingFrom lo (SMap.put m k v) = true := by
  induction m generalizing lo with
  | nil => cases lo with
    | none => rfl
    | some a => simp [SMap.put, SMap.risingFrom, hl a rfl]
  | cons c r ih =>
    simp only [SMap.risingFrom, Bool.and_eq_true] at hm
    simp only [SMap.put]
    split
    · next h =>
      simp only [SMap.risingFrom, Bool.and_eq_true, decide_eq_true_eq]
      refine ⟨?_, h, hm.2⟩
      cases lo with
      | none => trivial
      | some a => simpa using hl a rfl
    · split
      · next h => subst h; simp only [SMap.risingFrom, Bool.and_eq_true]; exact hm
      · next h1 h2 =>
        simp only [SMap.risingFrom, Bool.and_eq_true]
        refine ⟨hm.1, ih ?_ hm.2⟩
        intro a ha; cases ha; omega

theorem SMap.rising_filter {α : Type} (m : SMap α) (p : Nat × α → Bool) {lo : Option Nat} (hm : SMap.risingFrom lo m = true) :
    SMap.risingFrom lo (m.filter p) = true := by
  induction m generalizing lo with
  | nil => simpa using hm
  | cons c r ih =>
    simp only [SMap.risingFrom, Bool.and_eq_true] at hm
    by_cases hc : p c = true
    · simp only [List.filter_cons_of_pos hc, SMap.risingFrom, Bool.and_eq_true]; exact ⟨hm.1, ih hm.2⟩
    · rw [List.filter_cons_of_neg hc]
      have h2 := ih hm.2
      cases lo with
      | none => exact SMap.rising_none _ h2
      | some a => exact SMap.rising_mono _ (Nat.le_of_lt (by simpa using hm.1)) h2

theorem SMap.mem_put {α : Type} (m : SMap α) (k : Nat) (v : α) : ∀ c ∈ SMap.put m k v, c = (k, v) ∨ c ∈ m := by
  induction m with
  | nil => intro c hc; simpa [SMap.put] using hc
  | cons e r ih =>
    intro c hc
    simp only [SMap.put] at hc
    split at hc
    · rcases List.mem_cons.mp hc with h | h
      · exact .inl h
      · exact .inr h
    · split at hc
      · rcases List.mem_cons.mp hc with h | h
        · exact .inl h
        · exact .inr (List.mem_cons_of_mem _ h)
      · rcases List.mem_cons.mp hc with h | h
        · exact .inr (by simp [h])
        · rcases ih c h with h | h
          · exact .inl h
          · exact .inr (List.mem_cons_of_mem _ h)

theorem SMap.wf_iff {α : Type} [DecidableEq α] (d : α) (m : SMap α) :
    SMap.wf d m = true ↔ SMap.risingFrom none m = true ∧ ∀ c ∈ m, c.2 ≠ d := by
  simp [SMap.wf, List.all_eq_true]

theorem SMap.wf_nil {α : Type} [DecidableEq α] (d : α) : SMap.wf d [] = true := rfl

theorem SMap.wf_filter {α : Type} [DecidableEq α] (d : α) (m : SMap α) (p : Nat × α → Bool) (h : SMap.wf d m = true) :
    SMap.wf d (m.filter p) = true := by
  rw [SMap.wf_iff] at h ⊢
  exact ⟨SMap.rising_filter m p h.1, fun c hc => h.2 c (List.mem_of_mem_filter hc)⟩

/-- The canonical write keeps the canonical form. -/
theorem SMap.wf_set {α : Type} [DecidableEq α] (d : α) (m : SMap α) (k : Nat) (v : α) (h : SMap.wf d m = true) :
    SMap.wf d (SMap.set d m k v) = true := by
  unfold SMap.set
  split
  · exact SMap.wf_filter d m _ h
  · next hv =>
    rw [SMap.wf_iff] at h ⊢
    refine ⟨SMap.rising_put m k v (by intro a ha; cases ha) h.1, fun c hc => ?_⟩
    rcases SMap.mem_put m k v c hc with rfl | hc
    · exact hv
    · exact h.2 c hc

theorem SMap.rising_append {α : Type} (a b : SMap α) {lo : Option Nat} {n : Nat} (ha : SMap.risingFrom lo a = true)
    (hl : ∀ c ∈ a, c.1 < n) (hlo : ∀ x, lo = some x → x < n) (hb : SMap.risingFrom none b = true) (hr : ∀ c ∈ b, n ≤ c.1) :
    SMap.risingFrom lo (a ++ b) = true := by
  induction a generalizing lo with
  | nil =>
    cases b with
    | nil => rfl
    | cons c r =>
      simp only [List.nil_append, SMap.risingFrom, Bool.and_eq_true] at hb ⊢
      refine ⟨?_, hb.2⟩
      cases lo with
      | none => trivial
      | some x =>
        have h1 := hlo x rfl
        have h2 := hr c (by simp)
        simp only [decide_eq_true_eq]; omega
  | cons c r ih =>
    simp only [List.cons_append, SMap.risingFrom, Bool.and_eq_true] at ha ⊢
    exact ⟨ha.1, ih ha.2 (fun e he => hl e (by simp [he])) (by intro x hx; cases hx; exact hl c (by simp))⟩

/-- Canonical maps below and from n on, joined. -/
theorem SMap.wf_append {α : Type} [DecidableEq α] (d : α) (a b : SMap α) (n : Nat) (ha : SMap.wf d a = true) (hb : SMap.wf d b = true)
    (hl : ∀ c ∈ a, c.1 < n) (hr : ∀ c ∈ b, n ≤ c.1) : SMap.wf d (a ++ b) = true := by
  rw [SMap.wf_iff] at *
  refine ⟨SMap.rising_append a b ha.1 hl (by intro x hx; cases hx) hb.1 hr, fun c hc => ?_⟩
  rcases List.mem_append.mp hc with h | h
  · exact ha.2 c h
  · exact hb.2 c h

/-- The entries that a function gives for a run of keys are canonical. -/
theorem SMap.wf_run {α : Type} [DecidableEq α] (d : α) (f : Nat → α) (lo n : Nat) :
    SMap.wf d ((List.range n).filterMap fun i => if f i = d then none else some (lo + i, f i)) = true ∧
    ∀ c ∈ (List.range n).filterMap (fun i => if f i = d then none else some (lo + i, f i)), lo ≤ c.1 ∧ c.1 < lo + n := by
  induction n with
  | zero => exact ⟨rfl, by simp⟩
  | succ n ih =>
    rw [List.range_succ, List.filterMap_append]
    by_cases h : f n = d
    · simp only [List.filterMap_cons, h, if_true, List.filterMap_nil, List.append_nil]
      exact ⟨ih.1, fun c hc => ⟨(ih.2 c hc).1, by have := (ih.2 c hc).2; omega⟩⟩
    · simp only [List.filterMap_cons, h, if_false, List.filterMap_nil]
      constructor
      · refine SMap.wf_append d _ _ (lo + n) ih.1 ?_ (fun c hc => (ih.2 c hc).2) (by simp)
        rw [SMap.wf_iff]; exact ⟨rfl, by simpa using h⟩
      · intro c hc
        rcases List.mem_append.mp hc with h1 | h1
        · exact ⟨(ih.2 c h1).1, by have := (ih.2 c h1).2; omega⟩
        · simp at h1; subst h1; simp

/-- Filling a run of keys keeps the canonical form. -/
theorem SMap.wf_fill {α : Type} [DecidableEq α] (d : α) (m : SMap α) (lo n : Nat) (f : Nat → α) (h : SMap.wf d m = true) :
    SMap.wf d (SMap.fill d m lo n f) = true := by
  unfold SMap.fill
  have hr := SMap.wf_run d f lo n
  refine SMap.wf_append d _ _ (lo + n) (SMap.wf_append d _ _ lo (SMap.wf_filter d m _ h) hr.1 ?_ fun c hc => (hr.2 c hc).1)
    (SMap.wf_filter d m _ h) ?_ ?_
  · intro c hc; simpa using (List.mem_filter.mp hc).2
  · intro c hc
    rcases List.mem_append.mp hc with h1 | h1
    · have : c.1 < lo := by simpa using (List.mem_filter.mp h1).2
      omega
    · exact (hr.2 c h1).2
  · intro c hc; simpa using (List.mem_filter.mp hc).2

end Sys2Proof.Machine
end

