-- ==== Sys2Proof/Laws/State.lean ====
section
/-! SUPPORT. One lemma for each field and each update of the state, so that no proof unfolds a record update. -/

namespace Sys2Proof.Machine

@[simp] theorem State.setCore_cur (s : State) (c : Nat) (k : Core) : (s.setCore c k).cur = s.cur := rfl
@[simp] theorem State.setCore_turn (s : State) (c : Nat) (k : Core) : (s.setCore c k).turn = s.turn := rfl
@[simp] theorem State.setCore_agenda (s : State) (c : Nat) (k : Core) : (s.setCore c k).agenda = s.agenda := rfl
@[simp] theorem State.setCore_freeCtr (s : State) (c : Nat) (k : Core) : (s.setCore c k).freeCtr = s.freeCtr := rfl
@[simp] theorem State.setCore_cycle (s : State) (c : Nat) (k : Core) : (s.setCore c k).cycle = s.cycle := rfl
@[simp] theorem State.setCore_time6 (s : State) (c : Nat) (k : Core) : (s.setCore c k).time6 = s.time6 := rfl
@[simp] theorem State.setCore_timeAdj (s : State) (c : Nat) (k : Core) : (s.setCore c k).timeAdj = s.timeAdj := rfl
@[simp] theorem State.setCore_ebb (s : State) (c : Nat) (k : Core) : (s.setCore c k).ebb = s.ebb := rfl
@[simp] theorem State.setCore_contexts (s : State) (c : Nat) (k : Core) : (s.setCore c k).contexts = s.contexts := rfl
@[simp] theorem State.setCore_saves (s : State) (c : Nat) (k : Core) : (s.setCore c k).saves = s.saves := rfl
@[simp] theorem State.setCore_slewRem (s : State) (c : Nat) (k : Core) : (s.setCore c k).slewRem = s.slewRem := rfl
@[simp] theorem State.setCore_tideHalf (s : State) (c : Nat) (k : Core) : (s.setCore c k).tideHalf = s.tideHalf := rfl
@[simp] theorem State.setCore_phase (s : State) (c : Nat) (k : Core) : (s.setCore c k).phase = s.phase := rfl
@[simp] theorem State.setCore_softTier1 (s : State) (c : Nat) (k : Core) : (s.setCore c k).softTier1 = s.softTier1 := rfl
@[simp] theorem State.setCore_bankSaves (s : State) (c : Nat) (k : Core) : (s.setCore c k).bankSaves = s.bankSaves := rfl
@[simp] theorem State.setCore_lessons (s : State) (c : Nat) (k : Core) : (s.setCore c k).lessons = s.lessons := rfl
@[simp] theorem State.setCore_lastAdmitted (s : State) (c : Nat) (k : Core) : (s.setCore c k).lastAdmitted = s.lastAdmitted := rfl
@[simp] theorem State.setCore_standby (s : State) (c : Nat) (k : Core) : (s.setCore c k).standby = s.standby := rfl
@[simp] theorem State.setCore_heads (s : State) (c : Nat) (k : Core) : (s.setCore c k).heads = s.heads := rfl
@[simp] theorem State.setCore_pages (s : State) (c : Nat) (k : Core) : (s.setCore c k).pages = s.pages := rfl
@[simp] theorem State.setCore_tier2 (s : State) (c : Nat) (k : Core) : (s.setCore c k).tier2 = s.tier2 := rfl
@[simp] theorem State.setCore_host (s : State) (c : Nat) (k : Core) : (s.setCore c k).host = s.host := rfl
@[simp] theorem State.setCore_tier1 (s : State) (c : Nat) (k : Core) : (s.setCore c k).tier1 = s.tier1 := rfl
@[simp] theorem State.setCore_badTier2 (s : State) (c : Nat) (k : Core) : (s.setCore c k).badTier2 = s.badTier2 := rfl
@[simp] theorem State.setCore_badHost (s : State) (c : Nat) (k : Core) : (s.setCore c k).badHost = s.badHost := rfl
@[simp] theorem State.setCore_badTier1 (s : State) (c : Nat) (k : Core) : (s.setCore c k).badTier1 = s.badTier1 := rfl
@[simp] theorem State.setCore_skuC (s : State) (c : Nat) (k : Core) : (s.setCore c k).skuC = s.skuC := rfl
@[simp] theorem State.setCore_t2cap (s : State) (c : Nat) (k : Core) : (s.setCore c k).t2cap = s.t2cap := rfl
@[simp] theorem State.setCore_t2off (s : State) (c : Nat) (k : Core) : (s.setCore c k).t2off = s.t2off := rfl
@[simp] theorem State.setCore_ticketBy (s : State) (c : Nat) (k : Core) : (s.setCore c k).ticketBy = s.ticketBy := rfl
@[simp] theorem State.setCore_recs (s : State) (c : Nat) (k : Core) : (s.setCore c k).recs = s.recs := rfl
@[simp] theorem State.setCore_nextRid (s : State) (c : Nat) (k : Core) : (s.setCore c k).nextRid = s.nextRid := rfl
@[simp] theorem State.setCore_chunks (s : State) (c : Nat) (k : Core) : (s.setCore c k).chunks = s.chunks := rfl
@[simp] theorem State.setCore_nextCid (s : State) (c : Nat) (k : Core) : (s.setCore c k).nextCid = s.nextCid := rfl
@[simp] theorem State.setCore_fabricOut (s : State) (c : Nat) (k : Core) : (s.setCore c k).fabricOut = s.fabricOut := rfl
@[simp] theorem State.setCore_links (s : State) (c : Nat) (k : Core) : (s.setCore c k).links = s.links := rfl
@[simp] theorem State.setCore_hostUp (s : State) (c : Nat) (k : Core) : (s.setCore c k).hostUp = s.hostUp := rfl
@[simp] theorem State.setCore_hostLanes (s : State) (c : Nat) (k : Core) : (s.setCore c k).hostLanes = s.hostLanes := rfl
@[simp] theorem State.setCore_hostRate (s : State) (c : Nat) (k : Core) : (s.setCore c k).hostRate = s.hostRate := rfl
@[simp] theorem State.setCore_msi (s : State) (c : Nat) (k : Core) : (s.setCore c k).msi = s.msi := rfl
@[simp] theorem State.setCore_frozen (s : State) (c : Nat) (k : Core) : (s.setCore c k).frozen = s.frozen := rfl
@[simp] theorem State.setCore_images (s : State) (c : Nat) (k : Core) : (s.setCore c k).images = s.images := rfl
@[simp] theorem State.setCore_report (s : State) (c : Nat) (k : Core) : (s.setCore c k).report = s.report := rfl

@[simp] theorem State.setLive_cur (s : State) (c : Nat) (x : Ctx) : (s.setLive c x).cur = s.cur := rfl
@[simp] theorem State.setLive_turn (s : State) (c : Nat) (x : Ctx) : (s.setLive c x).turn = s.turn := rfl
@[simp] theorem State.setLive_agenda (s : State) (c : Nat) (x : Ctx) : (s.setLive c x).agenda = s.agenda := rfl
@[simp] theorem State.setLive_freeCtr (s : State) (c : Nat) (x : Ctx) : (s.setLive c x).freeCtr = s.freeCtr := rfl
@[simp] theorem State.setLive_cycle (s : State) (c : Nat) (x : Ctx) : (s.setLive c x).cycle = s.cycle := rfl
@[simp] theorem State.setLive_time6 (s : State) (c : Nat) (x : Ctx) : (s.setLive c x).time6 = s.time6 := rfl
@[simp] theorem State.setLive_timeAdj (s : State) (c : Nat) (x : Ctx) : (s.setLive c x).timeAdj = s.timeAdj := rfl
@[simp] theorem State.setLive_ebb (s : State) (c : Nat) (x : Ctx) : (s.setLive c x).ebb = s.ebb := rfl
@[simp] theorem State.setLive_contexts (s : State) (c : Nat) (x : Ctx) : (s.setLive c x).contexts = s.contexts := rfl
@[simp] theorem State.setLive_saves (s : State) (c : Nat) (x : Ctx) : (s.setLive c x).saves = s.saves := rfl
@[simp] theorem State.setLive_slewRem (s : State) (c : Nat) (x : Ctx) : (s.setLive c x).slewRem = s.slewRem := rfl
@[simp] theorem State.setLive_tideHalf (s : State) (c : Nat) (x : Ctx) : (s.setLive c x).tideHalf = s.tideHalf := rfl
@[simp] theorem State.setLive_phase (s : State) (c : Nat) (x : Ctx) : (s.setLive c x).phase = s.phase := rfl
@[simp] theorem State.setLive_softTier1 (s : State) (c : Nat) (x : Ctx) : (s.setLive c x).softTier1 = s.softTier1 := rfl
@[simp] theorem State.setLive_bankSaves (s : State) (c : Nat) (x : Ctx) : (s.setLive c x).bankSaves = s.bankSaves := rfl
@[simp] theorem State.setLive_lessons (s : State) (c : Nat) (x : Ctx) : (s.setLive c x).lessons = s.lessons := rfl
@[simp] theorem State.setLive_lastAdmitted (s : State) (c : Nat) (x : Ctx) : (s.setLive c x).lastAdmitted = s.lastAdmitted := rfl
@[simp] theorem State.setLive_standby (s : State) (c : Nat) (x : Ctx) : (s.setLive c x).standby = s.standby := rfl
@[simp] theorem State.setLive_heads (s : State) (c : Nat) (x : Ctx) : (s.setLive c x).heads = s.heads := rfl
@[simp] theorem State.setLive_pages (s : State) (c : Nat) (x : Ctx) : (s.setLive c x).pages = s.pages := rfl
@[simp] theorem State.setLive_tier2 (s : State) (c : Nat) (x : Ctx) : (s.setLive c x).tier2 = s.tier2 := rfl
@[simp] theorem State.setLive_host (s : State) (c : Nat) (x : Ctx) : (s.setLive c x).host = s.host := rfl
@[simp] theorem State.setLive_tier1 (s : State) (c : Nat) (x : Ctx) : (s.setLive c x).tier1 = s.tier1 := rfl
@[simp] theorem State.setLive_badTier2 (s : State) (c : Nat) (x : Ctx) : (s.setLive c x).badTier2 = s.badTier2 := rfl
@[simp] theorem State.setLive_badHost (s : State) (c : Nat) (x : Ctx) : (s.setLive c x).badHost = s.badHost := rfl
@[simp] theorem State.setLive_badTier1 (s : State) (c : Nat) (x : Ctx) : (s.setLive c x).badTier1 = s.badTier1 := rfl
@[simp] theorem State.setLive_skuC (s : State) (c : Nat) (x : Ctx) : (s.setLive c x).skuC = s.skuC := rfl
@[simp] theorem State.setLive_t2cap (s : State) (c : Nat) (x : Ctx) : (s.setLive c x).t2cap = s.t2cap := rfl
@[simp] theorem State.setLive_t2off (s : State) (c : Nat) (x : Ctx) : (s.setLive c x).t2off = s.t2off := rfl
@[simp] theorem State.setLive_ticketBy (s : State) (c : Nat) (x : Ctx) : (s.setLive c x).ticketBy = s.ticketBy := rfl
@[simp] theorem State.setLive_recs (s : State) (c : Nat) (x : Ctx) : (s.setLive c x).recs = s.recs := rfl
@[simp] theorem State.setLive_nextRid (s : State) (c : Nat) (x : Ctx) : (s.setLive c x).nextRid = s.nextRid := rfl
@[simp] theorem State.setLive_chunks (s : State) (c : Nat) (x : Ctx) : (s.setLive c x).chunks = s.chunks := rfl
@[simp] theorem State.setLive_nextCid (s : State) (c : Nat) (x : Ctx) : (s.setLive c x).nextCid = s.nextCid := rfl
@[simp] theorem State.setLive_fabricOut (s : State) (c : Nat) (x : Ctx) : (s.setLive c x).fabricOut = s.fabricOut := rfl
@[simp] theorem State.setLive_links (s : State) (c : Nat) (x : Ctx) : (s.setLive c x).links = s.links := rfl
@[simp] theorem State.setLive_hostUp (s : State) (c : Nat) (x : Ctx) : (s.setLive c x).hostUp = s.hostUp := rfl
@[simp] theorem State.setLive_hostLanes (s : State) (c : Nat) (x : Ctx) : (s.setLive c x).hostLanes = s.hostLanes := rfl
@[simp] theorem State.setLive_hostRate (s : State) (c : Nat) (x : Ctx) : (s.setLive c x).hostRate = s.hostRate := rfl
@[simp] theorem State.setLive_msi (s : State) (c : Nat) (x : Ctx) : (s.setLive c x).msi = s.msi := rfl
@[simp] theorem State.setLive_frozen (s : State) (c : Nat) (x : Ctx) : (s.setLive c x).frozen = s.frozen := rfl
@[simp] theorem State.setLive_images (s : State) (c : Nat) (x : Ctx) : (s.setLive c x).images = s.images := rfl
@[simp] theorem State.setLive_report (s : State) (c : Nat) (x : Ctx) : (s.setLive c x).report = s.report := rfl

@[simp] theorem State.setCtx_cur (s : State) (x : Ctx) : (s.setCtx x).cur = s.cur := rfl
@[simp] theorem State.setCtx_turn (s : State) (x : Ctx) : (s.setCtx x).turn = s.turn := rfl
@[simp] theorem State.setCtx_agenda (s : State) (x : Ctx) : (s.setCtx x).agenda = s.agenda := rfl
@[simp] theorem State.setCtx_freeCtr (s : State) (x : Ctx) : (s.setCtx x).freeCtr = s.freeCtr := rfl
@[simp] theorem State.setCtx_cycle (s : State) (x : Ctx) : (s.setCtx x).cycle = s.cycle := rfl
@[simp] theorem State.setCtx_time6 (s : State) (x : Ctx) : (s.setCtx x).time6 = s.time6 := rfl
@[simp] theorem State.setCtx_timeAdj (s : State) (x : Ctx) : (s.setCtx x).timeAdj = s.timeAdj := rfl
@[simp] theorem State.setCtx_ebb (s : State) (x : Ctx) : (s.setCtx x).ebb = s.ebb := rfl
@[simp] theorem State.setCtx_contexts (s : State) (x : Ctx) : (s.setCtx x).contexts = s.contexts := rfl
@[simp] theorem State.setCtx_saves (s : State) (x : Ctx) : (s.setCtx x).saves = s.saves := rfl
@[simp] theorem State.setCtx_slewRem (s : State) (x : Ctx) : (s.setCtx x).slewRem = s.slewRem := rfl
@[simp] theorem State.setCtx_tideHalf (s : State) (x : Ctx) : (s.setCtx x).tideHalf = s.tideHalf := rfl
@[simp] theorem State.setCtx_phase (s : State) (x : Ctx) : (s.setCtx x).phase = s.phase := rfl
@[simp] theorem State.setCtx_softTier1 (s : State) (x : Ctx) : (s.setCtx x).softTier1 = s.softTier1 := rfl
@[simp] theorem State.setCtx_bankSaves (s : State) (x : Ctx) : (s.setCtx x).bankSaves = s.bankSaves := rfl
@[simp] theorem State.setCtx_lessons (s : State) (x : Ctx) : (s.setCtx x).lessons = s.lessons := rfl
@[simp] theorem State.setCtx_lastAdmitted (s : State) (x : Ctx) : (s.setCtx x).lastAdmitted = s.lastAdmitted := rfl
@[simp] theorem State.setCtx_standby (s : State) (x : Ctx) : (s.setCtx x).standby = s.standby := rfl
@[simp] theorem State.setCtx_heads (s : State) (x : Ctx) : (s.setCtx x).heads = s.heads := rfl
@[simp] theorem State.setCtx_pages (s : State) (x : Ctx) : (s.setCtx x).pages = s.pages := rfl
@[simp] theorem State.setCtx_tier2 (s : State) (x : Ctx) : (s.setCtx x).tier2 = s.tier2 := rfl
@[simp] theorem State.setCtx_host (s : State) (x : Ctx) : (s.setCtx x).host = s.host := rfl
@[simp] theorem State.setCtx_tier1 (s : State) (x : Ctx) : (s.setCtx x).tier1 = s.tier1 := rfl
@[simp] theorem State.setCtx_badTier2 (s : State) (x : Ctx) : (s.setCtx x).badTier2 = s.badTier2 := rfl
@[simp] theorem State.setCtx_badHost (s : State) (x : Ctx) : (s.setCtx x).badHost = s.badHost := rfl
@[simp] theorem State.setCtx_badTier1 (s : State) (x : Ctx) : (s.setCtx x).badTier1 = s.badTier1 := rfl
@[simp] theorem State.setCtx_skuC (s : State) (x : Ctx) : (s.setCtx x).skuC = s.skuC := rfl
@[simp] theorem State.setCtx_t2cap (s : State) (x : Ctx) : (s.setCtx x).t2cap = s.t2cap := rfl
@[simp] theorem State.setCtx_t2off (s : State) (x : Ctx) : (s.setCtx x).t2off = s.t2off := rfl
@[simp] theorem State.setCtx_ticketBy (s : State) (x : Ctx) : (s.setCtx x).ticketBy = s.ticketBy := rfl
@[simp] theorem State.setCtx_recs (s : State) (x : Ctx) : (s.setCtx x).recs = s.recs := rfl
@[simp] theorem State.setCtx_nextRid (s : State) (x : Ctx) : (s.setCtx x).nextRid = s.nextRid := rfl
@[simp] theorem State.setCtx_chunks (s : State) (x : Ctx) : (s.setCtx x).chunks = s.chunks := rfl
@[simp] theorem State.setCtx_nextCid (s : State) (x : Ctx) : (s.setCtx x).nextCid = s.nextCid := rfl
@[simp] theorem State.setCtx_fabricOut (s : State) (x : Ctx) : (s.setCtx x).fabricOut = s.fabricOut := rfl
@[simp] theorem State.setCtx_links (s : State) (x : Ctx) : (s.setCtx x).links = s.links := rfl
@[simp] theorem State.setCtx_hostUp (s : State) (x : Ctx) : (s.setCtx x).hostUp = s.hostUp := rfl
@[simp] theorem State.setCtx_hostLanes (s : State) (x : Ctx) : (s.setCtx x).hostLanes = s.hostLanes := rfl
@[simp] theorem State.setCtx_hostRate (s : State) (x : Ctx) : (s.setCtx x).hostRate = s.hostRate := rfl
@[simp] theorem State.setCtx_msi (s : State) (x : Ctx) : (s.setCtx x).msi = s.msi := rfl
@[simp] theorem State.setCtx_frozen (s : State) (x : Ctx) : (s.setCtx x).frozen = s.frozen := rfl
@[simp] theorem State.setCtx_images (s : State) (x : Ctx) : (s.setCtx x).images = s.images := rfl
@[simp] theorem State.setCtx_report (s : State) (x : Ctx) : (s.setCtx x).report = s.report := rfl

@[simp] theorem State.setContext_cur (s : State) (c : Nat) (x : Context) : (s.setContext c x).cur = s.cur := rfl
@[simp] theorem State.setContext_turn (s : State) (c : Nat) (x : Context) : (s.setContext c x).turn = s.turn := rfl
@[simp] theorem State.setContext_agenda (s : State) (c : Nat) (x : Context) : (s.setContext c x).agenda = s.agenda := rfl
@[simp] theorem State.setContext_freeCtr (s : State) (c : Nat) (x : Context) : (s.setContext c x).freeCtr = s.freeCtr := rfl
@[simp] theorem State.setContext_cycle (s : State) (c : Nat) (x : Context) : (s.setContext c x).cycle = s.cycle := rfl
@[simp] theorem State.setContext_time6 (s : State) (c : Nat) (x : Context) : (s.setContext c x).time6 = s.time6 := rfl
@[simp] theorem State.setContext_timeAdj (s : State) (c : Nat) (x : Context) : (s.setContext c x).timeAdj = s.timeAdj := rfl
@[simp] theorem State.setContext_ebb (s : State) (c : Nat) (x : Context) : (s.setContext c x).ebb = s.ebb := rfl
@[simp] theorem State.setContext_cores (s : State) (c : Nat) (x : Context) : (s.setContext c x).cores = s.cores := rfl
@[simp] theorem State.setContext_saves (s : State) (c : Nat) (x : Context) : (s.setContext c x).saves = s.saves := rfl
@[simp] theorem State.setContext_slewRem (s : State) (c : Nat) (x : Context) : (s.setContext c x).slewRem = s.slewRem := rfl
@[simp] theorem State.setContext_tideHalf (s : State) (c : Nat) (x : Context) : (s.setContext c x).tideHalf = s.tideHalf := rfl
@[simp] theorem State.setContext_phase (s : State) (c : Nat) (x : Context) : (s.setContext c x).phase = s.phase := rfl
@[simp] theorem State.setContext_softTier1 (s : State) (c : Nat) (x : Context) : (s.setContext c x).softTier1 = s.softTier1 := rfl
@[simp] theorem State.setContext_bankSaves (s : State) (c : Nat) (x : Context) : (s.setContext c x).bankSaves = s.bankSaves := rfl
@[simp] theorem State.setContext_lessons (s : State) (c : Nat) (x : Context) : (s.setContext c x).lessons = s.lessons := rfl
@[simp] theorem State.setContext_lastAdmitted (s : State) (c : Nat) (x : Context) : (s.setContext c x).lastAdmitted = s.lastAdmitted := rfl
@[simp] theorem State.setContext_standby (s : State) (c : Nat) (x : Context) : (s.setContext c x).standby = s.standby := rfl
@[simp] theorem State.setContext_heads (s : State) (c : Nat) (x : Context) : (s.setContext c x).heads = s.heads := rfl
@[simp] theorem State.setContext_pages (s : State) (c : Nat) (x : Context) : (s.setContext c x).pages = s.pages := rfl
@[simp] theorem State.setContext_tier2 (s : State) (c : Nat) (x : Context) : (s.setContext c x).tier2 = s.tier2 := rfl
@[simp] theorem State.setContext_host (s : State) (c : Nat) (x : Context) : (s.setContext c x).host = s.host := rfl
@[simp] theorem State.setContext_tier1 (s : State) (c : Nat) (x : Context) : (s.setContext c x).tier1 = s.tier1 := rfl
@[simp] theorem State.setContext_badTier2 (s : State) (c : Nat) (x : Context) : (s.setContext c x).badTier2 = s.badTier2 := rfl
@[simp] theorem State.setContext_badHost (s : State) (c : Nat) (x : Context) : (s.setContext c x).badHost = s.badHost := rfl
@[simp] theorem State.setContext_badTier1 (s : State) (c : Nat) (x : Context) : (s.setContext c x).badTier1 = s.badTier1 := rfl
@[simp] theorem State.setContext_skuC (s : State) (c : Nat) (x : Context) : (s.setContext c x).skuC = s.skuC := rfl
@[simp] theorem State.setContext_t2cap (s : State) (c : Nat) (x : Context) : (s.setContext c x).t2cap = s.t2cap := rfl
@[simp] theorem State.setContext_t2off (s : State) (c : Nat) (x : Context) : (s.setContext c x).t2off = s.t2off := rfl
@[simp] theorem State.setContext_ticketBy (s : State) (c : Nat) (x : Context) : (s.setContext c x).ticketBy = s.ticketBy := rfl
@[simp] theorem State.setContext_recs (s : State) (c : Nat) (x : Context) : (s.setContext c x).recs = s.recs := rfl
@[simp] theorem State.setContext_nextRid (s : State) (c : Nat) (x : Context) : (s.setContext c x).nextRid = s.nextRid := rfl
@[simp] theorem State.setContext_chunks (s : State) (c : Nat) (x : Context) : (s.setContext c x).chunks = s.chunks := rfl
@[simp] theorem State.setContext_nextCid (s : State) (c : Nat) (x : Context) : (s.setContext c x).nextCid = s.nextCid := rfl
@[simp] theorem State.setContext_fabricOut (s : State) (c : Nat) (x : Context) : (s.setContext c x).fabricOut = s.fabricOut := rfl
@[simp] theorem State.setContext_links (s : State) (c : Nat) (x : Context) : (s.setContext c x).links = s.links := rfl
@[simp] theorem State.setContext_hostUp (s : State) (c : Nat) (x : Context) : (s.setContext c x).hostUp = s.hostUp := rfl
@[simp] theorem State.setContext_hostLanes (s : State) (c : Nat) (x : Context) : (s.setContext c x).hostLanes = s.hostLanes := rfl
@[simp] theorem State.setContext_hostRate (s : State) (c : Nat) (x : Context) : (s.setContext c x).hostRate = s.hostRate := rfl
@[simp] theorem State.setContext_msi (s : State) (c : Nat) (x : Context) : (s.setContext c x).msi = s.msi := rfl
@[simp] theorem State.setContext_frozen (s : State) (c : Nat) (x : Context) : (s.setContext c x).frozen = s.frozen := rfl
@[simp] theorem State.setContext_images (s : State) (c : Nat) (x : Context) : (s.setContext c x).images = s.images := rfl
@[simp] theorem State.setContext_report (s : State) (c : Nat) (x : Context) : (s.setContext c x).report = s.report := rfl

@[simp] theorem State.setHead_cur (s : State) (h : Nat) (x : Headland) : (s.setHead h x).cur = s.cur := rfl
@[simp] theorem State.setHead_turn (s : State) (h : Nat) (x : Headland) : (s.setHead h x).turn = s.turn := rfl
@[simp] theorem State.setHead_agenda (s : State) (h : Nat) (x : Headland) : (s.setHead h x).agenda = s.agenda := rfl
@[simp] theorem State.setHead_freeCtr (s : State) (h : Nat) (x : Headland) : (s.setHead h x).freeCtr = s.freeCtr := rfl
@[simp] theorem State.setHead_cycle (s : State) (h : Nat) (x : Headland) : (s.setHead h x).cycle = s.cycle := rfl
@[simp] theorem State.setHead_time6 (s : State) (h : Nat) (x : Headland) : (s.setHead h x).time6 = s.time6 := rfl
@[simp] theorem State.setHead_timeAdj (s : State) (h : Nat) (x : Headland) : (s.setHead h x).timeAdj = s.timeAdj := rfl
@[simp] theorem State.setHead_ebb (s : State) (h : Nat) (x : Headland) : (s.setHead h x).ebb = s.ebb := rfl
@[simp] theorem State.setHead_cores (s : State) (h : Nat) (x : Headland) : (s.setHead h x).cores = s.cores := rfl
@[simp] theorem State.setHead_contexts (s : State) (h : Nat) (x : Headland) : (s.setHead h x).contexts = s.contexts := rfl
@[simp] theorem State.setHead_saves (s : State) (h : Nat) (x : Headland) : (s.setHead h x).saves = s.saves := rfl
@[simp] theorem State.setHead_slewRem (s : State) (h : Nat) (x : Headland) : (s.setHead h x).slewRem = s.slewRem := rfl
@[simp] theorem State.setHead_tideHalf (s : State) (h : Nat) (x : Headland) : (s.setHead h x).tideHalf = s.tideHalf := rfl
@[simp] theorem State.setHead_phase (s : State) (h : Nat) (x : Headland) : (s.setHead h x).phase = s.phase := rfl
@[simp] theorem State.setHead_softTier1 (s : State) (h : Nat) (x : Headland) : (s.setHead h x).softTier1 = s.softTier1 := rfl
@[simp] theorem State.setHead_bankSaves (s : State) (h : Nat) (x : Headland) : (s.setHead h x).bankSaves = s.bankSaves := rfl
@[simp] theorem State.setHead_lessons (s : State) (h : Nat) (x : Headland) : (s.setHead h x).lessons = s.lessons := rfl
@[simp] theorem State.setHead_lastAdmitted (s : State) (h : Nat) (x : Headland) : (s.setHead h x).lastAdmitted = s.lastAdmitted := rfl
@[simp] theorem State.setHead_standby (s : State) (h : Nat) (x : Headland) : (s.setHead h x).standby = s.standby := rfl
@[simp] theorem State.setHead_pages (s : State) (h : Nat) (x : Headland) : (s.setHead h x).pages = s.pages := rfl
@[simp] theorem State.setHead_tier2 (s : State) (h : Nat) (x : Headland) : (s.setHead h x).tier2 = s.tier2 := rfl
@[simp] theorem State.setHead_host (s : State) (h : Nat) (x : Headland) : (s.setHead h x).host = s.host := rfl
@[simp] theorem State.setHead_tier1 (s : State) (h : Nat) (x : Headland) : (s.setHead h x).tier1 = s.tier1 := rfl
@[simp] theorem State.setHead_badTier2 (s : State) (h : Nat) (x : Headland) : (s.setHead h x).badTier2 = s.badTier2 := rfl
@[simp] theorem State.setHead_badHost (s : State) (h : Nat) (x : Headland) : (s.setHead h x).badHost = s.badHost := rfl
@[simp] theorem State.setHead_badTier1 (s : State) (h : Nat) (x : Headland) : (s.setHead h x).badTier1 = s.badTier1 := rfl
@[simp] theorem State.setHead_skuC (s : State) (h : Nat) (x : Headland) : (s.setHead h x).skuC = s.skuC := rfl
@[simp] theorem State.setHead_t2cap (s : State) (h : Nat) (x : Headland) : (s.setHead h x).t2cap = s.t2cap := rfl
@[simp] theorem State.setHead_t2off (s : State) (h : Nat) (x : Headland) : (s.setHead h x).t2off = s.t2off := rfl
@[simp] theorem State.setHead_ticketBy (s : State) (h : Nat) (x : Headland) : (s.setHead h x).ticketBy = s.ticketBy := rfl
@[simp] theorem State.setHead_recs (s : State) (h : Nat) (x : Headland) : (s.setHead h x).recs = s.recs := rfl
@[simp] theorem State.setHead_nextRid (s : State) (h : Nat) (x : Headland) : (s.setHead h x).nextRid = s.nextRid := rfl
@[simp] theorem State.setHead_chunks (s : State) (h : Nat) (x : Headland) : (s.setHead h x).chunks = s.chunks := rfl
@[simp] theorem State.setHead_nextCid (s : State) (h : Nat) (x : Headland) : (s.setHead h x).nextCid = s.nextCid := rfl
@[simp] theorem State.setHead_fabricOut (s : State) (h : Nat) (x : Headland) : (s.setHead h x).fabricOut = s.fabricOut := rfl
@[simp] theorem State.setHead_links (s : State) (h : Nat) (x : Headland) : (s.setHead h x).links = s.links := rfl
@[simp] theorem State.setHead_hostUp (s : State) (h : Nat) (x : Headland) : (s.setHead h x).hostUp = s.hostUp := rfl
@[simp] theorem State.setHead_hostLanes (s : State) (h : Nat) (x : Headland) : (s.setHead h x).hostLanes = s.hostLanes := rfl
@[simp] theorem State.setHead_hostRate (s : State) (h : Nat) (x : Headland) : (s.setHead h x).hostRate = s.hostRate := rfl
@[simp] theorem State.setHead_msi (s : State) (h : Nat) (x : Headland) : (s.setHead h x).msi = s.msi := rfl
@[simp] theorem State.setHead_frozen (s : State) (h : Nat) (x : Headland) : (s.setHead h x).frozen = s.frozen := rfl
@[simp] theorem State.setHead_images (s : State) (h : Nat) (x : Headland) : (s.setHead h x).images = s.images := rfl
@[simp] theorem State.setHead_report (s : State) (h : Nat) (x : Headland) : (s.setHead h x).report = s.report := rfl

@[simp] theorem State.setPage_cur (s : State) (p : Nat) (x : Page) : (s.setPage p x).cur = s.cur := rfl
@[simp] theorem State.setPage_turn (s : State) (p : Nat) (x : Page) : (s.setPage p x).turn = s.turn := rfl
@[simp] theorem State.setPage_agenda (s : State) (p : Nat) (x : Page) : (s.setPage p x).agenda = s.agenda := rfl
@[simp] theorem State.setPage_freeCtr (s : State) (p : Nat) (x : Page) : (s.setPage p x).freeCtr = s.freeCtr := rfl
@[simp] theorem State.setPage_cycle (s : State) (p : Nat) (x : Page) : (s.setPage p x).cycle = s.cycle := rfl
@[simp] theorem State.setPage_time6 (s : State) (p : Nat) (x : Page) : (s.setPage p x).time6 = s.time6 := rfl
@[simp] theorem State.setPage_timeAdj (s : State) (p : Nat) (x : Page) : (s.setPage p x).timeAdj = s.timeAdj := rfl
@[simp] theorem State.setPage_ebb (s : State) (p : Nat) (x : Page) : (s.setPage p x).ebb = s.ebb := rfl
@[simp] theorem State.setPage_cores (s : State) (p : Nat) (x : Page) : (s.setPage p x).cores = s.cores := rfl
@[simp] theorem State.setPage_contexts (s : State) (p : Nat) (x : Page) : (s.setPage p x).contexts = s.contexts := rfl
@[simp] theorem State.setPage_saves (s : State) (p : Nat) (x : Page) : (s.setPage p x).saves = s.saves := rfl
@[simp] theorem State.setPage_slewRem (s : State) (p : Nat) (x : Page) : (s.setPage p x).slewRem = s.slewRem := rfl
@[simp] theorem State.setPage_tideHalf (s : State) (p : Nat) (x : Page) : (s.setPage p x).tideHalf = s.tideHalf := rfl
@[simp] theorem State.setPage_phase (s : State) (p : Nat) (x : Page) : (s.setPage p x).phase = s.phase := rfl
@[simp] theorem State.setPage_softTier1 (s : State) (p : Nat) (x : Page) : (s.setPage p x).softTier1 = s.softTier1 := rfl
@[simp] theorem State.setPage_bankSaves (s : State) (p : Nat) (x : Page) : (s.setPage p x).bankSaves = s.bankSaves := rfl
@[simp] theorem State.setPage_lessons (s : State) (p : Nat) (x : Page) : (s.setPage p x).lessons = s.lessons := rfl
@[simp] theorem State.setPage_lastAdmitted (s : State) (p : Nat) (x : Page) : (s.setPage p x).lastAdmitted = s.lastAdmitted := rfl
@[simp] theorem State.setPage_standby (s : State) (p : Nat) (x : Page) : (s.setPage p x).standby = s.standby := rfl
@[simp] theorem State.setPage_heads (s : State) (p : Nat) (x : Page) : (s.setPage p x).heads = s.heads := rfl
@[simp] theorem State.setPage_tier2 (s : State) (p : Nat) (x : Page) : (s.setPage p x).tier2 = s.tier2 := rfl
@[simp] theorem State.setPage_host (s : State) (p : Nat) (x : Page) : (s.setPage p x).host = s.host := rfl
@[simp] theorem State.setPage_tier1 (s : State) (p : Nat) (x : Page) : (s.setPage p x).tier1 = s.tier1 := rfl
@[simp] theorem State.setPage_badTier2 (s : State) (p : Nat) (x : Page) : (s.setPage p x).badTier2 = s.badTier2 := rfl
@[simp] theorem State.setPage_badHost (s : State) (p : Nat) (x : Page) : (s.setPage p x).badHost = s.badHost := rfl
@[simp] theorem State.setPage_badTier1 (s : State) (p : Nat) (x : Page) : (s.setPage p x).badTier1 = s.badTier1 := rfl
@[simp] theorem State.setPage_skuC (s : State) (p : Nat) (x : Page) : (s.setPage p x).skuC = s.skuC := rfl
@[simp] theorem State.setPage_t2cap (s : State) (p : Nat) (x : Page) : (s.setPage p x).t2cap = s.t2cap := rfl
@[simp] theorem State.setPage_t2off (s : State) (p : Nat) (x : Page) : (s.setPage p x).t2off = s.t2off := rfl
@[simp] theorem State.setPage_ticketBy (s : State) (p : Nat) (x : Page) : (s.setPage p x).ticketBy = s.ticketBy := rfl
@[simp] theorem State.setPage_recs (s : State) (p : Nat) (x : Page) : (s.setPage p x).recs = s.recs := rfl
@[simp] theorem State.setPage_nextRid (s : State) (p : Nat) (x : Page) : (s.setPage p x).nextRid = s.nextRid := rfl
@[simp] theorem State.setPage_chunks (s : State) (p : Nat) (x : Page) : (s.setPage p x).chunks = s.chunks := rfl
@[simp] theorem State.setPage_nextCid (s : State) (p : Nat) (x : Page) : (s.setPage p x).nextCid = s.nextCid := rfl
@[simp] theorem State.setPage_fabricOut (s : State) (p : Nat) (x : Page) : (s.setPage p x).fabricOut = s.fabricOut := rfl
@[simp] theorem State.setPage_links (s : State) (p : Nat) (x : Page) : (s.setPage p x).links = s.links := rfl
@[simp] theorem State.setPage_hostUp (s : State) (p : Nat) (x : Page) : (s.setPage p x).hostUp = s.hostUp := rfl
@[simp] theorem State.setPage_hostLanes (s : State) (p : Nat) (x : Page) : (s.setPage p x).hostLanes = s.hostLanes := rfl
@[simp] theorem State.setPage_hostRate (s : State) (p : Nat) (x : Page) : (s.setPage p x).hostRate = s.hostRate := rfl
@[simp] theorem State.setPage_msi (s : State) (p : Nat) (x : Page) : (s.setPage p x).msi = s.msi := rfl
@[simp] theorem State.setPage_frozen (s : State) (p : Nat) (x : Page) : (s.setPage p x).frozen = s.frozen := rfl
@[simp] theorem State.setPage_images (s : State) (p : Nat) (x : Page) : (s.setPage p x).images = s.images := rfl
@[simp] theorem State.setPage_report (s : State) (p : Nat) (x : Page) : (s.setPage p x).report = s.report := rfl

@[simp] theorem State.setLink_cur (s : State) (l : Nat) (x : Link) : (s.setLink l x).cur = s.cur := rfl
@[simp] theorem State.setLink_turn (s : State) (l : Nat) (x : Link) : (s.setLink l x).turn = s.turn := rfl
@[simp] theorem State.setLink_agenda (s : State) (l : Nat) (x : Link) : (s.setLink l x).agenda = s.agenda := rfl
@[simp] theorem State.setLink_freeCtr (s : State) (l : Nat) (x : Link) : (s.setLink l x).freeCtr = s.freeCtr := rfl
@[simp] theorem State.setLink_cycle (s : State) (l : Nat) (x : Link) : (s.setLink l x).cycle = s.cycle := rfl
@[simp] theorem State.setLink_time6 (s : State) (l : Nat) (x : Link) : (s.setLink l x).time6 = s.time6 := rfl
@[simp] theorem State.setLink_timeAdj (s : State) (l : Nat) (x : Link) : (s.setLink l x).timeAdj = s.timeAdj := rfl
@[simp] theorem State.setLink_ebb (s : State) (l : Nat) (x : Link) : (s.setLink l x).ebb = s.ebb := rfl
@[simp] theorem State.setLink_cores (s : State) (l : Nat) (x : Link) : (s.setLink l x).cores = s.cores := rfl
@[simp] theorem State.setLink_contexts (s : State) (l : Nat) (x : Link) : (s.setLink l x).contexts = s.contexts := rfl
@[simp] theorem State.setLink_saves (s : State) (l : Nat) (x : Link) : (s.setLink l x).saves = s.saves := rfl
@[simp] theorem State.setLink_slewRem (s : State) (l : Nat) (x : Link) : (s.setLink l x).slewRem = s.slewRem := rfl
@[simp] theorem State.setLink_tideHalf (s : State) (l : Nat) (x : Link) : (s.setLink l x).tideHalf = s.tideHalf := rfl
@[simp] theorem State.setLink_phase (s : State) (l : Nat) (x : Link) : (s.setLink l x).phase = s.phase := rfl
@[simp] theorem State.setLink_softTier1 (s : State) (l : Nat) (x : Link) : (s.setLink l x).softTier1 = s.softTier1 := rfl
@[simp] theorem State.setLink_bankSaves (s : State) (l : Nat) (x : Link) : (s.setLink l x).bankSaves = s.bankSaves := rfl
@[simp] theorem State.setLink_lessons (s : State) (l : Nat) (x : Link) : (s.setLink l x).lessons = s.lessons := rfl
@[simp] theorem State.setLink_lastAdmitted (s : State) (l : Nat) (x : Link) : (s.setLink l x).lastAdmitted = s.lastAdmitted := rfl
@[simp] theorem State.setLink_standby (s : State) (l : Nat) (x : Link) : (s.setLink l x).standby = s.standby := rfl
@[simp] theorem State.setLink_heads (s : State) (l : Nat) (x : Link) : (s.setLink l x).heads = s.heads := rfl
@[simp] theorem State.setLink_pages (s : State) (l : Nat) (x : Link) : (s.setLink l x).pages = s.pages := rfl
@[simp] theorem State.setLink_tier2 (s : State) (l : Nat) (x : Link) : (s.setLink l x).tier2 = s.tier2 := rfl
@[simp] theorem State.setLink_host (s : State) (l : Nat) (x : Link) : (s.setLink l x).host = s.host := rfl
@[simp] theorem State.setLink_tier1 (s : State) (l : Nat) (x : Link) : (s.setLink l x).tier1 = s.tier1 := rfl
@[simp] theorem State.setLink_badTier2 (s : State) (l : Nat) (x : Link) : (s.setLink l x).badTier2 = s.badTier2 := rfl
@[simp] theorem State.setLink_badHost (s : State) (l : Nat) (x : Link) : (s.setLink l x).badHost = s.badHost := rfl
@[simp] theorem State.setLink_badTier1 (s : State) (l : Nat) (x : Link) : (s.setLink l x).badTier1 = s.badTier1 := rfl
@[simp] theorem State.setLink_skuC (s : State) (l : Nat) (x : Link) : (s.setLink l x).skuC = s.skuC := rfl
@[simp] theorem State.setLink_t2cap (s : State) (l : Nat) (x : Link) : (s.setLink l x).t2cap = s.t2cap := rfl
@[simp] theorem State.setLink_t2off (s : State) (l : Nat) (x : Link) : (s.setLink l x).t2off = s.t2off := rfl
@[simp] theorem State.setLink_ticketBy (s : State) (l : Nat) (x : Link) : (s.setLink l x).ticketBy = s.ticketBy := rfl
@[simp] theorem State.setLink_recs (s : State) (l : Nat) (x : Link) : (s.setLink l x).recs = s.recs := rfl
@[simp] theorem State.setLink_nextRid (s : State) (l : Nat) (x : Link) : (s.setLink l x).nextRid = s.nextRid := rfl
@[simp] theorem State.setLink_chunks (s : State) (l : Nat) (x : Link) : (s.setLink l x).chunks = s.chunks := rfl
@[simp] theorem State.setLink_nextCid (s : State) (l : Nat) (x : Link) : (s.setLink l x).nextCid = s.nextCid := rfl
@[simp] theorem State.setLink_fabricOut (s : State) (l : Nat) (x : Link) : (s.setLink l x).fabricOut = s.fabricOut := rfl
@[simp] theorem State.setLink_hostUp (s : State) (l : Nat) (x : Link) : (s.setLink l x).hostUp = s.hostUp := rfl
@[simp] theorem State.setLink_hostLanes (s : State) (l : Nat) (x : Link) : (s.setLink l x).hostLanes = s.hostLanes := rfl
@[simp] theorem State.setLink_hostRate (s : State) (l : Nat) (x : Link) : (s.setLink l x).hostRate = s.hostRate := rfl
@[simp] theorem State.setLink_msi (s : State) (l : Nat) (x : Link) : (s.setLink l x).msi = s.msi := rfl
@[simp] theorem State.setLink_frozen (s : State) (l : Nat) (x : Link) : (s.setLink l x).frozen = s.frozen := rfl
@[simp] theorem State.setLink_images (s : State) (l : Nat) (x : Link) : (s.setLink l x).images = s.images := rfl
@[simp] theorem State.setLink_report (s : State) (l : Nat) (x : Link) : (s.setLink l x).report = s.report := rfl

@[simp] theorem State.blackBox_cur (s : State) (h : Nat) (r : TraceRec) : (s.blackBox h r).cur = s.cur := by
  unfold State.blackBox; dsimp only; split <;> rfl
@[simp] theorem State.blackBox_turn (s : State) (h : Nat) (r : TraceRec) : (s.blackBox h r).turn = s.turn := by
  unfold State.blackBox; dsimp only; split <;> rfl
@[simp] theorem State.blackBox_agenda (s : State) (h : Nat) (r : TraceRec) : (s.blackBox h r).agenda = s.agenda := by
  unfold State.blackBox; dsimp only; split <;> rfl
@[simp] theorem State.blackBox_freeCtr (s : State) (h : Nat) (r : TraceRec) : (s.blackBox h r).freeCtr = s.freeCtr := by
  unfold State.blackBox; dsimp only; split <;> rfl
@[simp] theorem State.blackBox_cycle (s : State) (h : Nat) (r : TraceRec) : (s.blackBox h r).cycle = s.cycle := by
  unfold State.blackBox; dsimp only; split <;> rfl
@[simp] theorem State.blackBox_time6 (s : State) (h : Nat) (r : TraceRec) : (s.blackBox h r).time6 = s.time6 := by
  unfold State.blackBox; dsimp only; split <;> rfl
@[simp] theorem State.blackBox_timeAdj (s : State) (h : Nat) (r : TraceRec) : (s.blackBox h r).timeAdj = s.timeAdj := by
  unfold State.blackBox; dsimp only; split <;> rfl
@[simp] theorem State.blackBox_ebb (s : State) (h : Nat) (r : TraceRec) : (s.blackBox h r).ebb = s.ebb := by
  unfold State.blackBox; dsimp only; split <;> rfl
@[simp] theorem State.blackBox_cores (s : State) (h : Nat) (r : TraceRec) : (s.blackBox h r).cores = s.cores := by
  unfold State.blackBox; dsimp only; split <;> rfl
@[simp] theorem State.blackBox_contexts (s : State) (h : Nat) (r : TraceRec) : (s.blackBox h r).contexts = s.contexts := by
  unfold State.blackBox; dsimp only; split <;> rfl
@[simp] theorem State.blackBox_saves (s : State) (h : Nat) (r : TraceRec) : (s.blackBox h r).saves = s.saves := by
  unfold State.blackBox; dsimp only; split <;> rfl
@[simp] theorem State.blackBox_slewRem (s : State) (h : Nat) (r : TraceRec) : (s.blackBox h r).slewRem = s.slewRem := by
  unfold State.blackBox; dsimp only; split <;> rfl
@[simp] theorem State.blackBox_tideHalf (s : State) (h : Nat) (r : TraceRec) : (s.blackBox h r).tideHalf = s.tideHalf := by
  unfold State.blackBox; dsimp only; split <;> rfl
@[simp] theorem State.blackBox_phase (s : State) (h : Nat) (r : TraceRec) : (s.blackBox h r).phase = s.phase := by
  unfold State.blackBox; dsimp only; split <;> rfl
@[simp] theorem State.blackBox_softTier1 (s : State) (h : Nat) (r : TraceRec) : (s.blackBox h r).softTier1 = s.softTier1 := by
  unfold State.blackBox; dsimp only; split <;> rfl
@[simp] theorem State.blackBox_bankSaves (s : State) (h : Nat) (r : TraceRec) : (s.blackBox h r).bankSaves = s.bankSaves := by
  unfold State.blackBox; dsimp only; split <;> rfl
@[simp] theorem State.blackBox_lessons (s : State) (h : Nat) (r : TraceRec) : (s.blackBox h r).lessons = s.lessons := by
  unfold State.blackBox; dsimp only; split <;> rfl
@[simp] theorem State.blackBox_lastAdmitted (s : State) (h : Nat) (r : TraceRec) : (s.blackBox h r).lastAdmitted = s.lastAdmitted := by
  unfold State.blackBox; dsimp only; split <;> rfl
@[simp] theorem State.blackBox_standby (s : State) (h : Nat) (r : TraceRec) : (s.blackBox h r).standby = s.standby := by
  unfold State.blackBox; dsimp only; split <;> rfl
@[simp] theorem State.blackBox_pages (s : State) (h : Nat) (r : TraceRec) : (s.blackBox h r).pages = s.pages := by
  unfold State.blackBox; dsimp only; split <;> rfl
@[simp] theorem State.blackBox_tier2 (s : State) (h : Nat) (r : TraceRec) : (s.blackBox h r).tier2 = s.tier2 := by
  unfold State.blackBox; dsimp only; split <;> rfl
@[simp] theorem State.blackBox_host (s : State) (h : Nat) (r : TraceRec) : (s.blackBox h r).host = s.host := by
  unfold State.blackBox; dsimp only; split <;> rfl
@[simp] theorem State.blackBox_tier1 (s : State) (h : Nat) (r : TraceRec) : (s.blackBox h r).tier1 = s.tier1 := by
  unfold State.blackBox; dsimp only; split <;> rfl
@[simp] theorem State.blackBox_badTier2 (s : State) (h : Nat) (r : TraceRec) : (s.blackBox h r).badTier2 = s.badTier2 := by
  unfold State.blackBox; dsimp only; split <;> rfl
@[simp] theorem State.blackBox_badHost (s : State) (h : Nat) (r : TraceRec) : (s.blackBox h r).badHost = s.badHost := by
  unfold State.blackBox; dsimp only; split <;> rfl
@[simp] theorem State.blackBox_badTier1 (s : State) (h : Nat) (r : TraceRec) : (s.blackBox h r).badTier1 = s.badTier1 := by
  unfold State.blackBox; dsimp only; split <;> rfl
@[simp] theorem State.blackBox_skuC (s : State) (h : Nat) (r : TraceRec) : (s.blackBox h r).skuC = s.skuC := by
  unfold State.blackBox; dsimp only; split <;> rfl
@[simp] theorem State.blackBox_t2cap (s : State) (h : Nat) (r : TraceRec) : (s.blackBox h r).t2cap = s.t2cap := by
  unfold State.blackBox; dsimp only; split <;> rfl
@[simp] theorem State.blackBox_t2off (s : State) (h : Nat) (r : TraceRec) : (s.blackBox h r).t2off = s.t2off := by
  unfold State.blackBox; dsimp only; split <;> rfl
@[simp] theorem State.blackBox_ticketBy (s : State) (h : Nat) (r : TraceRec) : (s.blackBox h r).ticketBy = s.ticketBy := by
  unfold State.blackBox; dsimp only; split <;> rfl
@[simp] theorem State.blackBox_recs (s : State) (h : Nat) (r : TraceRec) : (s.blackBox h r).recs = s.recs := by
  unfold State.blackBox; dsimp only; split <;> rfl
@[simp] theorem State.blackBox_nextRid (s : State) (h : Nat) (r : TraceRec) : (s.blackBox h r).nextRid = s.nextRid := by
  unfold State.blackBox; dsimp only; split <;> rfl
@[simp] theorem State.blackBox_chunks (s : State) (h : Nat) (r : TraceRec) : (s.blackBox h r).chunks = s.chunks := by
  unfold State.blackBox; dsimp only; split <;> rfl
@[simp] theorem State.blackBox_nextCid (s : State) (h : Nat) (r : TraceRec) : (s.blackBox h r).nextCid = s.nextCid := by
  unfold State.blackBox; dsimp only; split <;> rfl
@[simp] theorem State.blackBox_fabricOut (s : State) (h : Nat) (r : TraceRec) : (s.blackBox h r).fabricOut = s.fabricOut := by
  unfold State.blackBox; dsimp only; split <;> rfl
@[simp] theorem State.blackBox_links (s : State) (h : Nat) (r : TraceRec) : (s.blackBox h r).links = s.links := by
  unfold State.blackBox; dsimp only; split <;> rfl
@[simp] theorem State.blackBox_hostLanes (s : State) (h : Nat) (r : TraceRec) : (s.blackBox h r).hostLanes = s.hostLanes := by
  unfold State.blackBox; dsimp only; split <;> rfl
@[simp] theorem State.blackBox_hostRate (s : State) (h : Nat) (r : TraceRec) : (s.blackBox h r).hostRate = s.hostRate := by
  unfold State.blackBox; dsimp only; split <;> rfl
@[simp] theorem State.blackBox_msi (s : State) (h : Nat) (r : TraceRec) : (s.blackBox h r).msi = s.msi := by
  unfold State.blackBox; dsimp only; split <;> rfl
@[simp] theorem State.blackBox_images (s : State) (h : Nat) (r : TraceRec) : (s.blackBox h r).images = s.images := by
  unfold State.blackBox; dsimp only; split <;> rfl
@[simp] theorem State.blackBox_report (s : State) (h : Nat) (r : TraceRec) : (s.blackBox h r).report = s.report := by
  unfold State.blackBox; dsimp only; split <;> rfl

@[simp] theorem State.modLesson_cur (s : State) (c n : Nat) (f : Lesson → Lesson) : (s.modLesson c n f).cur = s.cur := rfl
@[simp] theorem State.modLesson_turn (s : State) (c n : Nat) (f : Lesson → Lesson) : (s.modLesson c n f).turn = s.turn := rfl
@[simp] theorem State.modLesson_agenda (s : State) (c n : Nat) (f : Lesson → Lesson) : (s.modLesson c n f).agenda = s.agenda := rfl
@[simp] theorem State.modLesson_freeCtr (s : State) (c n : Nat) (f : Lesson → Lesson) : (s.modLesson c n f).freeCtr = s.freeCtr := rfl
@[simp] theorem State.modLesson_cycle (s : State) (c n : Nat) (f : Lesson → Lesson) : (s.modLesson c n f).cycle = s.cycle := rfl
@[simp] theorem State.modLesson_time6 (s : State) (c n : Nat) (f : Lesson → Lesson) : (s.modLesson c n f).time6 = s.time6 := rfl
@[simp] theorem State.modLesson_timeAdj (s : State) (c n : Nat) (f : Lesson → Lesson) : (s.modLesson c n f).timeAdj = s.timeAdj := rfl
@[simp] theorem State.modLesson_ebb (s : State) (c n : Nat) (f : Lesson → Lesson) : (s.modLesson c n f).ebb = s.ebb := rfl
@[simp] theorem State.modLesson_cores (s : State) (c n : Nat) (f : Lesson → Lesson) : (s.modLesson c n f).cores = s.cores := rfl
@[simp] theorem State.modLesson_contexts (s : State) (c n : Nat) (f : Lesson → Lesson) : (s.modLesson c n f).contexts = s.contexts := rfl
@[simp] theorem State.modLesson_saves (s : State) (c n : Nat) (f : Lesson → Lesson) : (s.modLesson c n f).saves = s.saves := rfl
@[simp] theorem State.modLesson_slewRem (s : State) (c n : Nat) (f : Lesson → Lesson) : (s.modLesson c n f).slewRem = s.slewRem := rfl
@[simp] theorem State.modLesson_tideHalf (s : State) (c n : Nat) (f : Lesson → Lesson) : (s.modLesson c n f).tideHalf = s.tideHalf := rfl
@[simp] theorem State.modLesson_phase (s : State) (c n : Nat) (f : Lesson → Lesson) : (s.modLesson c n f).phase = s.phase := rfl
@[simp] theorem State.modLesson_softTier1 (s : State) (c n : Nat) (f : Lesson → Lesson) : (s.modLesson c n f).softTier1 = s.softTier1 := rfl
@[simp] theorem State.modLesson_bankSaves (s : State) (c n : Nat) (f : Lesson → Lesson) : (s.modLesson c n f).bankSaves = s.bankSaves := rfl
@[simp] theorem State.modLesson_lastAdmitted (s : State) (c n : Nat) (f : Lesson → Lesson) : (s.modLesson c n f).lastAdmitted = s.lastAdmitted := rfl
@[simp] theorem State.modLesson_standby (s : State) (c n : Nat) (f : Lesson → Lesson) : (s.modLesson c n f).standby = s.standby := rfl
@[simp] theorem State.modLesson_heads (s : State) (c n : Nat) (f : Lesson → Lesson) : (s.modLesson c n f).heads = s.heads := rfl
@[simp] theorem State.modLesson_pages (s : State) (c n : Nat) (f : Lesson → Lesson) : (s.modLesson c n f).pages = s.pages := rfl
@[simp] theorem State.modLesson_tier2 (s : State) (c n : Nat) (f : Lesson → Lesson) : (s.modLesson c n f).tier2 = s.tier2 := rfl
@[simp] theorem State.modLesson_host (s : State) (c n : Nat) (f : Lesson → Lesson) : (s.modLesson c n f).host = s.host := rfl
@[simp] theorem State.modLesson_tier1 (s : State) (c n : Nat) (f : Lesson → Lesson) : (s.modLesson c n f).tier1 = s.tier1 := rfl
@[simp] theorem State.modLesson_badTier2 (s : State) (c n : Nat) (f : Lesson → Lesson) : (s.modLesson c n f).badTier2 = s.badTier2 := rfl
@[simp] theorem State.modLesson_badHost (s : State) (c n : Nat) (f : Lesson → Lesson) : (s.modLesson c n f).badHost = s.badHost := rfl
@[simp] theorem State.modLesson_badTier1 (s : State) (c n : Nat) (f : Lesson → Lesson) : (s.modLesson c n f).badTier1 = s.badTier1 := rfl
@[simp] theorem State.modLesson_skuC (s : State) (c n : Nat) (f : Lesson → Lesson) : (s.modLesson c n f).skuC = s.skuC := rfl
@[simp] theorem State.modLesson_t2cap (s : State) (c n : Nat) (f : Lesson → Lesson) : (s.modLesson c n f).t2cap = s.t2cap := rfl
@[simp] theorem State.modLesson_t2off (s : State) (c n : Nat) (f : Lesson → Lesson) : (s.modLesson c n f).t2off = s.t2off := rfl
@[simp] theorem State.modLesson_ticketBy (s : State) (c n : Nat) (f : Lesson → Lesson) : (s.modLesson c n f).ticketBy = s.ticketBy := rfl
@[simp] theorem State.modLesson_recs (s : State) (c n : Nat) (f : Lesson → Lesson) : (s.modLesson c n f).recs = s.recs := rfl
@[simp] theorem State.modLesson_nextRid (s : State) (c n : Nat) (f : Lesson → Lesson) : (s.modLesson c n f).nextRid = s.nextRid := rfl
@[simp] theorem State.modLesson_chunks (s : State) (c n : Nat) (f : Lesson → Lesson) : (s.modLesson c n f).chunks = s.chunks := rfl
@[simp] theorem State.modLesson_nextCid (s : State) (c n : Nat) (f : Lesson → Lesson) : (s.modLesson c n f).nextCid = s.nextCid := rfl
@[simp] theorem State.modLesson_fabricOut (s : State) (c n : Nat) (f : Lesson → Lesson) : (s.modLesson c n f).fabricOut = s.fabricOut := rfl
@[simp] theorem State.modLesson_links (s : State) (c n : Nat) (f : Lesson → Lesson) : (s.modLesson c n f).links = s.links := rfl
@[simp] theorem State.modLesson_hostUp (s : State) (c n : Nat) (f : Lesson → Lesson) : (s.modLesson c n f).hostUp = s.hostUp := rfl
@[simp] theorem State.modLesson_hostLanes (s : State) (c n : Nat) (f : Lesson → Lesson) : (s.modLesson c n f).hostLanes = s.hostLanes := rfl
@[simp] theorem State.modLesson_hostRate (s : State) (c n : Nat) (f : Lesson → Lesson) : (s.modLesson c n f).hostRate = s.hostRate := rfl
@[simp] theorem State.modLesson_msi (s : State) (c n : Nat) (f : Lesson → Lesson) : (s.modLesson c n f).msi = s.msi := rfl
@[simp] theorem State.modLesson_frozen (s : State) (c n : Nat) (f : Lesson → Lesson) : (s.modLesson c n f).frozen = s.frozen := rfl
@[simp] theorem State.modLesson_images (s : State) (c n : Nat) (f : Lesson → Lesson) : (s.modLesson c n f).images = s.images := rfl
@[simp] theorem State.modLesson_report (s : State) (c n : Nat) (f : Lesson → Lesson) : (s.modLesson c n f).report = s.report := rfl

@[simp] theorem State.advance_cur (s : State) (dt : Nat) : (s.advance dt).cur = s.cur := rfl
@[simp] theorem State.advance_turn (s : State) (dt : Nat) : (s.advance dt).turn = s.turn := rfl
@[simp] theorem State.advance_agenda (s : State) (dt : Nat) : (s.advance dt).agenda = s.agenda := rfl
@[simp] theorem State.advance_freeCtr (s : State) (dt : Nat) : (s.advance dt).freeCtr = s.freeCtr := rfl
@[simp] theorem State.advance_ebb (s : State) (dt : Nat) : (s.advance dt).ebb = s.ebb := rfl
@[simp] theorem State.advance_contexts (s : State) (dt : Nat) : (s.advance dt).contexts = s.contexts := rfl
@[simp] theorem State.advance_saves (s : State) (dt : Nat) : (s.advance dt).saves = s.saves := rfl
@[simp] theorem State.advance_tideHalf (s : State) (dt : Nat) : (s.advance dt).tideHalf = s.tideHalf := rfl
@[simp] theorem State.advance_phase (s : State) (dt : Nat) : (s.advance dt).phase = s.phase := rfl
@[simp] theorem State.advance_softTier1 (s : State) (dt : Nat) : (s.advance dt).softTier1 = s.softTier1 := rfl
@[simp] theorem State.advance_bankSaves (s : State) (dt : Nat) : (s.advance dt).bankSaves = s.bankSaves := rfl
@[simp] theorem State.advance_lessons (s : State) (dt : Nat) : (s.advance dt).lessons = s.lessons := rfl
@[simp] theorem State.advance_lastAdmitted (s : State) (dt : Nat) : (s.advance dt).lastAdmitted = s.lastAdmitted := rfl
@[simp] theorem State.advance_standby (s : State) (dt : Nat) : (s.advance dt).standby = s.standby := rfl
@[simp] theorem State.advance_heads (s : State) (dt : Nat) : (s.advance dt).heads = s.heads := rfl
@[simp] theorem State.advance_pages (s : State) (dt : Nat) : (s.advance dt).pages = s.pages := rfl
@[simp] theorem State.advance_tier2 (s : State) (dt : Nat) : (s.advance dt).tier2 = s.tier2 := rfl
@[simp] theorem State.advance_host (s : State) (dt : Nat) : (s.advance dt).host = s.host := rfl
@[simp] theorem State.advance_tier1 (s : State) (dt : Nat) : (s.advance dt).tier1 = s.tier1 := rfl
@[simp] theorem State.advance_badTier2 (s : State) (dt : Nat) : (s.advance dt).badTier2 = s.badTier2 := rfl
@[simp] theorem State.advance_badHost (s : State) (dt : Nat) : (s.advance dt).badHost = s.badHost := rfl
@[simp] theorem State.advance_badTier1 (s : State) (dt : Nat) : (s.advance dt).badTier1 = s.badTier1 := rfl
@[simp] theorem State.advance_skuC (s : State) (dt : Nat) : (s.advance dt).skuC = s.skuC := rfl
@[simp] theorem State.advance_t2cap (s : State) (dt : Nat) : (s.advance dt).t2cap = s.t2cap := rfl
@[simp] theorem State.advance_t2off (s : State) (dt : Nat) : (s.advance dt).t2off = s.t2off := rfl
@[simp] theorem State.advance_ticketBy (s : State) (dt : Nat) : (s.advance dt).ticketBy = s.ticketBy := rfl
@[simp] theorem State.advance_recs (s : State) (dt : Nat) : (s.advance dt).recs = s.recs := rfl
@[simp] theorem State.advance_nextRid (s : State) (dt : Nat) : (s.advance dt).nextRid = s.nextRid := rfl
@[simp] theorem State.advance_chunks (s : State) (dt : Nat) : (s.advance dt).chunks = s.chunks := rfl
@[simp] theorem State.advance_nextCid (s : State) (dt : Nat) : (s.advance dt).nextCid = s.nextCid := rfl
@[simp] theorem State.advance_fabricOut (s : State) (dt : Nat) : (s.advance dt).fabricOut = s.fabricOut := rfl
@[simp] theorem State.advance_links (s : State) (dt : Nat) : (s.advance dt).links = s.links := rfl
@[simp] theorem State.advance_hostUp (s : State) (dt : Nat) : (s.advance dt).hostUp = s.hostUp := rfl
@[simp] theorem State.advance_hostLanes (s : State) (dt : Nat) : (s.advance dt).hostLanes = s.hostLanes := rfl
@[simp] theorem State.advance_hostRate (s : State) (dt : Nat) : (s.advance dt).hostRate = s.hostRate := rfl
@[simp] theorem State.advance_msi (s : State) (dt : Nat) : (s.advance dt).msi = s.msi := rfl
@[simp] theorem State.advance_frozen (s : State) (dt : Nat) : (s.advance dt).frozen = s.frozen := rfl
@[simp] theorem State.advance_images (s : State) (dt : Nat) : (s.advance dt).images = s.images := rfl
@[simp] theorem State.advance_report (s : State) (dt : Nat) : (s.advance dt).report = s.report := rfl

@[simp] theorem Ctx.setSr_id (x : Ctx) (n : Nat) (v : W64) : (x.setSr n v).id = x.id := rfl
@[simp] theorem Ctx.setSr_lesson (x : Ctx) (n : Nat) (v : W64) : (x.setSr n v).lesson = x.lesson := rfl
@[simp] theorem Ctx.setSr_pc (x : Ctx) (n : Nat) (v : W64) : (x.setSr n v).pc = x.pc := rfl
@[simp] theorem Ctx.setSr_g (x : Ctx) (n : Nat) (v : W64) : (x.setSr n v).g = x.g := rfl
@[simp] theorem Ctx.setSr_q (x : Ctx) (n : Nat) (v : W64) : (x.setSr n v).q = x.q := rfl
@[simp] theorem Ctx.setSr_f (x : Ctx) (n : Nat) (v : W64) : (x.setSr n v).f = x.f := rfl
@[simp] theorem Ctx.setSr_flagBy (x : Ctx) (n : Nat) (v : W64) : (x.setSr n v).flagBy = x.flagBy := rfl
@[simp] theorem Ctx.setSr_tokens (x : Ctx) (n : Nat) (v : W64) : (x.setSr n v).tokens = x.tokens := rfl
@[simp] theorem Ctx.setSr_v (x : Ctx) (n : Nat) (v : W64) : (x.setSr n v).v = x.v := rfl
@[simp] theorem Ctx.setSr_m (x : Ctx) (n : Nat) (v : W64) : (x.setSr n v).m = x.m := rfl
@[simp] theorem Ctx.setSr_acc (x : Ctx) (n : Nat) (v : W64) : (x.setSr n v).acc = x.acc := rfl
@[simp] theorem Ctx.setSr_planes (x : Ctx) (n : Nat) (v : W64) : (x.setSr n v).planes = x.planes := rfl
@[simp] theorem Ctx.setSr_badV (x : Ctx) (n : Nat) (v : W64) : (x.setSr n v).badV = x.badV := rfl
@[simp] theorem Ctx.setSr_badM (x : Ctx) (n : Nat) (v : W64) : (x.setSr n v).badM = x.badM := rfl
@[simp] theorem Ctx.setSr_badA (x : Ctx) (n : Nat) (v : W64) : (x.setSr n v).badA = x.badA := rfl
@[simp] theorem Ctx.setSr_badSlot (x : Ctx) (n : Nat) (v : W64) : (x.setSr n v).badSlot = x.badSlot := rfl
@[simp] theorem Ctx.setSr_dir (x : Ctx) (n : Nat) (v : W64) : (x.setSr n v).dir = x.dir := rfl
@[simp] theorem Ctx.setSr_shadowNest (x : Ctx) (n : Nat) (v : W64) : (x.setSr n v).shadowNest = x.shadowNest := rfl
@[simp] theorem Ctx.setSr_activeNest (x : Ctx) (n : Nat) (v : W64) : (x.setSr n v).activeNest = x.activeNest := rfl
@[simp] theorem Ctx.setSr_pushedNest (x : Ctx) (n : Nat) (v : W64) : (x.setSr n v).pushedNest = x.pushedNest := rfl
@[simp] theorem Ctx.setSr_pushedActive (x : Ctx) (n : Nat) (v : W64) : (x.setSr n v).pushedActive = x.pushedActive := rfl
@[simp] theorem Ctx.setSr_bank (x : Ctx) (n : Nat) (v : W64) : (x.setSr n v).bank = x.bank := rfl
@[simp] theorem Ctx.setSr_ld (x : Ctx) (n : Nat) (v : W64) : (x.setSr n v).ld = x.ld := rfl
@[simp] theorem Ctx.setSr_st (x : Ctx) (n : Nat) (v : W64) : (x.setSr n v).st = x.st := rfl
@[simp] theorem Ctx.setSr_vx (x : Ctx) (n : Nat) (v : W64) : (x.setSr n v).vx = x.vx := rfl
@[simp] theorem Ctx.setSr_mx (x : Ctx) (n : Nat) (v : W64) : (x.setSr n v).mx = x.mx := rfl
@[simp] theorem Ctx.setSr_lane (x : Ctx) (n : Nat) (v : W64) : (x.setSr n v).lane = x.lane := rfl
@[simp] theorem Ctx.setSr_seqs (x : Ctx) (n : Nat) (v : W64) : (x.setSr n v).seqs = x.seqs := rfl
@[simp] theorem Ctx.setSr_vxFifo (x : Ctx) (n : Nat) (v : W64) : (x.setSr n v).vxFifo = x.vxFifo := rfl
@[simp] theorem Ctx.setSr_mxFifo (x : Ctx) (n : Nat) (v : W64) : (x.setSr n v).mxFifo = x.mxFifo := rfl
@[simp] theorem Ctx.setSr_chimney (x : Ctx) (n : Nat) (v : W64) : (x.setSr n v).chimney = x.chimney := rfl
@[simp] theorem Ctx.setSr_chDone (x : Ctx) (n : Nat) (v : W64) : (x.setSr n v).chDone = x.chDone := rfl
@[simp] theorem Ctx.setSr_tlb (x : Ctx) (n : Nat) (v : W64) : (x.setSr n v).tlb = x.tlb := rfl
@[simp] theorem Ctx.setSr_tlbNext (x : Ctx) (n : Nat) (v : W64) : (x.setSr n v).tlbNext = x.tlbNext := rfl
@[simp] theorem Ctx.setSr_words (x : Ctx) (n : Nat) (v : W64) : (x.setSr n v).words = x.words := rfl
@[simp] theorem Ctx.setSr_wait (x : Ctx) (n : Nat) (v : W64) : (x.setSr n v).wait = x.wait := rfl
@[simp] theorem Ctx.setSr_held (x : Ctx) (n : Nat) (v : W64) : (x.setSr n v).held = x.held := rfl
@[simp] theorem Ctx.setSr_heldTrap (x : Ctx) (n : Nat) (v : W64) : (x.setSr n v).heldTrap = x.heldTrap := rfl
@[simp] theorem Ctx.setSr_path (x : Ctx) (n : Nat) (v : W64) : (x.setSr n v).path = x.path := rfl
@[simp] theorem Ctx.setSr_relScope (x : Ctx) (n : Nat) (v : W64) : (x.setSr n v).relScope = x.relScope := rfl
@[simp] theorem Ctx.setSr_acqScope (x : Ctx) (n : Nat) (v : W64) : (x.setSr n v).acqScope = x.acqScope := rfl
@[simp] theorem Ctx.setSr_pend (x : Ctx) (n : Nat) (v : W64) : (x.setSr n v).pend = x.pend := rfl
@[simp] theorem Ctx.setSr_exited (x : Ctx) (n : Nat) (v : W64) : (x.setSr n v).exited = x.exited := rfl
@[simp] theorem Ctx.setSr_halted (x : Ctx) (n : Nat) (v : W64) : (x.setSr n v).halted = x.halted := rfl
@[simp] theorem Ctx.setSr_waitStart (x : Ctx) (n : Nat) (v : W64) : (x.setSr n v).waitStart = x.waitStart := rfl
@[simp] theorem Ctx.setSr_ccPop (x : Ctx) (n : Nat) (v : W64) : (x.setSr n v).ccPop = x.ccPop := rfl
@[simp] theorem Ctx.setSr_latch (x : Ctx) (n : Nat) (v : W64) : (x.setSr n v).latch = x.latch := rfl
@[simp] theorem Ctx.setSr_waitEntry (x : Ctx) (n : Nat) (v : W64) : (x.setSr n v).waitEntry = x.waitEntry := rfl
@[simp] theorem Ctx.setSr_parked (x : Ctx) (n : Nat) (v : W64) : (x.setSr n v).parked = x.parked := rfl
@[simp] theorem Ctx.setSr_collHandler (x : Ctx) (n : Nat) (v : W64) : (x.setSr n v).collHandler = x.collHandler := rfl
@[simp] theorem Ctx.setSr_stNext (x : Ctx) (n : Nat) (v : W64) : (x.setSr n v).stNext = x.stNext := rfl
@[simp] theorem Ctx.setSr_owed (x : Ctx) (n : Nat) (v : W64) : (x.setSr n v).owed = x.owed := rfl
@[simp] theorem Ctx.setSr_pinBy (x : Ctx) (n : Nat) (v : W64) : (x.setSr n v).pinBy = x.pinBy := rfl
@[simp] theorem Ctx.setSr_chimBy (x : Ctx) (n : Nat) (v : W64) : (x.setSr n v).chimBy = x.chimBy := rfl
@[simp] theorem Ctx.setSr_touchBy (x : Ctx) (n : Nat) (v : W64) : (x.setSr n v).touchBy = x.touchBy := rfl
@[simp] theorem Ctx.setSr_invs (x : Ctx) (n : Nat) (v : W64) : (x.setSr n v).invs = x.invs := rfl
@[simp] theorem Ctx.setSr_passed (x : Ctx) (n : Nat) (v : W64) : (x.setSr n v).passed = x.passed := rfl
@[simp] theorem Ctx.setSr_brkPassed (x : Ctx) (n : Nat) (v : W64) : (x.setSr n v).brkPassed = x.brkPassed := rfl

@[simp] theorem Ctx.orSticky_id (x : Ctx) (f : Flags) : (x.orSticky f).id = x.id := rfl
@[simp] theorem Ctx.orSticky_lesson (x : Ctx) (f : Flags) : (x.orSticky f).lesson = x.lesson := rfl
@[simp] theorem Ctx.orSticky_pc (x : Ctx) (f : Flags) : (x.orSticky f).pc = x.pc := rfl
@[simp] theorem Ctx.orSticky_g (x : Ctx) (f : Flags) : (x.orSticky f).g = x.g := rfl
@[simp] theorem Ctx.orSticky_q (x : Ctx) (f : Flags) : (x.orSticky f).q = x.q := rfl
@[simp] theorem Ctx.orSticky_f (x : Ctx) (f : Flags) : (x.orSticky f).f = x.f := rfl
@[simp] theorem Ctx.orSticky_flagBy (x : Ctx) (f : Flags) : (x.orSticky f).flagBy = x.flagBy := rfl
@[simp] theorem Ctx.orSticky_tokens (x : Ctx) (f : Flags) : (x.orSticky f).tokens = x.tokens := rfl
@[simp] theorem Ctx.orSticky_v (x : Ctx) (f : Flags) : (x.orSticky f).v = x.v := rfl
@[simp] theorem Ctx.orSticky_m (x : Ctx) (f : Flags) : (x.orSticky f).m = x.m := rfl
@[simp] theorem Ctx.orSticky_acc (x : Ctx) (f : Flags) : (x.orSticky f).acc = x.acc := rfl
@[simp] theorem Ctx.orSticky_planes (x : Ctx) (f : Flags) : (x.orSticky f).planes = x.planes := rfl
@[simp] theorem Ctx.orSticky_badV (x : Ctx) (f : Flags) : (x.orSticky f).badV = x.badV := rfl
@[simp] theorem Ctx.orSticky_badM (x : Ctx) (f : Flags) : (x.orSticky f).badM = x.badM := rfl
@[simp] theorem Ctx.orSticky_badA (x : Ctx) (f : Flags) : (x.orSticky f).badA = x.badA := rfl
@[simp] theorem Ctx.orSticky_badSlot (x : Ctx) (f : Flags) : (x.orSticky f).badSlot = x.badSlot := rfl
@[simp] theorem Ctx.orSticky_dir (x : Ctx) (f : Flags) : (x.orSticky f).dir = x.dir := rfl
@[simp] theorem Ctx.orSticky_shadowNest (x : Ctx) (f : Flags) : (x.orSticky f).shadowNest = x.shadowNest := rfl
@[simp] theorem Ctx.orSticky_activeNest (x : Ctx) (f : Flags) : (x.orSticky f).activeNest = x.activeNest := rfl
@[simp] theorem Ctx.orSticky_pushedNest (x : Ctx) (f : Flags) : (x.orSticky f).pushedNest = x.pushedNest := rfl
@[simp] theorem Ctx.orSticky_pushedActive (x : Ctx) (f : Flags) : (x.orSticky f).pushedActive = x.pushedActive := rfl
@[simp] theorem Ctx.orSticky_bank (x : Ctx) (f : Flags) : (x.orSticky f).bank = x.bank := rfl
@[simp] theorem Ctx.orSticky_ld (x : Ctx) (f : Flags) : (x.orSticky f).ld = x.ld := rfl
@[simp] theorem Ctx.orSticky_st (x : Ctx) (f : Flags) : (x.orSticky f).st = x.st := rfl
@[simp] theorem Ctx.orSticky_vx (x : Ctx) (f : Flags) : (x.orSticky f).vx = x.vx := rfl
@[simp] theorem Ctx.orSticky_mx (x : Ctx) (f : Flags) : (x.orSticky f).mx = x.mx := rfl
@[simp] theorem Ctx.orSticky_lane (x : Ctx) (f : Flags) : (x.orSticky f).lane = x.lane := rfl
@[simp] theorem Ctx.orSticky_seqs (x : Ctx) (f : Flags) : (x.orSticky f).seqs = x.seqs := rfl
@[simp] theorem Ctx.orSticky_vxFifo (x : Ctx) (f : Flags) : (x.orSticky f).vxFifo = x.vxFifo := rfl
@[simp] theorem Ctx.orSticky_mxFifo (x : Ctx) (f : Flags) : (x.orSticky f).mxFifo = x.mxFifo := rfl
@[simp] theorem Ctx.orSticky_chimney (x : Ctx) (f : Flags) : (x.orSticky f).chimney = x.chimney := rfl
@[simp] theorem Ctx.orSticky_chDone (x : Ctx) (f : Flags) : (x.orSticky f).chDone = x.chDone := rfl
@[simp] theorem Ctx.orSticky_tlb (x : Ctx) (f : Flags) : (x.orSticky f).tlb = x.tlb := rfl
@[simp] theorem Ctx.orSticky_tlbNext (x : Ctx) (f : Flags) : (x.orSticky f).tlbNext = x.tlbNext := rfl
@[simp] theorem Ctx.orSticky_words (x : Ctx) (f : Flags) : (x.orSticky f).words = x.words := rfl
@[simp] theorem Ctx.orSticky_wait (x : Ctx) (f : Flags) : (x.orSticky f).wait = x.wait := rfl
@[simp] theorem Ctx.orSticky_held (x : Ctx) (f : Flags) : (x.orSticky f).held = x.held := rfl
@[simp] theorem Ctx.orSticky_heldTrap (x : Ctx) (f : Flags) : (x.orSticky f).heldTrap = x.heldTrap := rfl
@[simp] theorem Ctx.orSticky_path (x : Ctx) (f : Flags) : (x.orSticky f).path = x.path := rfl
@[simp] theorem Ctx.orSticky_relScope (x : Ctx) (f : Flags) : (x.orSticky f).relScope = x.relScope := rfl
@[simp] theorem Ctx.orSticky_acqScope (x : Ctx) (f : Flags) : (x.orSticky f).acqScope = x.acqScope := rfl
@[simp] theorem Ctx.orSticky_pend (x : Ctx) (f : Flags) : (x.orSticky f).pend = x.pend := rfl
@[simp] theorem Ctx.orSticky_exited (x : Ctx) (f : Flags) : (x.orSticky f).exited = x.exited := rfl
@[simp] theorem Ctx.orSticky_halted (x : Ctx) (f : Flags) : (x.orSticky f).halted = x.halted := rfl
@[simp] theorem Ctx.orSticky_waitStart (x : Ctx) (f : Flags) : (x.orSticky f).waitStart = x.waitStart := rfl
@[simp] theorem Ctx.orSticky_ccPop (x : Ctx) (f : Flags) : (x.orSticky f).ccPop = x.ccPop := rfl
@[simp] theorem Ctx.orSticky_latch (x : Ctx) (f : Flags) : (x.orSticky f).latch = x.latch := rfl
@[simp] theorem Ctx.orSticky_waitEntry (x : Ctx) (f : Flags) : (x.orSticky f).waitEntry = x.waitEntry := rfl
@[simp] theorem Ctx.orSticky_parked (x : Ctx) (f : Flags) : (x.orSticky f).parked = x.parked := rfl
@[simp] theorem Ctx.orSticky_collHandler (x : Ctx) (f : Flags) : (x.orSticky f).collHandler = x.collHandler := rfl
@[simp] theorem Ctx.orSticky_stNext (x : Ctx) (f : Flags) : (x.orSticky f).stNext = x.stNext := rfl
@[simp] theorem Ctx.orSticky_owed (x : Ctx) (f : Flags) : (x.orSticky f).owed = x.owed := rfl
@[simp] theorem Ctx.orSticky_pinBy (x : Ctx) (f : Flags) : (x.orSticky f).pinBy = x.pinBy := rfl
@[simp] theorem Ctx.orSticky_chimBy (x : Ctx) (f : Flags) : (x.orSticky f).chimBy = x.chimBy := rfl
@[simp] theorem Ctx.orSticky_touchBy (x : Ctx) (f : Flags) : (x.orSticky f).touchBy = x.touchBy := rfl
@[simp] theorem Ctx.orSticky_invs (x : Ctx) (f : Flags) : (x.orSticky f).invs = x.invs := rfl
@[simp] theorem Ctx.orSticky_passed (x : Ctx) (f : Flags) : (x.orSticky f).passed = x.passed := rfl
@[simp] theorem Ctx.orSticky_brkPassed (x : Ctx) (f : Flags) : (x.orSticky f).brkPassed = x.brkPassed := rfl

@[simp] theorem Ctx.popTokens_id (x : Ctx) (l : List Nat) : (x.popTokens l).id = x.id := rfl
@[simp] theorem Ctx.popTokens_lesson (x : Ctx) (l : List Nat) : (x.popTokens l).lesson = x.lesson := rfl
@[simp] theorem Ctx.popTokens_pc (x : Ctx) (l : List Nat) : (x.popTokens l).pc = x.pc := rfl
@[simp] theorem Ctx.popTokens_g (x : Ctx) (l : List Nat) : (x.popTokens l).g = x.g := rfl
@[simp] theorem Ctx.popTokens_sys (x : Ctx) (l : List Nat) : (x.popTokens l).sys = x.sys := rfl
@[simp] theorem Ctx.popTokens_q (x : Ctx) (l : List Nat) : (x.popTokens l).q = x.q := rfl
@[simp] theorem Ctx.popTokens_f (x : Ctx) (l : List Nat) : (x.popTokens l).f = x.f := rfl
@[simp] theorem Ctx.popTokens_flagBy (x : Ctx) (l : List Nat) : (x.popTokens l).flagBy = x.flagBy := rfl
@[simp] theorem Ctx.popTokens_v (x : Ctx) (l : List Nat) : (x.popTokens l).v = x.v := rfl
@[simp] theorem Ctx.popTokens_m (x : Ctx) (l : List Nat) : (x.popTokens l).m = x.m := rfl
@[simp] theorem Ctx.popTokens_acc (x : Ctx) (l : List Nat) : (x.popTokens l).acc = x.acc := rfl
@[simp] theorem Ctx.popTokens_planes (x : Ctx) (l : List Nat) : (x.popTokens l).planes = x.planes := rfl
@[simp] theorem Ctx.popTokens_badV (x : Ctx) (l : List Nat) : (x.popTokens l).badV = x.badV := rfl
@[simp] theorem Ctx.popTokens_badM (x : Ctx) (l : List Nat) : (x.popTokens l).badM = x.badM := rfl
@[simp] theorem Ctx.popTokens_badA (x : Ctx) (l : List Nat) : (x.popTokens l).badA = x.badA := rfl
@[simp] theorem Ctx.popTokens_badSlot (x : Ctx) (l : List Nat) : (x.popTokens l).badSlot = x.badSlot := rfl
@[simp] theorem Ctx.popTokens_dir (x : Ctx) (l : List Nat) : (x.popTokens l).dir = x.dir := rfl
@[simp] theorem Ctx.popTokens_shadowNest (x : Ctx) (l : List Nat) : (x.popTokens l).shadowNest = x.shadowNest := rfl
@[simp] theorem Ctx.popTokens_activeNest (x : Ctx) (l : List Nat) : (x.popTokens l).activeNest = x.activeNest := rfl
@[simp] theorem Ctx.popTokens_pushedNest (x : Ctx) (l : List Nat) : (x.popTokens l).pushedNest = x.pushedNest := rfl
@[simp] theorem Ctx.popTokens_pushedActive (x : Ctx) (l : List Nat) : (x.popTokens l).pushedActive = x.pushedActive := rfl
@[simp] theorem Ctx.popTokens_bank (x : Ctx) (l : List Nat) : (x.popTokens l).bank = x.bank := rfl
@[simp] theorem Ctx.popTokens_ld (x : Ctx) (l : List Nat) : (x.popTokens l).ld = x.ld := rfl
@[simp] theorem Ctx.popTokens_st (x : Ctx) (l : List Nat) : (x.popTokens l).st = x.st := rfl
@[simp] theorem Ctx.popTokens_vx (x : Ctx) (l : List Nat) : (x.popTokens l).vx = x.vx := rfl
@[simp] theorem Ctx.popTokens_mx (x : Ctx) (l : List Nat) : (x.popTokens l).mx = x.mx := rfl
@[simp] theorem Ctx.popTokens_lane (x : Ctx) (l : List Nat) : (x.popTokens l).lane = x.lane := rfl
@[simp] theorem Ctx.popTokens_seqs (x : Ctx) (l : List Nat) : (x.popTokens l).seqs = x.seqs := rfl
@[simp] theorem Ctx.popTokens_vxFifo (x : Ctx) (l : List Nat) : (x.popTokens l).vxFifo = x.vxFifo := rfl
@[simp] theorem Ctx.popTokens_mxFifo (x : Ctx) (l : List Nat) : (x.popTokens l).mxFifo = x.mxFifo := rfl
@[simp] theorem Ctx.popTokens_chimney (x : Ctx) (l : List Nat) : (x.popTokens l).chimney = x.chimney := rfl
@[simp] theorem Ctx.popTokens_chDone (x : Ctx) (l : List Nat) : (x.popTokens l).chDone = x.chDone := rfl
@[simp] theorem Ctx.popTokens_tlb (x : Ctx) (l : List Nat) : (x.popTokens l).tlb = x.tlb := rfl
@[simp] theorem Ctx.popTokens_tlbNext (x : Ctx) (l : List Nat) : (x.popTokens l).tlbNext = x.tlbNext := rfl
@[simp] theorem Ctx.popTokens_words (x : Ctx) (l : List Nat) : (x.popTokens l).words = x.words := rfl
@[simp] theorem Ctx.popTokens_wait (x : Ctx) (l : List Nat) : (x.popTokens l).wait = x.wait := rfl
@[simp] theorem Ctx.popTokens_held (x : Ctx) (l : List Nat) : (x.popTokens l).held = x.held := rfl
@[simp] theorem Ctx.popTokens_heldTrap (x : Ctx) (l : List Nat) : (x.popTokens l).heldTrap = x.heldTrap := rfl
@[simp] theorem Ctx.popTokens_path (x : Ctx) (l : List Nat) : (x.popTokens l).path = x.path := rfl
@[simp] theorem Ctx.popTokens_relScope (x : Ctx) (l : List Nat) : (x.popTokens l).relScope = x.relScope := rfl
@[simp] theorem Ctx.popTokens_acqScope (x : Ctx) (l : List Nat) : (x.popTokens l).acqScope = x.acqScope := rfl
@[simp] theorem Ctx.popTokens_pend (x : Ctx) (l : List Nat) : (x.popTokens l).pend = x.pend := rfl
@[simp] theorem Ctx.popTokens_exited (x : Ctx) (l : List Nat) : (x.popTokens l).exited = x.exited := rfl
@[simp] theorem Ctx.popTokens_halted (x : Ctx) (l : List Nat) : (x.popTokens l).halted = x.halted := rfl
@[simp] theorem Ctx.popTokens_waitStart (x : Ctx) (l : List Nat) : (x.popTokens l).waitStart = x.waitStart := rfl
@[simp] theorem Ctx.popTokens_ccPop (x : Ctx) (l : List Nat) : (x.popTokens l).ccPop = x.ccPop := rfl
@[simp] theorem Ctx.popTokens_latch (x : Ctx) (l : List Nat) : (x.popTokens l).latch = x.latch := rfl
@[simp] theorem Ctx.popTokens_waitEntry (x : Ctx) (l : List Nat) : (x.popTokens l).waitEntry = x.waitEntry := rfl
@[simp] theorem Ctx.popTokens_parked (x : Ctx) (l : List Nat) : (x.popTokens l).parked = x.parked := rfl
@[simp] theorem Ctx.popTokens_collHandler (x : Ctx) (l : List Nat) : (x.popTokens l).collHandler = x.collHandler := rfl
@[simp] theorem Ctx.popTokens_stNext (x : Ctx) (l : List Nat) : (x.popTokens l).stNext = x.stNext := rfl
@[simp] theorem Ctx.popTokens_owed (x : Ctx) (l : List Nat) : (x.popTokens l).owed = x.owed := rfl
@[simp] theorem Ctx.popTokens_pinBy (x : Ctx) (l : List Nat) : (x.popTokens l).pinBy = x.pinBy := rfl
@[simp] theorem Ctx.popTokens_chimBy (x : Ctx) (l : List Nat) : (x.popTokens l).chimBy = x.chimBy := rfl
@[simp] theorem Ctx.popTokens_touchBy (x : Ctx) (l : List Nat) : (x.popTokens l).touchBy = x.touchBy := rfl
@[simp] theorem Ctx.popTokens_invs (x : Ctx) (l : List Nat) : (x.popTokens l).invs = x.invs := rfl
@[simp] theorem Ctx.popTokens_passed (x : Ctx) (l : List Nat) : (x.popTokens l).passed = x.passed := rfl
@[simp] theorem Ctx.popTokens_brkPassed (x : Ctx) (l : List Nat) : (x.popTokens l).brkPassed = x.brkPassed := rfl

@[simp] theorem Ctx.pushTokens_id (x : Ctx) (l : List Nat) : (x.pushTokens l).id = x.id := rfl
@[simp] theorem Ctx.pushTokens_lesson (x : Ctx) (l : List Nat) : (x.pushTokens l).lesson = x.lesson := rfl
@[simp] theorem Ctx.pushTokens_pc (x : Ctx) (l : List Nat) : (x.pushTokens l).pc = x.pc := rfl
@[simp] theorem Ctx.pushTokens_g (x : Ctx) (l : List Nat) : (x.pushTokens l).g = x.g := rfl
@[simp] theorem Ctx.pushTokens_sys (x : Ctx) (l : List Nat) : (x.pushTokens l).sys = x.sys := rfl
@[simp] theorem Ctx.pushTokens_q (x : Ctx) (l : List Nat) : (x.pushTokens l).q = x.q := rfl
@[simp] theorem Ctx.pushTokens_f (x : Ctx) (l : List Nat) : (x.pushTokens l).f = x.f := rfl
@[simp] theorem Ctx.pushTokens_flagBy (x : Ctx) (l : List Nat) : (x.pushTokens l).flagBy = x.flagBy := rfl
@[simp] theorem Ctx.pushTokens_v (x : Ctx) (l : List Nat) : (x.pushTokens l).v = x.v := rfl
@[simp] theorem Ctx.pushTokens_m (x : Ctx) (l : List Nat) : (x.pushTokens l).m = x.m := rfl
@[simp] theorem Ctx.pushTokens_acc (x : Ctx) (l : List Nat) : (x.pushTokens l).acc = x.acc := rfl
@[simp] theorem Ctx.pushTokens_planes (x : Ctx) (l : List Nat) : (x.pushTokens l).planes = x.planes := rfl
@[simp] theorem Ctx.pushTokens_badV (x : Ctx) (l : List Nat) : (x.pushTokens l).badV = x.badV := rfl
@[simp] theorem Ctx.pushTokens_badM (x : Ctx) (l : List Nat) : (x.pushTokens l).badM = x.badM := rfl
@[simp] theorem Ctx.pushTokens_badA (x : Ctx) (l : List Nat) : (x.pushTokens l).badA = x.badA := rfl
@[simp] theorem Ctx.pushTokens_badSlot (x : Ctx) (l : List Nat) : (x.pushTokens l).badSlot = x.badSlot := rfl
@[simp] theorem Ctx.pushTokens_dir (x : Ctx) (l : List Nat) : (x.pushTokens l).dir = x.dir := rfl
@[simp] theorem Ctx.pushTokens_shadowNest (x : Ctx) (l : List Nat) : (x.pushTokens l).shadowNest = x.shadowNest := rfl
@[simp] theorem Ctx.pushTokens_activeNest (x : Ctx) (l : List Nat) : (x.pushTokens l).activeNest = x.activeNest := rfl
@[simp] theorem Ctx.pushTokens_pushedNest (x : Ctx) (l : List Nat) : (x.pushTokens l).pushedNest = x.pushedNest := rfl
@[simp] theorem Ctx.pushTokens_pushedActive (x : Ctx) (l : List Nat) : (x.pushTokens l).pushedActive = x.pushedActive := rfl
@[simp] theorem Ctx.pushTokens_bank (x : Ctx) (l : List Nat) : (x.pushTokens l).bank = x.bank := rfl
@[simp] theorem Ctx.pushTokens_ld (x : Ctx) (l : List Nat) : (x.pushTokens l).ld = x.ld := rfl
@[simp] theorem Ctx.pushTokens_st (x : Ctx) (l : List Nat) : (x.pushTokens l).st = x.st := rfl
@[simp] theorem Ctx.pushTokens_vx (x : Ctx) (l : List Nat) : (x.pushTokens l).vx = x.vx := rfl
@[simp] theorem Ctx.pushTokens_mx (x : Ctx) (l : List Nat) : (x.pushTokens l).mx = x.mx := rfl
@[simp] theorem Ctx.pushTokens_lane (x : Ctx) (l : List Nat) : (x.pushTokens l).lane = x.lane := rfl
@[simp] theorem Ctx.pushTokens_seqs (x : Ctx) (l : List Nat) : (x.pushTokens l).seqs = x.seqs := rfl
@[simp] theorem Ctx.pushTokens_vxFifo (x : Ctx) (l : List Nat) : (x.pushTokens l).vxFifo = x.vxFifo := rfl
@[simp] theorem Ctx.pushTokens_mxFifo (x : Ctx) (l : List Nat) : (x.pushTokens l).mxFifo = x.mxFifo := rfl
@[simp] theorem Ctx.pushTokens_chimney (x : Ctx) (l : List Nat) : (x.pushTokens l).chimney = x.chimney := rfl
@[simp] theorem Ctx.pushTokens_chDone (x : Ctx) (l : List Nat) : (x.pushTokens l).chDone = x.chDone := rfl
@[simp] theorem Ctx.pushTokens_tlb (x : Ctx) (l : List Nat) : (x.pushTokens l).tlb = x.tlb := rfl
@[simp] theorem Ctx.pushTokens_tlbNext (x : Ctx) (l : List Nat) : (x.pushTokens l).tlbNext = x.tlbNext := rfl
@[simp] theorem Ctx.pushTokens_words (x : Ctx) (l : List Nat) : (x.pushTokens l).words = x.words := rfl
@[simp] theorem Ctx.pushTokens_wait (x : Ctx) (l : List Nat) : (x.pushTokens l).wait = x.wait := rfl
@[simp] theorem Ctx.pushTokens_held (x : Ctx) (l : List Nat) : (x.pushTokens l).held = x.held := rfl
@[simp] theorem Ctx.pushTokens_heldTrap (x : Ctx) (l : List Nat) : (x.pushTokens l).heldTrap = x.heldTrap := rfl
@[simp] theorem Ctx.pushTokens_path (x : Ctx) (l : List Nat) : (x.pushTokens l).path = x.path := rfl
@[simp] theorem Ctx.pushTokens_relScope (x : Ctx) (l : List Nat) : (x.pushTokens l).relScope = x.relScope := rfl
@[simp] theorem Ctx.pushTokens_acqScope (x : Ctx) (l : List Nat) : (x.pushTokens l).acqScope = x.acqScope := rfl
@[simp] theorem Ctx.pushTokens_pend (x : Ctx) (l : List Nat) : (x.pushTokens l).pend = x.pend := rfl
@[simp] theorem Ctx.pushTokens_exited (x : Ctx) (l : List Nat) : (x.pushTokens l).exited = x.exited := rfl
@[simp] theorem Ctx.pushTokens_halted (x : Ctx) (l : List Nat) : (x.pushTokens l).halted = x.halted := rfl
@[simp] theorem Ctx.pushTokens_waitStart (x : Ctx) (l : List Nat) : (x.pushTokens l).waitStart = x.waitStart := rfl
@[simp] theorem Ctx.pushTokens_ccPop (x : Ctx) (l : List Nat) : (x.pushTokens l).ccPop = x.ccPop := rfl
@[simp] theorem Ctx.pushTokens_latch (x : Ctx) (l : List Nat) : (x.pushTokens l).latch = x.latch := rfl
@[simp] theorem Ctx.pushTokens_waitEntry (x : Ctx) (l : List Nat) : (x.pushTokens l).waitEntry = x.waitEntry := rfl
@[simp] theorem Ctx.pushTokens_parked (x : Ctx) (l : List Nat) : (x.pushTokens l).parked = x.parked := rfl
@[simp] theorem Ctx.pushTokens_collHandler (x : Ctx) (l : List Nat) : (x.pushTokens l).collHandler = x.collHandler := rfl
@[simp] theorem Ctx.pushTokens_stNext (x : Ctx) (l : List Nat) : (x.pushTokens l).stNext = x.stNext := rfl
@[simp] theorem Ctx.pushTokens_owed (x : Ctx) (l : List Nat) : (x.pushTokens l).owed = x.owed := rfl
@[simp] theorem Ctx.pushTokens_pinBy (x : Ctx) (l : List Nat) : (x.pushTokens l).pinBy = x.pinBy := rfl
@[simp] theorem Ctx.pushTokens_chimBy (x : Ctx) (l : List Nat) : (x.pushTokens l).chimBy = x.chimBy := rfl
@[simp] theorem Ctx.pushTokens_touchBy (x : Ctx) (l : List Nat) : (x.pushTokens l).touchBy = x.touchBy := rfl
@[simp] theorem Ctx.pushTokens_invs (x : Ctx) (l : List Nat) : (x.pushTokens l).invs = x.invs := rfl
@[simp] theorem Ctx.pushTokens_passed (x : Ctx) (l : List Nat) : (x.pushTokens l).passed = x.passed := rfl
@[simp] theorem Ctx.pushTokens_brkPassed (x : Ctx) (l : List Nat) : (x.pushTokens l).brkPassed = x.brkPassed := rfl

@[simp] theorem Ctx.putFlag_id (x : Ctx) (n : Nat) (v : W32) (b : Nat) : (x.putFlag n v b).id = x.id := rfl
@[simp] theorem Ctx.putFlag_lesson (x : Ctx) (n : Nat) (v : W32) (b : Nat) : (x.putFlag n v b).lesson = x.lesson := rfl
@[simp] theorem Ctx.putFlag_pc (x : Ctx) (n : Nat) (v : W32) (b : Nat) : (x.putFlag n v b).pc = x.pc := rfl
@[simp] theorem Ctx.putFlag_g (x : Ctx) (n : Nat) (v : W32) (b : Nat) : (x.putFlag n v b).g = x.g := rfl
@[simp] theorem Ctx.putFlag_sys (x : Ctx) (n : Nat) (v : W32) (b : Nat) : (x.putFlag n v b).sys = x.sys := rfl
@[simp] theorem Ctx.putFlag_q (x : Ctx) (n : Nat) (v : W32) (b : Nat) : (x.putFlag n v b).q = x.q := rfl
@[simp] theorem Ctx.putFlag_tokens (x : Ctx) (n : Nat) (v : W32) (b : Nat) : (x.putFlag n v b).tokens = x.tokens := rfl
@[simp] theorem Ctx.putFlag_v (x : Ctx) (n : Nat) (v : W32) (b : Nat) : (x.putFlag n v b).v = x.v := rfl
@[simp] theorem Ctx.putFlag_m (x : Ctx) (n : Nat) (v : W32) (b : Nat) : (x.putFlag n v b).m = x.m := rfl
@[simp] theorem Ctx.putFlag_acc (x : Ctx) (n : Nat) (v : W32) (b : Nat) : (x.putFlag n v b).acc = x.acc := rfl
@[simp] theorem Ctx.putFlag_planes (x : Ctx) (n : Nat) (v : W32) (b : Nat) : (x.putFlag n v b).planes = x.planes := rfl
@[simp] theorem Ctx.putFlag_badV (x : Ctx) (n : Nat) (v : W32) (b : Nat) : (x.putFlag n v b).badV = x.badV := rfl
@[simp] theorem Ctx.putFlag_badM (x : Ctx) (n : Nat) (v : W32) (b : Nat) : (x.putFlag n v b).badM = x.badM := rfl
@[simp] theorem Ctx.putFlag_badA (x : Ctx) (n : Nat) (v : W32) (b : Nat) : (x.putFlag n v b).badA = x.badA := rfl
@[simp] theorem Ctx.putFlag_badSlot (x : Ctx) (n : Nat) (v : W32) (b : Nat) : (x.putFlag n v b).badSlot = x.badSlot := rfl
@[simp] theorem Ctx.putFlag_dir (x : Ctx) (n : Nat) (v : W32) (b : Nat) : (x.putFlag n v b).dir = x.dir := rfl
@[simp] theorem Ctx.putFlag_shadowNest (x : Ctx) (n : Nat) (v : W32) (b : Nat) : (x.putFlag n v b).shadowNest = x.shadowNest := rfl
@[simp] theorem Ctx.putFlag_activeNest (x : Ctx) (n : Nat) (v : W32) (b : Nat) : (x.putFlag n v b).activeNest = x.activeNest := rfl
@[simp] theorem Ctx.putFlag_pushedNest (x : Ctx) (n : Nat) (v : W32) (b : Nat) : (x.putFlag n v b).pushedNest = x.pushedNest := rfl
@[simp] theorem Ctx.putFlag_pushedActive (x : Ctx) (n : Nat) (v : W32) (b : Nat) : (x.putFlag n v b).pushedActive = x.pushedActive := rfl
@[simp] theorem Ctx.putFlag_bank (x : Ctx) (n : Nat) (v : W32) (b : Nat) : (x.putFlag n v b).bank = x.bank := rfl
@[simp] theorem Ctx.putFlag_ld (x : Ctx) (n : Nat) (v : W32) (b : Nat) : (x.putFlag n v b).ld = x.ld := rfl
@[simp] theorem Ctx.putFlag_st (x : Ctx) (n : Nat) (v : W32) (b : Nat) : (x.putFlag n v b).st = x.st := rfl
@[simp] theorem Ctx.putFlag_vx (x : Ctx) (n : Nat) (v : W32) (b : Nat) : (x.putFlag n v b).vx = x.vx := rfl
@[simp] theorem Ctx.putFlag_mx (x : Ctx) (n : Nat) (v : W32) (b : Nat) : (x.putFlag n v b).mx = x.mx := rfl
@[simp] theorem Ctx.putFlag_lane (x : Ctx) (n : Nat) (v : W32) (b : Nat) : (x.putFlag n v b).lane = x.lane := rfl
@[simp] theorem Ctx.putFlag_seqs (x : Ctx) (n : Nat) (v : W32) (b : Nat) : (x.putFlag n v b).seqs = x.seqs := rfl
@[simp] theorem Ctx.putFlag_vxFifo (x : Ctx) (n : Nat) (v : W32) (b : Nat) : (x.putFlag n v b).vxFifo = x.vxFifo := rfl
@[simp] theorem Ctx.putFlag_mxFifo (x : Ctx) (n : Nat) (v : W32) (b : Nat) : (x.putFlag n v b).mxFifo = x.mxFifo := rfl
@[simp] theorem Ctx.putFlag_chimney (x : Ctx) (n : Nat) (v : W32) (b : Nat) : (x.putFlag n v b).chimney = x.chimney := rfl
@[simp] theorem Ctx.putFlag_chDone (x : Ctx) (n : Nat) (v : W32) (b : Nat) : (x.putFlag n v b).chDone = x.chDone := rfl
@[simp] theorem Ctx.putFlag_tlb (x : Ctx) (n : Nat) (v : W32) (b : Nat) : (x.putFlag n v b).tlb = x.tlb := rfl
@[simp] theorem Ctx.putFlag_tlbNext (x : Ctx) (n : Nat) (v : W32) (b : Nat) : (x.putFlag n v b).tlbNext = x.tlbNext := rfl
@[simp] theorem Ctx.putFlag_words (x : Ctx) (n : Nat) (v : W32) (b : Nat) : (x.putFlag n v b).words = x.words := rfl
@[simp] theorem Ctx.putFlag_wait (x : Ctx) (n : Nat) (v : W32) (b : Nat) : (x.putFlag n v b).wait = x.wait := rfl
@[simp] theorem Ctx.putFlag_held (x : Ctx) (n : Nat) (v : W32) (b : Nat) : (x.putFlag n v b).held = x.held := rfl
@[simp] theorem Ctx.putFlag_heldTrap (x : Ctx) (n : Nat) (v : W32) (b : Nat) : (x.putFlag n v b).heldTrap = x.heldTrap := rfl
@[simp] theorem Ctx.putFlag_path (x : Ctx) (n : Nat) (v : W32) (b : Nat) : (x.putFlag n v b).path = x.path := rfl
@[simp] theorem Ctx.putFlag_relScope (x : Ctx) (n : Nat) (v : W32) (b : Nat) : (x.putFlag n v b).relScope = x.relScope := rfl
@[simp] theorem Ctx.putFlag_acqScope (x : Ctx) (n : Nat) (v : W32) (b : Nat) : (x.putFlag n v b).acqScope = x.acqScope := rfl
@[simp] theorem Ctx.putFlag_pend (x : Ctx) (n : Nat) (v : W32) (b : Nat) : (x.putFlag n v b).pend = x.pend := rfl
@[simp] theorem Ctx.putFlag_exited (x : Ctx) (n : Nat) (v : W32) (b : Nat) : (x.putFlag n v b).exited = x.exited := rfl
@[simp] theorem Ctx.putFlag_halted (x : Ctx) (n : Nat) (v : W32) (b : Nat) : (x.putFlag n v b).halted = x.halted := rfl
@[simp] theorem Ctx.putFlag_waitStart (x : Ctx) (n : Nat) (v : W32) (b : Nat) : (x.putFlag n v b).waitStart = x.waitStart := rfl
@[simp] theorem Ctx.putFlag_ccPop (x : Ctx) (n : Nat) (v : W32) (b : Nat) : (x.putFlag n v b).ccPop = x.ccPop := rfl
@[simp] theorem Ctx.putFlag_latch (x : Ctx) (n : Nat) (v : W32) (b : Nat) : (x.putFlag n v b).latch = x.latch := rfl
@[simp] theorem Ctx.putFlag_waitEntry (x : Ctx) (n : Nat) (v : W32) (b : Nat) : (x.putFlag n v b).waitEntry = x.waitEntry := rfl
@[simp] theorem Ctx.putFlag_parked (x : Ctx) (n : Nat) (v : W32) (b : Nat) : (x.putFlag n v b).parked = x.parked := rfl
@[simp] theorem Ctx.putFlag_collHandler (x : Ctx) (n : Nat) (v : W32) (b : Nat) : (x.putFlag n v b).collHandler = x.collHandler := rfl
@[simp] theorem Ctx.putFlag_stNext (x : Ctx) (n : Nat) (v : W32) (b : Nat) : (x.putFlag n v b).stNext = x.stNext := rfl
@[simp] theorem Ctx.putFlag_owed (x : Ctx) (n : Nat) (v : W32) (b : Nat) : (x.putFlag n v b).owed = x.owed := rfl
@[simp] theorem Ctx.putFlag_pinBy (x : Ctx) (n : Nat) (v : W32) (b : Nat) : (x.putFlag n v b).pinBy = x.pinBy := rfl
@[simp] theorem Ctx.putFlag_chimBy (x : Ctx) (n : Nat) (v : W32) (b : Nat) : (x.putFlag n v b).chimBy = x.chimBy := rfl
@[simp] theorem Ctx.putFlag_touchBy (x : Ctx) (n : Nat) (v : W32) (b : Nat) : (x.putFlag n v b).touchBy = x.touchBy := rfl
@[simp] theorem Ctx.putFlag_invs (x : Ctx) (n : Nat) (v : W32) (b : Nat) : (x.putFlag n v b).invs = x.invs := rfl
@[simp] theorem Ctx.putFlag_passed (x : Ctx) (n : Nat) (v : W32) (b : Nat) : (x.putFlag n v b).passed = x.passed := rfl
@[simp] theorem Ctx.putFlag_brkPassed (x : Ctx) (n : Nat) (v : W32) (b : Nat) : (x.putFlag n v b).brkPassed = x.brkPassed := rfl

@[simp] theorem Ctx.setG_id (x : Ctx) (r : BitVec 5) (v : W64) : (x.setG r v).id = x.id := by unfold Ctx.setG; split <;> rfl
@[simp] theorem Ctx.setG_lesson (x : Ctx) (r : BitVec 5) (v : W64) : (x.setG r v).lesson = x.lesson := by unfold Ctx.setG; split <;> rfl
@[simp] theorem Ctx.setG_pc (x : Ctx) (r : BitVec 5) (v : W64) : (x.setG r v).pc = x.pc := by unfold Ctx.setG; split <;> rfl
@[simp] theorem Ctx.setG_sys (x : Ctx) (r : BitVec 5) (v : W64) : (x.setG r v).sys = x.sys := by unfold Ctx.setG; split <;> rfl
@[simp] theorem Ctx.setG_q (x : Ctx) (r : BitVec 5) (v : W64) : (x.setG r v).q = x.q := by unfold Ctx.setG; split <;> rfl
@[simp] theorem Ctx.setG_f (x : Ctx) (r : BitVec 5) (v : W64) : (x.setG r v).f = x.f := by unfold Ctx.setG; split <;> rfl
@[simp] theorem Ctx.setG_flagBy (x : Ctx) (r : BitVec 5) (v : W64) : (x.setG r v).flagBy = x.flagBy := by unfold Ctx.setG; split <;> rfl
@[simp] theorem Ctx.setG_tokens (x : Ctx) (r : BitVec 5) (v : W64) : (x.setG r v).tokens = x.tokens := by unfold Ctx.setG; split <;> rfl
@[simp] theorem Ctx.setG_v (x : Ctx) (r : BitVec 5) (v : W64) : (x.setG r v).v = x.v := by unfold Ctx.setG; split <;> rfl
@[simp] theorem Ctx.setG_m (x : Ctx) (r : BitVec 5) (v : W64) : (x.setG r v).m = x.m := by unfold Ctx.setG; split <;> rfl
@[simp] theorem Ctx.setG_acc (x : Ctx) (r : BitVec 5) (v : W64) : (x.setG r v).acc = x.acc := by unfold Ctx.setG; split <;> rfl
@[simp] theorem Ctx.setG_planes (x : Ctx) (r : BitVec 5) (v : W64) : (x.setG r v).planes = x.planes := by unfold Ctx.setG; split <;> rfl
@[simp] theorem Ctx.setG_badV (x : Ctx) (r : BitVec 5) (v : W64) : (x.setG r v).badV = x.badV := by unfold Ctx.setG; split <;> rfl
@[simp] theorem Ctx.setG_badM (x : Ctx) (r : BitVec 5) (v : W64) : (x.setG r v).badM = x.badM := by unfold Ctx.setG; split <;> rfl
@[simp] theorem Ctx.setG_badA (x : Ctx) (r : BitVec 5) (v : W64) : (x.setG r v).badA = x.badA := by unfold Ctx.setG; split <;> rfl
@[simp] theorem Ctx.setG_badSlot (x : Ctx) (r : BitVec 5) (v : W64) : (x.setG r v).badSlot = x.badSlot := by unfold Ctx.setG; split <;> rfl
@[simp] theorem Ctx.setG_dir (x : Ctx) (r : BitVec 5) (v : W64) : (x.setG r v).dir = x.dir := by unfold Ctx.setG; split <;> rfl
@[simp] theorem Ctx.setG_shadowNest (x : Ctx) (r : BitVec 5) (v : W64) : (x.setG r v).shadowNest = x.shadowNest := by unfold Ctx.setG; split <;> rfl
@[simp] theorem Ctx.setG_activeNest (x : Ctx) (r : BitVec 5) (v : W64) : (x.setG r v).activeNest = x.activeNest := by unfold Ctx.setG; split <;> rfl
@[simp] theorem Ctx.setG_pushedNest (x : Ctx) (r : BitVec 5) (v : W64) : (x.setG r v).pushedNest = x.pushedNest := by unfold Ctx.setG; split <;> rfl
@[simp] theorem Ctx.setG_pushedActive (x : Ctx) (r : BitVec 5) (v : W64) : (x.setG r v).pushedActive = x.pushedActive := by unfold Ctx.setG; split <;> rfl
@[simp] theorem Ctx.setG_bank (x : Ctx) (r : BitVec 5) (v : W64) : (x.setG r v).bank = x.bank := by unfold Ctx.setG; split <;> rfl
@[simp] theorem Ctx.setG_ld (x : Ctx) (r : BitVec 5) (v : W64) : (x.setG r v).ld = x.ld := by unfold Ctx.setG; split <;> rfl
@[simp] theorem Ctx.setG_st (x : Ctx) (r : BitVec 5) (v : W64) : (x.setG r v).st = x.st := by unfold Ctx.setG; split <;> rfl
@[simp] theorem Ctx.setG_vx (x : Ctx) (r : BitVec 5) (v : W64) : (x.setG r v).vx = x.vx := by unfold Ctx.setG; split <;> rfl
@[simp] theorem Ctx.setG_mx (x : Ctx) (r : BitVec 5) (v : W64) : (x.setG r v).mx = x.mx := by unfold Ctx.setG; split <;> rfl
@[simp] theorem Ctx.setG_lane (x : Ctx) (r : BitVec 5) (v : W64) : (x.setG r v).lane = x.lane := by unfold Ctx.setG; split <;> rfl
@[simp] theorem Ctx.setG_seqs (x : Ctx) (r : BitVec 5) (v : W64) : (x.setG r v).seqs = x.seqs := by unfold Ctx.setG; split <;> rfl
@[simp] theorem Ctx.setG_vxFifo (x : Ctx) (r : BitVec 5) (v : W64) : (x.setG r v).vxFifo = x.vxFifo := by unfold Ctx.setG; split <;> rfl
@[simp] theorem Ctx.setG_mxFifo (x : Ctx) (r : BitVec 5) (v : W64) : (x.setG r v).mxFifo = x.mxFifo := by unfold Ctx.setG; split <;> rfl
@[simp] theorem Ctx.setG_chimney (x : Ctx) (r : BitVec 5) (v : W64) : (x.setG r v).chimney = x.chimney := by unfold Ctx.setG; split <;> rfl
@[simp] theorem Ctx.setG_chDone (x : Ctx) (r : BitVec 5) (v : W64) : (x.setG r v).chDone = x.chDone := by unfold Ctx.setG; split <;> rfl
@[simp] theorem Ctx.setG_tlb (x : Ctx) (r : BitVec 5) (v : W64) : (x.setG r v).tlb = x.tlb := by unfold Ctx.setG; split <;> rfl
@[simp] theorem Ctx.setG_tlbNext (x : Ctx) (r : BitVec 5) (v : W64) : (x.setG r v).tlbNext = x.tlbNext := by unfold Ctx.setG; split <;> rfl
@[simp] theorem Ctx.setG_words (x : Ctx) (r : BitVec 5) (v : W64) : (x.setG r v).words = x.words := by unfold Ctx.setG; split <;> rfl
@[simp] theorem Ctx.setG_wait (x : Ctx) (r : BitVec 5) (v : W64) : (x.setG r v).wait = x.wait := by unfold Ctx.setG; split <;> rfl
@[simp] theorem Ctx.setG_held (x : Ctx) (r : BitVec 5) (v : W64) : (x.setG r v).held = x.held := by unfold Ctx.setG; split <;> rfl
@[simp] theorem Ctx.setG_heldTrap (x : Ctx) (r : BitVec 5) (v : W64) : (x.setG r v).heldTrap = x.heldTrap := by unfold Ctx.setG; split <;> rfl
@[simp] theorem Ctx.setG_path (x : Ctx) (r : BitVec 5) (v : W64) : (x.setG r v).path = x.path := by unfold Ctx.setG; split <;> rfl
@[simp] theorem Ctx.setG_relScope (x : Ctx) (r : BitVec 5) (v : W64) : (x.setG r v).relScope = x.relScope := by unfold Ctx.setG; split <;> rfl
@[simp] theorem Ctx.setG_acqScope (x : Ctx) (r : BitVec 5) (v : W64) : (x.setG r v).acqScope = x.acqScope := by unfold Ctx.setG; split <;> rfl
@[simp] theorem Ctx.setG_pend (x : Ctx) (r : BitVec 5) (v : W64) : (x.setG r v).pend = x.pend := by unfold Ctx.setG; split <;> rfl
@[simp] theorem Ctx.setG_exited (x : Ctx) (r : BitVec 5) (v : W64) : (x.setG r v).exited = x.exited := by unfold Ctx.setG; split <;> rfl
@[simp] theorem Ctx.setG_halted (x : Ctx) (r : BitVec 5) (v : W64) : (x.setG r v).halted = x.halted := by unfold Ctx.setG; split <;> rfl
@[simp] theorem Ctx.setG_waitStart (x : Ctx) (r : BitVec 5) (v : W64) : (x.setG r v).waitStart = x.waitStart := by unfold Ctx.setG; split <;> rfl
@[simp] theorem Ctx.setG_ccPop (x : Ctx) (r : BitVec 5) (v : W64) : (x.setG r v).ccPop = x.ccPop := by unfold Ctx.setG; split <;> rfl
@[simp] theorem Ctx.setG_latch (x : Ctx) (r : BitVec 5) (v : W64) : (x.setG r v).latch = x.latch := by unfold Ctx.setG; split <;> rfl
@[simp] theorem Ctx.setG_waitEntry (x : Ctx) (r : BitVec 5) (v : W64) : (x.setG r v).waitEntry = x.waitEntry := by unfold Ctx.setG; split <;> rfl
@[simp] theorem Ctx.setG_parked (x : Ctx) (r : BitVec 5) (v : W64) : (x.setG r v).parked = x.parked := by unfold Ctx.setG; split <;> rfl
@[simp] theorem Ctx.setG_collHandler (x : Ctx) (r : BitVec 5) (v : W64) : (x.setG r v).collHandler = x.collHandler := by unfold Ctx.setG; split <;> rfl
@[simp] theorem Ctx.setG_stNext (x : Ctx) (r : BitVec 5) (v : W64) : (x.setG r v).stNext = x.stNext := by unfold Ctx.setG; split <;> rfl
@[simp] theorem Ctx.setG_owed (x : Ctx) (r : BitVec 5) (v : W64) : (x.setG r v).owed = x.owed := by unfold Ctx.setG; split <;> rfl
@[simp] theorem Ctx.setG_pinBy (x : Ctx) (r : BitVec 5) (v : W64) : (x.setG r v).pinBy = x.pinBy := by unfold Ctx.setG; split <;> rfl
@[simp] theorem Ctx.setG_chimBy (x : Ctx) (r : BitVec 5) (v : W64) : (x.setG r v).chimBy = x.chimBy := by unfold Ctx.setG; split <;> rfl
@[simp] theorem Ctx.setG_touchBy (x : Ctx) (r : BitVec 5) (v : W64) : (x.setG r v).touchBy = x.touchBy := by unfold Ctx.setG; split <;> rfl
@[simp] theorem Ctx.setG_invs (x : Ctx) (r : BitVec 5) (v : W64) : (x.setG r v).invs = x.invs := by unfold Ctx.setG; split <;> rfl
@[simp] theorem Ctx.setG_passed (x : Ctx) (r : BitVec 5) (v : W64) : (x.setG r v).passed = x.passed := by unfold Ctx.setG; split <;> rfl
@[simp] theorem Ctx.setG_brkPassed (x : Ctx) (r : BitVec 5) (v : W64) : (x.setG r v).brkPassed = x.brkPassed := by unfold Ctx.setG; split <;> rfl

@[simp] theorem Ctx.setMask_id (x : Ctx) (n : Nat) (v : BitVec 1024) : (x.setMask n v).id = x.id := by unfold Ctx.setMask; split <;> rfl
@[simp] theorem Ctx.setMask_lesson (x : Ctx) (n : Nat) (v : BitVec 1024) : (x.setMask n v).lesson = x.lesson := by unfold Ctx.setMask; split <;> rfl
@[simp] theorem Ctx.setMask_pc (x : Ctx) (n : Nat) (v : BitVec 1024) : (x.setMask n v).pc = x.pc := by unfold Ctx.setMask; split <;> rfl
@[simp] theorem Ctx.setMask_g (x : Ctx) (n : Nat) (v : BitVec 1024) : (x.setMask n v).g = x.g := by unfold Ctx.setMask; split <;> rfl
@[simp] theorem Ctx.setMask_sys (x : Ctx) (n : Nat) (v : BitVec 1024) : (x.setMask n v).sys = x.sys := by unfold Ctx.setMask; split <;> rfl
@[simp] theorem Ctx.setMask_q (x : Ctx) (n : Nat) (v : BitVec 1024) : (x.setMask n v).q = x.q := by unfold Ctx.setMask; split <;> rfl
@[simp] theorem Ctx.setMask_f (x : Ctx) (n : Nat) (v : BitVec 1024) : (x.setMask n v).f = x.f := by unfold Ctx.setMask; split <;> rfl
@[simp] theorem Ctx.setMask_flagBy (x : Ctx) (n : Nat) (v : BitVec 1024) : (x.setMask n v).flagBy = x.flagBy := by unfold Ctx.setMask; split <;> rfl
@[simp] theorem Ctx.setMask_tokens (x : Ctx) (n : Nat) (v : BitVec 1024) : (x.setMask n v).tokens = x.tokens := by unfold Ctx.setMask; split <;> rfl
@[simp] theorem Ctx.setMask_v (x : Ctx) (n : Nat) (v : BitVec 1024) : (x.setMask n v).v = x.v := by unfold Ctx.setMask; split <;> rfl
@[simp] theorem Ctx.setMask_acc (x : Ctx) (n : Nat) (v : BitVec 1024) : (x.setMask n v).acc = x.acc := by unfold Ctx.setMask; split <;> rfl
@[simp] theorem Ctx.setMask_planes (x : Ctx) (n : Nat) (v : BitVec 1024) : (x.setMask n v).planes = x.planes := by unfold Ctx.setMask; split <;> rfl
@[simp] theorem Ctx.setMask_badV (x : Ctx) (n : Nat) (v : BitVec 1024) : (x.setMask n v).badV = x.badV := by unfold Ctx.setMask; split <;> rfl
@[simp] theorem Ctx.setMask_badM (x : Ctx) (n : Nat) (v : BitVec 1024) : (x.setMask n v).badM = x.badM := by unfold Ctx.setMask; split <;> rfl
@[simp] theorem Ctx.setMask_badA (x : Ctx) (n : Nat) (v : BitVec 1024) : (x.setMask n v).badA = x.badA := by unfold Ctx.setMask; split <;> rfl
@[simp] theorem Ctx.setMask_badSlot (x : Ctx) (n : Nat) (v : BitVec 1024) : (x.setMask n v).badSlot = x.badSlot := by unfold Ctx.setMask; split <;> rfl
@[simp] theorem Ctx.setMask_dir (x : Ctx) (n : Nat) (v : BitVec 1024) : (x.setMask n v).dir = x.dir := by unfold Ctx.setMask; split <;> rfl
@[simp] theorem Ctx.setMask_shadowNest (x : Ctx) (n : Nat) (v : BitVec 1024) : (x.setMask n v).shadowNest = x.shadowNest := by unfold Ctx.setMask; split <;> rfl
@[simp] theorem Ctx.setMask_activeNest (x : Ctx) (n : Nat) (v : BitVec 1024) : (x.setMask n v).activeNest = x.activeNest := by unfold Ctx.setMask; split <;> rfl
@[simp] theorem Ctx.setMask_pushedNest (x : Ctx) (n : Nat) (v : BitVec 1024) : (x.setMask n v).pushedNest = x.pushedNest := by unfold Ctx.setMask; split <;> rfl
@[simp] theorem Ctx.setMask_pushedActive (x : Ctx) (n : Nat) (v : BitVec 1024) : (x.setMask n v).pushedActive = x.pushedActive := by unfold Ctx.setMask; split <;> rfl
@[simp] theorem Ctx.setMask_bank (x : Ctx) (n : Nat) (v : BitVec 1024) : (x.setMask n v).bank = x.bank := by unfold Ctx.setMask; split <;> rfl
@[simp] theorem Ctx.setMask_ld (x : Ctx) (n : Nat) (v : BitVec 1024) : (x.setMask n v).ld = x.ld := by unfold Ctx.setMask; split <;> rfl
@[simp] theorem Ctx.setMask_st (x : Ctx) (n : Nat) (v : BitVec 1024) : (x.setMask n v).st = x.st := by unfold Ctx.setMask; split <;> rfl
@[simp] theorem Ctx.setMask_vx (x : Ctx) (n : Nat) (v : BitVec 1024) : (x.setMask n v).vx = x.vx := by unfold Ctx.setMask; split <;> rfl
@[simp] theorem Ctx.setMask_mx (x : Ctx) (n : Nat) (v : BitVec 1024) : (x.setMask n v).mx = x.mx := by unfold Ctx.setMask; split <;> rfl
@[simp] theorem Ctx.setMask_lane (x : Ctx) (n : Nat) (v : BitVec 1024) : (x.setMask n v).lane = x.lane := by unfold Ctx.setMask; split <;> rfl
@[simp] theorem Ctx.setMask_seqs (x : Ctx) (n : Nat) (v : BitVec 1024) : (x.setMask n v).seqs = x.seqs := by unfold Ctx.setMask; split <;> rfl
@[simp] theorem Ctx.setMask_vxFifo (x : Ctx) (n : Nat) (v : BitVec 1024) : (x.setMask n v).vxFifo = x.vxFifo := by unfold Ctx.setMask; split <;> rfl
@[simp] theorem Ctx.setMask_mxFifo (x : Ctx) (n : Nat) (v : BitVec 1024) : (x.setMask n v).mxFifo = x.mxFifo := by unfold Ctx.setMask; split <;> rfl
@[simp] theorem Ctx.setMask_chimney (x : Ctx) (n : Nat) (v : BitVec 1024) : (x.setMask n v).chimney = x.chimney := by unfold Ctx.setMask; split <;> rfl
@[simp] theorem Ctx.setMask_chDone (x : Ctx) (n : Nat) (v : BitVec 1024) : (x.setMask n v).chDone = x.chDone := by unfold Ctx.setMask; split <;> rfl
@[simp] theorem Ctx.setMask_tlb (x : Ctx) (n : Nat) (v : BitVec 1024) : (x.setMask n v).tlb = x.tlb := by unfold Ctx.setMask; split <;> rfl
@[simp] theorem Ctx.setMask_tlbNext (x : Ctx) (n : Nat) (v : BitVec 1024) : (x.setMask n v).tlbNext = x.tlbNext := by unfold Ctx.setMask; split <;> rfl
@[simp] theorem Ctx.setMask_words (x : Ctx) (n : Nat) (v : BitVec 1024) : (x.setMask n v).words = x.words := by unfold Ctx.setMask; split <;> rfl
@[simp] theorem Ctx.setMask_wait (x : Ctx) (n : Nat) (v : BitVec 1024) : (x.setMask n v).wait = x.wait := by unfold Ctx.setMask; split <;> rfl
@[simp] theorem Ctx.setMask_held (x : Ctx) (n : Nat) (v : BitVec 1024) : (x.setMask n v).held = x.held := by unfold Ctx.setMask; split <;> rfl
@[simp] theorem Ctx.setMask_heldTrap (x : Ctx) (n : Nat) (v : BitVec 1024) : (x.setMask n v).heldTrap = x.heldTrap := by unfold Ctx.setMask; split <;> rfl
@[simp] theorem Ctx.setMask_path (x : Ctx) (n : Nat) (v : BitVec 1024) : (x.setMask n v).path = x.path := by unfold Ctx.setMask; split <;> rfl
@[simp] theorem Ctx.setMask_relScope (x : Ctx) (n : Nat) (v : BitVec 1024) : (x.setMask n v).relScope = x.relScope := by unfold Ctx.setMask; split <;> rfl
@[simp] theorem Ctx.setMask_acqScope (x : Ctx) (n : Nat) (v : BitVec 1024) : (x.setMask n v).acqScope = x.acqScope := by unfold Ctx.setMask; split <;> rfl
@[simp] theorem Ctx.setMask_pend (x : Ctx) (n : Nat) (v : BitVec 1024) : (x.setMask n v).pend = x.pend := by unfold Ctx.setMask; split <;> rfl
@[simp] theorem Ctx.setMask_exited (x : Ctx) (n : Nat) (v : BitVec 1024) : (x.setMask n v).exited = x.exited := by unfold Ctx.setMask; split <;> rfl
@[simp] theorem Ctx.setMask_halted (x : Ctx) (n : Nat) (v : BitVec 1024) : (x.setMask n v).halted = x.halted := by unfold Ctx.setMask; split <;> rfl
@[simp] theorem Ctx.setMask_waitStart (x : Ctx) (n : Nat) (v : BitVec 1024) : (x.setMask n v).waitStart = x.waitStart := by unfold Ctx.setMask; split <;> rfl
@[simp] theorem Ctx.setMask_ccPop (x : Ctx) (n : Nat) (v : BitVec 1024) : (x.setMask n v).ccPop = x.ccPop := by unfold Ctx.setMask; split <;> rfl
@[simp] theorem Ctx.setMask_latch (x : Ctx) (n : Nat) (v : BitVec 1024) : (x.setMask n v).latch = x.latch := by unfold Ctx.setMask; split <;> rfl
@[simp] theorem Ctx.setMask_waitEntry (x : Ctx) (n : Nat) (v : BitVec 1024) : (x.setMask n v).waitEntry = x.waitEntry := by unfold Ctx.setMask; split <;> rfl
@[simp] theorem Ctx.setMask_parked (x : Ctx) (n : Nat) (v : BitVec 1024) : (x.setMask n v).parked = x.parked := by unfold Ctx.setMask; split <;> rfl
@[simp] theorem Ctx.setMask_collHandler (x : Ctx) (n : Nat) (v : BitVec 1024) : (x.setMask n v).collHandler = x.collHandler := by unfold Ctx.setMask; split <;> rfl
@[simp] theorem Ctx.setMask_stNext (x : Ctx) (n : Nat) (v : BitVec 1024) : (x.setMask n v).stNext = x.stNext := by unfold Ctx.setMask; split <;> rfl
@[simp] theorem Ctx.setMask_owed (x : Ctx) (n : Nat) (v : BitVec 1024) : (x.setMask n v).owed = x.owed := by unfold Ctx.setMask; split <;> rfl
@[simp] theorem Ctx.setMask_pinBy (x : Ctx) (n : Nat) (v : BitVec 1024) : (x.setMask n v).pinBy = x.pinBy := by unfold Ctx.setMask; split <;> rfl
@[simp] theorem Ctx.setMask_chimBy (x : Ctx) (n : Nat) (v : BitVec 1024) : (x.setMask n v).chimBy = x.chimBy := by unfold Ctx.setMask; split <;> rfl
@[simp] theorem Ctx.setMask_touchBy (x : Ctx) (n : Nat) (v : BitVec 1024) : (x.setMask n v).touchBy = x.touchBy := by unfold Ctx.setMask; split <;> rfl
@[simp] theorem Ctx.setMask_invs (x : Ctx) (n : Nat) (v : BitVec 1024) : (x.setMask n v).invs = x.invs := by unfold Ctx.setMask; split <;> rfl
@[simp] theorem Ctx.setMask_passed (x : Ctx) (n : Nat) (v : BitVec 1024) : (x.setMask n v).passed = x.passed := by unfold Ctx.setMask; split <;> rfl
@[simp] theorem Ctx.setMask_brkPassed (x : Ctx) (n : Nat) (v : BitVec 1024) : (x.setMask n v).brkPassed = x.brkPassed := by unfold Ctx.setMask; split <;> rfl

@[simp] theorem Ctx.setQueue_id (x : Ctx) (a : Agent) (q : List Cmd) : (x.setQueue a q).id = x.id := by cases a <;> rfl
@[simp] theorem Ctx.setQueue_lesson (x : Ctx) (a : Agent) (q : List Cmd) : (x.setQueue a q).lesson = x.lesson := by cases a <;> rfl
@[simp] theorem Ctx.setQueue_pc (x : Ctx) (a : Agent) (q : List Cmd) : (x.setQueue a q).pc = x.pc := by cases a <;> rfl
@[simp] theorem Ctx.setQueue_g (x : Ctx) (a : Agent) (q : List Cmd) : (x.setQueue a q).g = x.g := by cases a <;> rfl
@[simp] theorem Ctx.setQueue_sys (x : Ctx) (a : Agent) (q : List Cmd) : (x.setQueue a q).sys = x.sys := by cases a <;> rfl
@[simp] theorem Ctx.setQueue_q (x : Ctx) (a : Agent) (q : List Cmd) : (x.setQueue a q).q = x.q := by cases a <;> rfl
@[simp] theorem Ctx.setQueue_f (x : Ctx) (a : Agent) (q : List Cmd) : (x.setQueue a q).f = x.f := by cases a <;> rfl
@[simp] theorem Ctx.setQueue_flagBy (x : Ctx) (a : Agent) (q : List Cmd) : (x.setQueue a q).flagBy = x.flagBy := by cases a <;> rfl
@[simp] theorem Ctx.setQueue_tokens (x : Ctx) (a : Agent) (q : List Cmd) : (x.setQueue a q).tokens = x.tokens := by cases a <;> rfl
@[simp] theorem Ctx.setQueue_v (x : Ctx) (a : Agent) (q : List Cmd) : (x.setQueue a q).v = x.v := by cases a <;> rfl
@[simp] theorem Ctx.setQueue_m (x : Ctx) (a : Agent) (q : List Cmd) : (x.setQueue a q).m = x.m := by cases a <;> rfl
@[simp] theorem Ctx.setQueue_acc (x : Ctx) (a : Agent) (q : List Cmd) : (x.setQueue a q).acc = x.acc := by cases a <;> rfl
@[simp] theorem Ctx.setQueue_planes (x : Ctx) (a : Agent) (q : List Cmd) : (x.setQueue a q).planes = x.planes := by cases a <;> rfl
@[simp] theorem Ctx.setQueue_badV (x : Ctx) (a : Agent) (q : List Cmd) : (x.setQueue a q).badV = x.badV := by cases a <;> rfl
@[simp] theorem Ctx.setQueue_badM (x : Ctx) (a : Agent) (q : List Cmd) : (x.setQueue a q).badM = x.badM := by cases a <;> rfl
@[simp] theorem Ctx.setQueue_badA (x : Ctx) (a : Agent) (q : List Cmd) : (x.setQueue a q).badA = x.badA := by cases a <;> rfl
@[simp] theorem Ctx.setQueue_badSlot (x : Ctx) (a : Agent) (q : List Cmd) : (x.setQueue a q).badSlot = x.badSlot := by cases a <;> rfl
@[simp] theorem Ctx.setQueue_dir (x : Ctx) (a : Agent) (q : List Cmd) : (x.setQueue a q).dir = x.dir := by cases a <;> rfl
@[simp] theorem Ctx.setQueue_shadowNest (x : Ctx) (a : Agent) (q : List Cmd) : (x.setQueue a q).shadowNest = x.shadowNest := by cases a <;> rfl
@[simp] theorem Ctx.setQueue_activeNest (x : Ctx) (a : Agent) (q : List Cmd) : (x.setQueue a q).activeNest = x.activeNest := by cases a <;> rfl
@[simp] theorem Ctx.setQueue_pushedNest (x : Ctx) (a : Agent) (q : List Cmd) : (x.setQueue a q).pushedNest = x.pushedNest := by cases a <;> rfl
@[simp] theorem Ctx.setQueue_pushedActive (x : Ctx) (a : Agent) (q : List Cmd) : (x.setQueue a q).pushedActive = x.pushedActive := by cases a <;> rfl
@[simp] theorem Ctx.setQueue_bank (x : Ctx) (a : Agent) (q : List Cmd) : (x.setQueue a q).bank = x.bank := by cases a <;> rfl
@[simp] theorem Ctx.setQueue_lane (x : Ctx) (a : Agent) (q : List Cmd) : (x.setQueue a q).lane = x.lane := by cases a <;> rfl
@[simp] theorem Ctx.setQueue_seqs (x : Ctx) (a : Agent) (q : List Cmd) : (x.setQueue a q).seqs = x.seqs := by cases a <;> rfl
@[simp] theorem Ctx.setQueue_vxFifo (x : Ctx) (a : Agent) (q : List Cmd) : (x.setQueue a q).vxFifo = x.vxFifo := by cases a <;> rfl
@[simp] theorem Ctx.setQueue_mxFifo (x : Ctx) (a : Agent) (q : List Cmd) : (x.setQueue a q).mxFifo = x.mxFifo := by cases a <;> rfl
@[simp] theorem Ctx.setQueue_chimney (x : Ctx) (a : Agent) (q : List Cmd) : (x.setQueue a q).chimney = x.chimney := by cases a <;> rfl
@[simp] theorem Ctx.setQueue_chDone (x : Ctx) (a : Agent) (q : List Cmd) : (x.setQueue a q).chDone = x.chDone := by cases a <;> rfl
@[simp] theorem Ctx.setQueue_tlb (x : Ctx) (a : Agent) (q : List Cmd) : (x.setQueue a q).tlb = x.tlb := by cases a <;> rfl
@[simp] theorem Ctx.setQueue_tlbNext (x : Ctx) (a : Agent) (q : List Cmd) : (x.setQueue a q).tlbNext = x.tlbNext := by cases a <;> rfl
@[simp] theorem Ctx.setQueue_words (x : Ctx) (a : Agent) (q : List Cmd) : (x.setQueue a q).words = x.words := by cases a <;> rfl
@[simp] theorem Ctx.setQueue_wait (x : Ctx) (a : Agent) (q : List Cmd) : (x.setQueue a q).wait = x.wait := by cases a <;> rfl
@[simp] theorem Ctx.setQueue_held (x : Ctx) (a : Agent) (q : List Cmd) : (x.setQueue a q).held = x.held := by cases a <;> rfl
@[simp] theorem Ctx.setQueue_heldTrap (x : Ctx) (a : Agent) (q : List Cmd) : (x.setQueue a q).heldTrap = x.heldTrap := by cases a <;> rfl
@[simp] theorem Ctx.setQueue_path (x : Ctx) (a : Agent) (q : List Cmd) : (x.setQueue a q).path = x.path := by cases a <;> rfl
@[simp] theorem Ctx.setQueue_relScope (x : Ctx) (a : Agent) (q : List Cmd) : (x.setQueue a q).relScope = x.relScope := by cases a <;> rfl
@[simp] theorem Ctx.setQueue_acqScope (x : Ctx) (a : Agent) (q : List Cmd) : (x.setQueue a q).acqScope = x.acqScope := by cases a <;> rfl
@[simp] theorem Ctx.setQueue_pend (x : Ctx) (a : Agent) (q : List Cmd) : (x.setQueue a q).pend = x.pend := by cases a <;> rfl
@[simp] theorem Ctx.setQueue_exited (x : Ctx) (a : Agent) (q : List Cmd) : (x.setQueue a q).exited = x.exited := by cases a <;> rfl
@[simp] theorem Ctx.setQueue_halted (x : Ctx) (a : Agent) (q : List Cmd) : (x.setQueue a q).halted = x.halted := by cases a <;> rfl
@[simp] theorem Ctx.setQueue_waitStart (x : Ctx) (a : Agent) (q : List Cmd) : (x.setQueue a q).waitStart = x.waitStart := by cases a <;> rfl
@[simp] theorem Ctx.setQueue_ccPop (x : Ctx) (a : Agent) (q : List Cmd) : (x.setQueue a q).ccPop = x.ccPop := by cases a <;> rfl
@[simp] theorem Ctx.setQueue_latch (x : Ctx) (a : Agent) (q : List Cmd) : (x.setQueue a q).latch = x.latch := by cases a <;> rfl
@[simp] theorem Ctx.setQueue_waitEntry (x : Ctx) (a : Agent) (q : List Cmd) : (x.setQueue a q).waitEntry = x.waitEntry := by cases a <;> rfl
@[simp] theorem Ctx.setQueue_parked (x : Ctx) (a : Agent) (q : List Cmd) : (x.setQueue a q).parked = x.parked := by cases a <;> rfl
@[simp] theorem Ctx.setQueue_collHandler (x : Ctx) (a : Agent) (q : List Cmd) : (x.setQueue a q).collHandler = x.collHandler := by cases a <;> rfl
@[simp] theorem Ctx.setQueue_stNext (x : Ctx) (a : Agent) (q : List Cmd) : (x.setQueue a q).stNext = x.stNext := by cases a <;> rfl
@[simp] theorem Ctx.setQueue_owed (x : Ctx) (a : Agent) (q : List Cmd) : (x.setQueue a q).owed = x.owed := by cases a <;> rfl
@[simp] theorem Ctx.setQueue_pinBy (x : Ctx) (a : Agent) (q : List Cmd) : (x.setQueue a q).pinBy = x.pinBy := by cases a <;> rfl
@[simp] theorem Ctx.setQueue_chimBy (x : Ctx) (a : Agent) (q : List Cmd) : (x.setQueue a q).chimBy = x.chimBy := by cases a <;> rfl
@[simp] theorem Ctx.setQueue_touchBy (x : Ctx) (a : Agent) (q : List Cmd) : (x.setQueue a q).touchBy = x.touchBy := by cases a <;> rfl
@[simp] theorem Ctx.setQueue_invs (x : Ctx) (a : Agent) (q : List Cmd) : (x.setQueue a q).invs = x.invs := by cases a <;> rfl
@[simp] theorem Ctx.setQueue_passed (x : Ctx) (a : Agent) (q : List Cmd) : (x.setQueue a q).passed = x.passed := by cases a <;> rfl
@[simp] theorem Ctx.setQueue_brkPassed (x : Ctx) (a : Agent) (q : List Cmd) : (x.setQueue a q).brkPassed = x.brkPassed := by cases a <;> rfl


/-! ## Reading what was written -/

@[simp] theorem State.core_setCore (s : State) (c : Nat) (k : Core) : (s.setCore c k).core c = k := SMap.get_put_same _ _ _ _
theorem State.core_setCore_other (s : State) {c d : Nat} (k : Core) (h : d ≠ c) : (s.setCore c k).core d = s.core d :=
  SMap.get_put_other _ _ _ h
@[simp] theorem State.live_setLive (s : State) (c : Nat) (x : Ctx) : (s.setLive c x).live c = x := by
  simp [State.setLive, State.live]
theorem State.live_setLive_other (s : State) {c d : Nat} (x : Ctx) (h : d ≠ c) : (s.setLive c x).live d = s.live d := by
  simp [State.setLive, State.live, State.core_setCore_other s _ h]
@[simp] theorem State.core_setLive (s : State) (c : Nat) (x : Ctx) : (s.setLive c x).core c = { s.core c with live := x } := by
  simp [State.setLive]
@[simp] theorem State.ctx_setCtx (s : State) (x : Ctx) : (s.setCtx x).ctx = x := by
  simp [State.setCtx, State.ctx]
@[simp] theorem State.context_setContext (s : State) (c : Nat) (x : Context) : (s.setContext c x).context c = x :=
  SMap.get_put_same _ _ _ _
theorem State.context_setContext_other (s : State) {c d : Nat} (x : Context) (h : d ≠ c) :
    (s.setContext c x).context d = s.context d := SMap.get_put_other _ _ _ h
@[simp] theorem State.head_setHead (s : State) (h : Nat) (x : Headland) : (s.setHead h x).head h = x := SMap.get_put_same _ _ _ _
theorem State.head_setHead_other (s : State) {h i : Nat} (x : Headland) (n : i ≠ h) : (s.setHead h x).head i = s.head i :=
  SMap.get_put_other _ _ _ n
@[simp] theorem State.page_setPage (s : State) (p : Nat) (x : Page) : (s.setPage p x).page p = x := SMap.get_put_same _ _ _ _
theorem State.page_setPage_other (s : State) {p q : Nat} (x : Page) (h : q ≠ p) : (s.setPage p x).page q = s.page q :=
  SMap.get_put_other _ _ _ h
@[simp] theorem State.link_setLink (s : State) (l : Nat) (x : Link) : (s.setLink l x).link l = x := SMap.get_put_same _ _ _ _
@[simp] theorem State.core_setContext (s : State) (c d : Nat) (x : Context) : (s.setContext c x).core d = s.core d := rfl
@[simp] theorem State.core_setHead (s : State) (h d : Nat) (x : Headland) : (s.setHead h x).core d = s.core d := rfl
@[simp] theorem State.core_setPage (s : State) (p d : Nat) (x : Page) : (s.setPage p x).core d = s.core d := rfl
@[simp] theorem State.live_setContext (s : State) (c d : Nat) (x : Context) : (s.setContext c x).live d = s.live d := rfl
@[simp] theorem State.live_setHead (s : State) (h d : Nat) (x : Headland) : (s.setHead h x).live d = s.live d := rfl
@[simp] theorem State.head_setCore (s : State) (h c : Nat) (k : Core) : (s.setCore c k).head h = s.head h := rfl
@[simp] theorem State.head_setLive (s : State) (h c : Nat) (x : Ctx) : (s.setLive c x).head h = s.head h := rfl

@[simp] theorem Ctx.rg_zero (x : Ctx) : x.rg 0 = 0 := rfl
@[simp] theorem Ctx.setG_zero (x : Ctx) (v : W64) : x.setG 0 v = x := rfl
/-- A general register after a write: g0 stays zero (R95, R107). -/
theorem Ctx.rg_setG (x : Ctx) (r q : BitVec 5) (v : W64) :
    (x.setG r v).rg q = if q = r ∧ r ≠ 0 then v else x.rg q := by
  by_cases hr : r = 0
  · have hn : ¬(q = r ∧ r ≠ 0) := fun h => h.2 hr
    rw [if_neg hn]; subst hr; rfl
  · by_cases hq : q = 0
    · have hn : ¬(q = r ∧ r ≠ 0) := fun h => hr (h.1 ▸ hq)
      rw [if_neg hn]; subst hq; rfl
    · have e : (x.setG r v).rg q = SMap.get 0 (SMap.put x.g r.toNat v) q.toNat := by
        unfold Ctx.setG Ctx.rg; rw [if_neg hr, if_neg hq]
      have e' : x.rg q = SMap.get 0 x.g q.toNat := by unfold Ctx.rg; rw [if_neg hq]
      rw [e, e']
      by_cases h : q = r
      · rw [if_pos ⟨h, hr⟩, h]; exact SMap.get_put_same _ _ _ _
      · have hn : ¬(q = r ∧ r ≠ 0) := fun e => h e.1
        rw [if_neg hn]
        exact SMap.get_put_other _ _ _ fun e => h (BitVec.eq_of_toNat_eq e)
@[simp] theorem Ctx.sr_setSr (x : Ctx) (n : Nat) (v : W64) : (x.setSr n v).sr n = v := SMap.get_put_same _ _ _ _
theorem Ctx.sr_setSr_other (x : Ctx) {n m : Nat} (v : W64) (h : m ≠ n) : (x.setSr n v).sr m = x.sr m := SMap.get_put_other _ _ _ h
@[simp] theorem Ctx.sr_setG (x : Ctx) (r : BitVec 5) (v : W64) (n : Nat) : (x.setG r v).sr n = x.sr n := by simp [Ctx.sr]
@[simp] theorem Ctx.rg_setSr (x : Ctx) (r : BitVec 5) (v : W64) (n : Nat) : (x.setSr n v).rg r = x.rg r := rfl
@[simp] theorem Ctx.rg_popTokens (x : Ctx) (l : List Nat) (r : BitVec 5) : (x.popTokens l).rg r = x.rg r := rfl
@[simp] theorem Ctx.rg_pushTokens (x : Ctx) (l : List Nat) (r : BitVec 5) : (x.pushTokens l).rg r = x.rg r := rfl
@[simp] theorem Ctx.sr_popTokens (x : Ctx) (l : List Nat) (n : Nat) : (x.popTokens l).sr n = x.sr n := rfl
@[simp] theorem Ctx.sr_pushTokens (x : Ctx) (l : List Nat) (n : Nat) : (x.pushTokens l).sr n = x.sr n := rfl
@[simp] theorem Ctx.queue_setQueue (x : Ctx) (a : Agent) (q : List Cmd) (h : a ≠ .cc) : (x.setQueue a q).queue a = q := by
  cases a <;> first | rfl | exact absurd rfl h

/-! ## The copies of a start -/

@[simp] theorem SeqRes.next_done {α β : Type} (s : State) (a : α) (f : State → α → SeqRes β) : (SeqRes.done s a).next f = f s a := rfl
@[simp] theorem SeqRes.next_bad {α β : Type} (s : State) (b : SeqBad) (f : State → α → SeqRes β) :
    (SeqRes.bad s b : SeqRes α).next f = .bad s b := rfl
@[simp] theorem SeqRes.next_waits {α β : Type} (l : List (Nat × Nat)) (f : State → α → SeqRes β) :
    (SeqRes.waits l : SeqRes α).next f = .waits l := rfl
/-- Copies of no parts change nothing. -/
@[simp] theorem runAll_nil {α : Type} (f : State → α → SeqRes Unit) (s : State) : runAll f [] s = .done s () := rfl
@[simp] theorem runAll_cons {α : Type} (f : State → α → SeqRes Unit) (a : α) (r : List α) (s : State) :
    runAll f (a :: r) s = (f s a).next fun s _ => runAll f r s := rfl
/-- What a sequencer reads where no unit is gated and none held, nothing is uncorrectable and no deadline has passed: the places, with the
correctable errors that they meet corrected (R34, R64). -/
theorem State.seqRead_clean (s : State) (core : Nat) (ps : List Place) (hg : s.engGated ps = []) (hb : s.engBlocked ps = false)
    (h : ∀ p ∈ ps, s.badRead p = false) : s.seqRead core false ps = .done (s.seqMeet ps) ps := by
  have hf : ps.find? s.badRead = none := List.find?_eq_none.mpr fun p hp => by simp [h p hp]
  simp [State.seqRead, hg, hb, hf]

/-- A stream that is read writes no page (R48). -/
theorem Use.paged_read (u : Use) (h : u.read = true) : ∀ p ∈ u.paged, p.2 = false := by
  intro p hp
  simp only [Use.paged, h, List.mem_flatMap, List.mem_append, List.mem_map] at hp
  obtain ⟨_, _, (⟨_, _, rfl⟩ | ⟨_, _, rfl⟩) | ⟨_, _, rfl⟩⟩ := hp <;> rfl

end Sys2Proof.Machine
end

