-- ==== Sys2Proof/Laws/Run.lean ====
section
/-! SUPPORT. What an instruction word of the control core comes to: it completes, traps or waits. The statements about single
instructions cite these and do not unfold the pops and the retirement. -/

namespace Sys2Proof.Machine

theorem SMap.put_put {α : Type} (m : SMap α) (k : Nat) (v w : α) : SMap.put (SMap.put m k v) k w = SMap.put m k w := by
  induction m with
  | nil => simp [SMap.put]
  | cons c r ih =>
    simp only [SMap.put]
    split
    · simp [SMap.put]
    · split
      · simp [SMap.put, *]
      · simp [SMap.put, *]

@[simp] theorem State.setCore_setCore (s : State) (c : Nat) (k l : Core) : (s.setCore c k).setCore c l = s.setCore c l := by
  simp [State.setCore, SMap.put_put]
@[simp] theorem State.setLive_setLive (s : State) (c : Nat) (x y : Ctx) : (s.setLive c x).setLive c y = s.setLive c y := by
  simp [State.setLive]
@[simp] theorem State.setCtx_setLive (s : State) (x y : Ctx) : (s.setLive s.cur x).setCtx y = s.setLive s.cur y := by
  simp [State.setCtx]
@[simp] theorem State.ctx_setLive (s : State) (x : Ctx) : (s.setLive s.cur x).ctx = x := by
  simp [State.ctx]
theorem State.setCtx_eq (s : State) (x : Ctx) : s.setCtx x = s.setLive s.cur x := rfl
theorem State.ctx_eq (s : State) : s.ctx = s.live s.cur := rfl
@[simp] theorem State.cur_setLive (s : State) (c : Nat) (x : Ctx) : (s.setLive c x).cur = s.cur := rfl

/-- Reading a FIFO that is not among those popped. -/
theorem get_popped (l : List Nat) (t : SMap Nat) {n : Nat} (h : n ∉ l) :
    SMap.get 0 (l.foldl (fun t n => t.put n (t.get 0 n - 1)) t) n = SMap.get 0 t n := by
  induction l generalizing t with
  | nil => rfl
  | cons a r ih =>
    simp only [List.mem_cons, not_or] at h
    rw [List.foldl_cons, ih _ h.2, SMap.get_put_other _ _ _ h.1]

/-- No FIFO that the control core pushes is one that it pops (R52). -/
theorem push_notin_pop : ∀ a b : BitVec 4, ∀ n ∈ pushFifos .cc b, n ∉ popFifos .cc a := by decide +kernel

/-- What an instruction pops is among the FIFOs that its wait byte names. -/
theorem Ctx.mem_pops {x : Ctx} {m : BitVec 4} {n : Nat} (h : n ∈ x.pops m) : n ∈ popFifos .cc m := by
  unfold Ctx.pops at h
  split at h
  · exact h
  · simp at h

/-- The control core's pops leave the room of the FIFOs it pushes as it was (R42). -/
theorem Ctx.hasRoom_pop (x : Ctx) (a b : BitVec 4) :
    (x.startPops a).hasRoom (pushFifos .cc b) = x.hasRoom (pushFifos .cc b) := by
  unfold Ctx.hasRoom
  apply Bool.eq_iff_iff.mpr
  simp only [List.all_eq_true, decide_eq_true_eq]
  constructor <;> intro h n hn <;> have := h n hn <;>
    simpa [Ctx.popTokens, get_popped _ _ fun hp => push_notin_pop a b n hn (Ctx.mem_pops hp)] using this

theorem Ctx.hasRoom_congr {x y : Ctx} (h : x.tokens = y.tokens) (l : List Nat) : x.hasRoom l = y.hasRoom l := by
  simp [Ctx.hasRoom, h]

/-- What `State.goes` says, part by part. -/
theorem State.goes_iff (s : State) (c : Nat) (tk : Tok) : s.goes c tk = true ↔
    (s.live c).canPop tk.pop = true ∧ (s.live c).hasRoom (pushFifos .cc tk.push) = true ∧ ((s.live c).path = [] ∨ tk.push = 0) ∧
      (s.live c).held = none ∧ ((s.live c).wait = none ∨ (s.head (hlOf c)).waitThreshold = 0) := by
  simp [State.goes, and_assoc]

/-- A context whose wait is over. -/
def Ctx.ended (x : Ctx) : Ctx := { x with wait := none, ccPop := 0, invs := [], latch := none, waitEntry := none }

/-- The end of a wait that is not logged. -/
theorem State.endWait_quiet (s : State) (c : Nat) (h : (s.live c).wait = none ∨ (s.head (hlOf c)).waitThreshold = 0) :
    s.endWait c = s.setLive c (s.live c).ended := by
  have : s.logCC c = s := by
    rcases h with h | h
    · simp [State.logCC, h]
    · cases hw : (s.live c).wait with
      | none => simp [State.logCC, hw]
      | some w => simp [State.logCC, hw, State.logWait, h]
  simp [State.endWait, this, Ctx.ended]

/-- Retirement after a body that has left the context z in the state u (R42, R107): the wait, if any, is over, the pushes are made
and the pc goes on. -/
theorem State.retire_after (u : State) (c : Nat) (push : BitVec 4) (pc : W64)
    (hp : (u.live c).path = [] ∨ push = 0) (hw : (u.live c).wait = none ∨ (u.head (hlOf c)).waitThreshold = 0)
    (hr : (u.live c).hasRoom (pushFifos .cc push) = true) :
    (u.endWait c).retireRel c push pc =
      u.setLive c { (u.live c).ended.pushTokens (pushFifos .cc push) with pc := pc, held := none } := by
  have hl : ∀ t : State, t.live c = (u.live c).ended → (push = 0 ∨ t.drain c = t) ∧ (push = 0 ∨ t.pathBlocked c = false) := by
    intro t ht
    rcases hp with hp | hp
    · exact ⟨.inr (by simp [State.drain, ht, Ctx.ended, hp]), .inr (by simp [State.pathBlocked, ht, Ctx.ended, hp])⟩
    · exact ⟨.inl hp, .inl hp⟩
  obtain ⟨hd, hb⟩ := hl (u.setLive c (u.live c).ended) (by simp)
  have hr' : (u.live c).ended.hasRoom (pushFifos .cc push) = true := (Ctx.hasRoom_congr (by simp [Ctx.ended]) _).trans hr
  rw [State.endWait_quiet u c hw, State.retireRel]
  have h1 : (push != 0 && (u.setLive c (u.live c).ended).pathBlocked c) = false := by
    rcases hb with hb | hb <;> simp [hb]
  have h2 : (if push != 0 then (u.setLive c (u.live c).ended).drain c else u.setLive c (u.live c).ended) = u.setLive c (u.live c).ended := by
    rcases hd with hd | hd
    · simp [hd]
    · rw [hd, ite_self]
  rw [h1, h2]
  simp [State.retireCC, hr']

/-- An instruction word that completes: what its body makes of the state with the pops made, its pushes, and the pc (R42,
R107). -/
theorem State.runCC_done (s : State) (c : Nat) (tk : Tok) (body : State → Act) (h : s.goes c tk = true) (u : State) (pc : W64)
    (hb : body (s.setLive c ((s.live c).startPops tk.pop)) = .done u pc)
    (hp : (u.live c).path = [] ∨ tk.push = 0) (hw : (u.live c).wait = (s.live c).wait)
    (ht : (u.live c).tokens = ((s.live c).startPops tk.pop).tokens)
    (hh : (u.head (hlOf c)).waitThreshold = (s.head (hlOf c)).waitThreshold) :
    s.runCC c tk body =
      u.setLive c { (u.live c).ended.pushTokens (pushFifos .cc tk.push) with pc := pc, held := none } := by
  obtain ⟨h1, h2, h3, h4, h5⟩ := (State.goes_iff s c tk).mp h
  have hpb : (tk.push != 0 && s.pathBlocked c) = false := by
    rcases h3 with h3 | h3 <;> simp [State.pathBlocked, h3]
  unfold State.runCC
  simp only [h1, hpb, hb, Bool.not_true]
  simp only [Bool.false_eq_true, if_false]
  apply State.retire_after u c tk.push pc hp
  · rw [hw, hh]; exact h5
  · rw [Ctx.hasRoom_congr ht, Ctx.hasRoom_pop]; exact h2

/-- An instruction word whose body only rewrites the context. -/
theorem State.runCC_ctx (s : State) (c : Nat) (tk : Tok) (body : State → Act) (h : s.goes c tk = true) (z : Ctx) (pc : W64)
    (hb : body (s.setLive c ((s.live c).startPops tk.pop)) = .done (s.setLive c z) pc)
    (hp : z.path = (s.live c).path) (hw : z.wait = (s.live c).wait)
    (ht : z.tokens = ((s.live c).startPops tk.pop).tokens) :
    s.runCC c tk body =
      s.setLive c { z.ended.pushTokens (pushFifos .cc tk.push) with pc := pc, held := none } := by
  obtain ⟨-, -, h3, -, -⟩ := (State.goes_iff s c tk).mp h
  rw [State.runCC_done s c tk body h _ pc hb] <;> simp [*]
  simpa using h3

/-- An instruction word that traps: nothing of it stays, its pops included, and its wait, if it had one, is over (R108, R137). -/
theorem State.runCC_trap (s : State) (c : Nat) (tk : Tok) (body : State → Act) (p : Pend)
    (h1 : (s.live c).canPop tk.pop = true) (h2 : (s.live c).path = [] ∨ tk.push = 0)
    (hb : body (s.setLive c ((s.live c).startPops tk.pop)) = .trap p) :
    s.runCC c tk body = (s.logCC c).trap c { p with opc := s.opcAt c, clk := s.cycle } (s.live c).pc := by
  have hpb : (tk.push != 0 && s.pathBlocked c) = false := by
    rcases h2 with h2 | h2 <;> simp [State.pathBlocked, h2]
  unfold State.runCC
  simp only [h1, hpb, hb, Bool.not_true, Bool.false_eq_true, if_false]

/-- A trap of an instruction that has not waited. -/
theorem State.runCC_trapNow (s : State) (c : Nat) (tk : Tok) (body : State → Act) (p : Pend)
    (h1 : (s.live c).canPop tk.pop = true) (h2 : (s.live c).path = [] ∨ tk.push = 0) (hw : (s.live c).wait = none)
    (hb : body (s.setLive c ((s.live c).startPops tk.pop)) = .trap p) :
    s.runCC c tk body = s.trap c { p with opc := s.opcAt c, clk := s.cycle } (s.live c).pc := by
  rw [State.runCC_trap s c tk body p h1 h2 hb]
  simp [State.logCC, hw]

/-- An instruction word that waits for what is no gate: its pops are made and kept (R42, R108). -/
theorem State.runCC_wait (s : State) (c : Nat) (tk : Tok) (body : State → Act) (k : WaitKind) (obj : Nat) (hk : k ≠ .gate)
    (h1 : (s.live c).canPop tk.pop = true) (h2 : (s.live c).path = [] ∨ tk.push = 0)
    (hb : body (s.setLive c ((s.live c).startPops tk.pop)) = .wait k obj) :
    s.runCC c tk body = (s.setLive c ((s.live c).begunAt tk.pop k)).waitOn c k obj := by
  have hpb : (tk.push != 0 && s.pathBlocked c) = false := by
    rcases h2 with h2 | h2 <;> simp [State.pathBlocked, h2]
  unfold State.runCC
  simp only [h1, hpb, hb, hk, Bool.not_true, Bool.false_eq_true, if_false]

/-- A word that lacks a token waits for the first FIFO that has none (R42). -/
theorem State.runCC_noToken (s : State) (c : Nat) (tk : Tok) (body : State → Act)
    (h : (s.live c).canPop tk.pop = false) :
    s.runCC c tk body = s.waitOn c .token ((s.live c).missing (popFifos .cc tk.pop)) := by
  simp [State.runCC, h]

@[simp] theorem Ctx.popTokens_setG (x : Ctx) (l : List Nat) (d : BitVec 5) (v : W64) :
    (x.popTokens l).setG d v = (x.setG d v).popTokens l := by
  simp only [Ctx.setG]
  split <;> rfl
@[simp] theorem Ctx.popTokens_setSr (x : Ctx) (l : List Nat) (n : Nat) (v : W64) :
    (x.popTokens l).setSr n v = (x.setSr n v).popTokens l := rfl

/-- A word that only writes the context: the next state in one record. -/
theorem ccInstr_ctx (s : State) (tk : Tok) (body : State → Act) (h : s.goes s.cur tk = true) (z : Ctx) (pc : W64)
    (hb : body (s.setLive s.cur (s.ctx.startPops tk.pop)) = .done (s.setLive s.cur (z.startPops tk.pop)) pc)
    (hp : z.path = s.ctx.path) (hw : z.wait = s.ctx.wait) (ht : z.tokens = s.ctx.tokens) (hc : z.ccPop = s.ctx.ccPop) :
    ccInstr tk body s = .next (s.setCtx (z.retired tk pc)) := by
  unfold ccInstr
  rw [State.runCC_ctx s s.cur tk body h (z.startPops tk.pop) pc hb]
  · rfl
  · simpa [State.ctx] using hp
  · simpa [State.ctx] using hw
  · simp [Ctx.popTokens, Ctx.pops, ht, hc, State.ctx]

/-- A word of the ALU: the next state in one record (R107, R112). -/
theorem aluOp_goes (s : State) (tk : Tok) (d : BitVec 5) (f : Ctx → W64) (h : s.goes s.cur tk = true)
    (hf : f (s.ctx.startPops tk.pop) = f s.ctx) :
    aluOp tk d f s = .next (s.setCtx ((s.ctx.setG d (f s.ctx)).retired tk (s.ctx.pc + 1))) := by
  apply ccInstr_ctx s tk _ h
  · have e : ((s.ctx.setG d (f s.ctx)).startPops tk.pop) = (s.ctx.startPops tk.pop).setG d (f s.ctx) := by
      rw [Ctx.startPops, Ctx.startPops, Ctx.popTokens_setG]; simp [Ctx.pops]
    rw [e]
    simp only [ctxNext, State.ctx_setLive, hf, State.setCtx_setLive]
    simp
  all_goals first | rfl | (simp only [Ctx.setG]; split <;> rfl)

/-- Where every outstanding record is a COLL, what a step leaves stands as it is (R288). -/
theorem State.veil_coll (s : State) (h : ∀ r ∈ s.recs, r.isRepart = false) : s.veil = s := by
  have key : ∀ l : List Rec, (∀ r ∈ l, r.isRepart = false) → l.foldl (fun s r => if s.trespassed r then s.reveil r else s) s = s := by
    intro l
    induction l with
    | nil => intro _; rfl
    | cons r l ih =>
      intro h
      have h0 : s.trespassed r = false := by simp [State.trespassed, h r (by simp)]
      rw [List.foldl_cons, if_neg (by simp [h0])]
      exact ih fun q hq => h q (by simp [hq])
  exact key _ h

/-- A step is a move, where no REPART is outstanding after it. -/
theorem State.cycleStep_next {s t : State} (h : s.cycleMove = .next t) (hr : ∀ r ∈ t.recs, r.isRepart = false) :
    s.cycleStep = .next t := by
  simp only [State.cycleStep, h, State.veil_coll t hr]

end Sys2Proof.Machine
end

