-- ==== Sys2Proof/Laws/Access.lean ====
section
/-! SUPPORT. What the checks of a scalar access answer in the two plain cases, the own scratchpad and a page that the TLB holds
(R117): the statements about loads, stores, tickets and atomics cite these. -/

namespace Sys2Proof.Machine

/-- The own-window form of an address names the executing core (R51). -/
theorem onChip_own (c o : Nat) (h : o < 0x800000) : onChip c (2 ^ 63 + o) = some (c, o) := by
  have h2 : 2 ^ 63 + o - 2 ^ 63 = o := Nat.add_sub_cancel_left _ _
  rw [onChip, if_neg (by omega), h2, if_pos h]

theorem regionOf_scratch (o : Nat) (h : o < 0x200000) : regionOf o = some .scratch := by simp [regionOf, h]

/-- A read that meets no correctable error changes nothing (R64). -/
theorem State.meet_none (s : State) (l : List Place) (h : ∀ p ∈ l, s.softUnit p = false) : s.meet l = s := by
  have : l.filter s.softUnit = [] := by simpa [List.filter_eq_nil_iff] using h
  simp [State.meet, this]

/-- A place that no uncorrectable unit meets passes the last check of R117. -/
theorem State.access_of_reach {s s' : State} {c a n : Nat} {write sp : Bool} {align : Nat} {p : Place} {own wr : Bool}
    (hr : s.reach c a n write sp align = .place s' p own wr) (hp : (s.live c).path = []) (he : s.eccMet p n write = false)
    (hs : write = false → ∀ i < n, s'.softUnit (p.add i) = false) :
    s.access c a n write sp align = .place s' p own wr := by
  have hd : s.drain c = s := by simp [State.drain, hp]
  have hm : write = false → s'.meet ((List.range n).map p.add) = s' := fun hw =>
    s'.meet_none _ (by simpa using hs hw)
  cases write <;> simp_all [State.access]

/-- The checks of R117 but for the last on an access to the own scratchpad that passes them. -/
theorem State.reach_pad (s : State) (c o n : Nat) (write sp : Bool) (align : Nat) (ho : o < 0x200000)
    (hl : ((s.live c).sup || s.leased (s.live c).id c o) = true) (ha : (2 ^ 63 + o) % align = 0)
    (hn : [1, 2, 4, 8].contains (if sp then 8 else n) = true) (hh : s.heldOff c o = false) (hg : s.gated c (bankOf o) = false) :
    s.reach c (2 ^ 63 + o) n write sp align = .place s (.win c (s.live c).id o) true true := by
  have h1 : ¬ (2 ^ 63 + o < 2 ^ 63) := by omega
  have hu : unitOf o = bankOf o := by simp [unitOf, ho]
  unfold State.reach
  rw [if_neg h1, onChip_own c o (by omega)]
  simp only [regionOf_scratch o ho, State.mayUse, State.mayUseEcc, decide_true, Bool.true_or,
    bne_self_eq_false, Bool.false_and, Bool.and_false, Bool.or_false, ha, regionSizes, hn, not_true, ne_eq, or_self, if_false, hh,
    State.blocked, hu, hg, Bool.false_eq_true, false_and, reduceCtorEq, true_or, if_true, ite_self]
  have : (!(s.live c).sup && !s.leased (s.live c).id c o) = false := by
    rw [← Bool.not_or, hl]; rfl
  simp [this, regionWritable]

/-- An access to the own scratchpad that passes every check of R117 answers its place. -/
theorem State.access_pad (s : State) (c o n : Nat) (write sp : Bool) (align : Nat) (ho : o < 0x200000)
    (hl : ((s.live c).sup || s.leased (s.live c).id c o) = true) (ha : (2 ^ 63 + o) % align = 0)
    (hn : [1, 2, 4, 8].contains (if sp then 8 else n) = true) (hh : s.heldOff c o = false) (hg : s.gated c (bankOf o) = false)
    (hp : (s.live c).path = []) (hb : s.eccMet (.win c (s.live c).id o) n write = false)
    (hs : write = false → ∀ i < n, s.softUnit (.win c (s.live c).id (o + i)) = false) :
    s.access c (2 ^ 63 + o) n write sp align = .place s (.win c (s.live c).id o) true true :=
  State.access_of_reach (s.reach_pad c o n write sp align ho hl ha hn hh hg) hp hb hs

/-- The checks of R117 but for the last on an access to tier-2 through a page that the TLB holds. -/
theorem State.reach_page (s : State) (c a n : Nat) (write sp : Bool) (align : Nat) (e : TlbEntry) (ha : a < 2 ^ 48)
    (hal : a % align = 0) (ht : (s.live c).tlbFind (s.live c).id a = some e) (htg : e.tgt = 0) (hr : (if write then e.w else e.r) = true)
    (hu : ((s.live c).sup || e.usr) = true) (hm : s.pageMissing 0 (e.pa + (a - e.va)) = false) :
    s.reach c a n write sp align = .place (s.setLive c (s.live c)) (.tier2 (e.pa + (a - e.va))) false true := by
  have h1 : a < 2 ^ 63 := by omega
  have h2 : bits a 62 48 = 0 := by rw [bits, Nat.div_eq_of_lt ha, Nat.zero_mod]
  have h3 : s.targetOf (s.live c) a = some 0 := by simp [State.targetOf, ht, htg]
  have htr : s.translate (s.live c) a write (!(s.live c).sup) = .ok (s.live c) e := by
    have hc : ((write && !e.w) || (!write && !e.r) || (!(s.live c).sup && !e.usr)) = false := by
      revert hr hu; cases write <;> cases e.w <;> cases e.r <;> cases e.usr <;> cases (s.live c).sup <;> simp
    simp [State.translate, State.lookup, ht, htg, hm, hc]
  have hpp : ∀ pa, physPlace 0 pa = .tier2 pa := fun _ => if_pos rfl
  unfold State.reach
  rw [if_pos h1, if_neg (by simp [h2, h3]), if_neg (by simp [hal]), htr]
  simp only [htg, hpp]

/-- An access to tier-2 through a page that the TLB holds, which passes every check of R117, answers its place. -/
theorem State.access_page (s : State) (c a n : Nat) (write sp : Bool) (align : Nat) (e : TlbEntry) (ha : a < 2 ^ 48)
    (hal : a % align = 0) (ht : (s.live c).tlbFind (s.live c).id a = some e) (htg : e.tgt = 0) (hr : (if write then e.w else e.r) = true)
    (hu : ((s.live c).sup || e.usr) = true) (hm : s.pageMissing 0 (e.pa + (a - e.va)) = false) (hp : (s.live c).path = [])
    (hb : s.eccMet (.tier2 (e.pa + (a - e.va))) n write = false) :
    s.access c a n write sp align = .place (s.setLive c (s.live c)) (.tier2 (e.pa + (a - e.va))) false true :=
  State.access_of_reach (s.reach_page c a n write sp align e ha hal ht htg hr hu hm) hp hb fun _ _ _ => rfl

end Sys2Proof.Machine
end

