-- ==== Sys2Proof/Laws/Memory.lean ====
section
/-! SUPPORT. The canonical form of the memories: every operation that writes one keeps it, and the state after reset has it. -/

namespace Sys2Proof.Machine

/-- Writing a run of bytes keeps the canonical form. -/
theorem Mem.wf_write (bs : List Byte) : ∀ (m : Mem) (a : Nat), Memory.wf m = true → Memory.wf (Mem.write m a bs) = true := by
  induction bs with
  | nil => intro m a h; exact h
  | cons b r ih => intro m a h; exact ih _ _ (SMap.wf_set 0 m a b h)

/-- What stands in a map after a put, for a property of what stands there. -/
theorem SMap.all_put {α : Type} {P : α → Prop} {d : α} {m : SMap α} (h : ∀ k, P (SMap.get d m k)) (k : Nat) {v : α} (hv : P v) :
    ∀ j, P (SMap.get d (SMap.put m k v) j) := by
  intro j
  rw [SMap.get_put]
  split
  · exact hv
  · exact h j

/-- What stands in a map after an erasure, for a property that the default has. -/
theorem SMap.all_erase {α : Type} {P : α → Prop} {d : α} {m : SMap α} (h : ∀ k, P (SMap.get d m k)) (hd : P d) (k : Nat) :
    ∀ j, P (SMap.get d (SMap.erase m k) j) := by
  intro j
  rw [SMap.get_erase]
  split
  · exact hd
  · exact h j

/-- Keys moved by a constant keep their order. -/
theorem SMap.rising_shift {α : Type} (f : Nat → Nat) (m : SMap α) : ∀ lo : Option Nat, (∀ x y, x < y → (x ∈ lo ∨ x ∈ m.map (·.1)) → f x < f y) →
    SMap.risingFrom lo m = true → SMap.risingFrom (lo.map f) (m.map fun c => (f c.1, c.2)) = true := by
  induction m with
  | nil => intro lo _ _; cases lo <;> rfl
  | cons c r ih =>
    intro lo hf h
    simp only [SMap.risingFrom, Bool.and_eq_true, List.map_cons] at h ⊢
    refine ⟨?_, ih (some c.1) (fun x y hxy hx => hf x y hxy ?_) h.2⟩
    · cases lo with
      | none => rfl
      | some l => simpa using hf l c.1 (by simpa using h.1) (.inl rfl)
    · rcases hx with hx | hx
      · right; simp only [Option.mem_some_iff] at hx; subst hx; simp
      · right; simp only [List.map_cons, List.mem_cons]; exact .inr hx

/-- The memory kept of a bank group, as offsets within it, is canonical. -/
theorem Mem.wf_shift (m : Mem) (f : Nat → Nat) (hf : ∀ x y, x < y → (∃ v, (x, v) ∈ m) → f x < f y) (h : Memory.wf m = true) :
    Memory.wf (m.map fun c => (f c.1, c.2)) = true := by
  unfold Memory.wf at h ⊢
  rw [SMap.wf_iff] at h ⊢
  refine ⟨SMap.rising_shift f m none (fun x y hxy hx => hf x y hxy ?_) h.1, ?_⟩
  · rcases hx with hx | hx
    · simp at hx
    · obtain ⟨c, hc, rfl⟩ := List.mem_map.mp hx
      exact ⟨c.2, hc⟩
  · intro c hc
    obtain ⟨e, he, rfl⟩ := List.mem_map.mp hc
    exact h.2 e he

/-- Every memory of a state is canonical. -/
structure State.MemWf (s : State) : Prop where
  tier2 : Memory.wf s.tier2 = true
  host : Memory.wf s.host = true
  tier1 : ∀ k, Memory.wf (s.tier1.get [] k) = true
  scratch : ∀ c, Memory.wf (s.core c).scratch = true
  bankSaves : ∀ k, Memory.wf (s.bankSaves.get [] k) = true

/-- The state after reset has every memory in canonical form. -/
theorem State.memWf_reset : State.reset.MemWf := ⟨rfl, rfl, fun _ => rfl, fun _ => rfl, fun _ => rfl⟩

/-- A core replaced by one with a canonical scratchpad. -/
theorem State.MemWf.setCore {s : State} (h : s.MemWf) (c : Nat) {k : Core} (hk : Memory.wf k.scratch = true) : (s.setCore c k).MemWf :=
  ⟨h.tier2, h.host, h.tier1, SMap.all_put (P := fun k : Core => Memory.wf k.scratch = true) h.scratch c hk, h.bankSaves⟩

theorem Core.scratch_setCtxAt (k : Core) (w : Nat) (x : Ctx) : (k.setCtxAt w x).scratch = k.scratch := by
  unfold Core.setCtxAt
  split <;> rfl

/-- A byte written anywhere. -/
theorem State.MemWf.setByteAt {s : State} (h : s.MemWf) (p : Place) (b : Byte) : (s.setByteAt p b).MemWf := by
  cases p with
  | win c x off =>
    simp only [State.setByteAt]
    split
    · exact h.setCore c (SMap.wf_set 0 _ _ _ (h.scratch c))
    · split
      · exact h.setCore c (by rw [Core.scratch_setCtxAt]; exact h.scratch c)
      · exact h
  | tier2 a => exact ⟨SMap.wf_set 0 _ _ _ h.tier2, h.host, h.tier1, h.scratch, h.bankSaves⟩
  | host a => exact ⟨h.tier2, SMap.wf_set 0 _ _ _ h.host, h.tier1, h.scratch, h.bankSaves⟩
  | tier1 st hd o =>
    exact ⟨h.tier2, h.host, SMap.all_put (P := fun m : Mem => Memory.wf m = true) h.tier1 _ (SMap.wf_set 0 _ _ _ (h.tier1 _)), h.scratch, h.bankSaves⟩

/-- A unit made good again. -/
theorem State.MemWf.heal {s : State} (h : s.MemWf) (p : Place) : (s.heal p).MemWf := by
  cases p with
  | win c x off =>
    simp only [State.heal]
    split
    · exact h.setCore c (h.scratch c)
    · split
      · exact h
      · exact h.setCore c (by rw [Core.scratch_setCtxAt]; exact h.scratch c)
  | tier2 a => exact ⟨h.tier2, h.host, h.tier1, h.scratch, h.bankSaves⟩
  | host a => exact ⟨h.tier2, h.host, h.tier1, h.scratch, h.bankSaves⟩
  | tier1 st hd o => exact ⟨h.tier2, h.host, h.tier1, h.scratch, h.bankSaves⟩

/-- A fold of steps that each keep the memories canonical. -/
theorem State.MemWf.foldl {α : Type} {f : State → α → State} (hf : ∀ s a, s.MemWf → (f s a).MemWf) (l : List α) :
    ∀ s : State, s.MemWf → (l.foldl f s).MemWf := by
  induction l with
  | nil => intro s h; exact h
  | cons a r ih => intro s h; exact ih _ (hf s a h)

/-- A headland replaced. -/
theorem State.MemWf.setHead {s : State} (h : s.MemWf) (hl : Nat) (x : Headland) : (s.setHead hl x).MemWf :=
  ⟨h.tier2, h.host, h.tier1, h.scratch, h.bankSaves⟩

/-- A black-box record written, which may freeze the package. -/
theorem State.MemWf.blackBox {s : State} (h : s.MemWf) (hl : Nat) (r : TraceRec) : (s.blackBox hl r).MemWf := by
  unfold State.blackBox
  dsimp only
  split <;> exact ⟨h.tier2, h.host, h.tier1, h.scratch, h.bankSaves⟩

/-- A corrected error counted. -/
theorem State.MemWf.corrected {s : State} (h : s.MemWf) (hl unit core addr : Nat) : (s.corrected hl unit core addr).MemWf := by
  unfold State.corrected
  dsimp only
  split
  · exact (h.setHead _ _).blackBox _ _
  · exact h.setHead _ _

/-- Correctable errors of scratchpad words met. -/
theorem State.MemWf.correctPad {s : State} (h : s.MemWf) (core : Nat) (l : List Nat) : (s.correctPad core l).MemWf :=
  State.MemWf.foldl (fun s w h => (h.setCore core (k := { s.core core with softWords := (s.core core).softWords.filter (· != w) })
    (h.scratch core)).corrected _ _ _ _) _ _ h

/-- Correctable errors of what a read touches met. -/
theorem State.MemWf.meet {s : State} (h : s.MemWf) (l : List Place) : (s.meet l).MemWf := by
  refine State.MemWf.foldl (fun s p h => ?_) _ _ h
  cases p <;> first | exact h.correctPad _ _ | exact h

/-- A set of writes. -/
theorem State.MemWf.writeSet {s : State} (h : s.MemWf) (l : List (Place × Byte)) : (s.writeSet l).MemWf := by
  refine State.MemWf.foldl (fun s w h => ?_) _ _
    (State.MemWf.foldl (fun _ _ h => h.heal _) _ _ (State.MemWf.foldl (fun _ _ h => h.setByteAt _ _) _ _ h))
  split
  · exact h.heal _
  · exact h.meet _

/-- A run of bytes. -/
theorem State.MemWf.store {s : State} (h : s.MemWf) (p : Place) (bs : List Byte) : (s.store p bs).MemWf := h.writeSet _

/-- Bytes of a scratchpad replaced at once. -/
theorem State.MemWf.padWrite {s : State} (h : s.MemWf) (c off : Nat) (bs : List Byte) : (s.padWrite c off bs).MemWf :=
  h.setCore c (SMap.wf_fill 0 _ _ _ _ (h.scratch c))

/-- A memory canonical after a fold of fills. -/
theorem Mem.wf_fills {α : Type} (lo n : α → Nat) (f : α → Nat → Byte) (l : List α) : ∀ m : Mem, Memory.wf m = true →
    Memory.wf (l.foldl (fun m w => SMap.fill 0 m (lo w) (n w) (f w)) m) = true := by
  induction l with
  | nil => intro m h; exact h
  | cons a r ih => intro m h; exact ih _ (SMap.wf_fill 0 _ _ _ _ h)

/-- A bank group kept in a save area. -/
theorem State.MemWf.bankOut {s : State} (h : s.MemWf) (core : Nat) (x : Ctx) (g : Nat) : (s.bankOut core x g).MemWf := by
  unfold State.bankOut
  dsimp only
  replace h := h.correctPad core ((s.core core).softWords.filter fun w => 8 * w / 0x80000 == g)
  generalize s.correctPad core _ = s at h ⊢
  refine ⟨h.tier2, h.host, h.tier1, h.scratch, SMap.all_put (P := fun m : Mem => Memory.wf m = true) h.bankSaves _ ?_⟩
  refine Mem.wf_fills _ _ _ _ _ (Mem.wf_shift _ (· - g * 0x80000) ?_ (SMap.wf_filter 0 _ _ (h.scratch core)))
  rintro x y hxy ⟨v, hv⟩
  have := (List.mem_filter.mp hv).2
  simp only [decide_eq_true_eq] at this
  show x - g * 0x80000 < y - g * 0x80000
  omega

/-- Free values put anew into the areas of a REPART. -/
theorem State.MemWf.reveil {s : State} (h : s.MemWf) (r : Rec) : (s.reveil r).MemWf := by
  have h2 := State.MemWf.foldl (f := fun (s : State) (w : Place × Byte) => s.setByteAt w.1 w.2) (fun _ _ h => h.setByteAt _ _)
  exact ⟨(h2 _ _ h).tier2, (h2 _ _ h).host, (h2 _ _ h).tier1, (h2 _ _ h).scratch, (h2 _ _ h).bankSaves⟩

/-- What a step leaves in the areas of REPARTs. -/
theorem State.MemWf.veil {s : State} (h : s.MemWf) : s.veil.MemWf :=
  State.MemWf.foldl (fun s r h => by split; exacts [h.reveil r, h]) _ s h

/-- A scratchpad replaced and a bank group of a save area dropped. -/
theorem State.MemWf.padIn {s : State} (h : s.MemWf) (core : Nat) {k : Core} (hp : Memory.wf k.scratch = true) (key : Nat) :
    ({ s.setCore core k with bankSaves := s.bankSaves.erase key } : State).MemWf :=
  have h2 := h.setCore core hp
  ⟨h2.tier2, h2.host, h2.tier1, h2.scratch, SMap.all_erase (P := fun m : Mem => Memory.wf m = true) h.bankSaves rfl key⟩

/-- The groups of a save area back in the scratchpad. -/
theorem State.MemWf.bankIn {s : State} (h : s.MemWf) (core : Nat) (x : Ctx) : (s.bankIn core x).MemWf := by
  unfold State.bankIn
  generalize (0x80000 : Nat) = B
  refine State.MemWf.foldl (fun s g h => ?_) _ s h
  dsimp only
  split
  · exact h
  · next e he =>
    have hm : Memory.wf e.2 = true := by
      have := h.bankSaves e.1
      have hg : SMap.get [] s.bankSaves e.1 = e.2 := by
        have hk : e.1 = saveKey core x.id x.lesson * 4 + g := by simpa using List.find?_some he
        rw [← hk] at he
        clear this hk h
        revert he
        generalize s.bankSaves = l
        induction l with
        | nil => intro he; simp at he
        | cons c r ih =>
          intro he
          simp only [List.find?_cons] at he
          simp only [SMap.get]
          by_cases hc : c.1 = e.1
          · simp [hc] at he; subst he; simp
          · rw [if_neg (Ne.symm hc)]
            exact ih (by simpa [hc] using he)
      rwa [hg] at this
    have hp : Memory.wf ((((s.core core).scratch.filter fun c => decide (c.1 < g * B)) ++
        ((SMap.between e.2 0 B).map fun c => (c.1 + g * B, c.2))) ++
        ((s.core core).scratch.filter fun c => decide (g * B + B ≤ c.1))) = true := by
      have hs : Memory.wf ((SMap.between e.2 0 B).map fun c => (c.1 + g * B, c.2)) = true :=
        Mem.wf_shift _ (· + g * B) (by intro x y hxy _; show x + g * B < y + g * B; omega) (SMap.wf_filter 0 _ _ hm)
      have hk : ∀ c ∈ (SMap.between e.2 0 B).map fun c : Nat × Byte => (c.1 + g * B, c.2),
          g * B ≤ c.1 ∧ c.1 < g * B + B := by
        intro c hc
        obtain ⟨b, hb, rfl⟩ := List.mem_map.mp hc
        have := (List.mem_filter.mp hb).2
        simp only [decide_eq_true_eq] at this
        constructor <;> simp only <;> omega
      refine SMap.wf_append 0 _ _ (g * B + B) (SMap.wf_append 0 _ _ (g * B) (SMap.wf_filter 0 _ _ (h.scratch core)) hs ?_
        fun c hc => (hk c hc).1) (SMap.wf_filter 0 _ _ (h.scratch core)) ?_ ?_
      · intro c hc; simpa using (List.mem_filter.mp hc).2
      · intro c hc
        rcases List.mem_append.mp hc with h1 | h1
        · have : c.1 < g * B := by simpa using (List.mem_filter.mp h1).2
          omega
        · exact (hk c h1).2
      · intro c hc; simpa using (List.mem_filter.mp hc).2
    exact h.padIn core (k := { s.core core with
      scratch := _
      badWords := (s.core core).badWords.filter _
      softWords := (s.core core).softWords.filter _ }) hp _

/-- The groups streamed when a context becomes active. -/
theorem State.MemWf.swapBanks {s : State} (h : s.MemWf) (core : Nat) (x : Ctx) : (s.swapBanks core x).MemWf := by
  refine State.MemWf.bankIn (State.MemWf.foldl (fun s g h => ?_) _ s h) core x
  exact State.MemWf.foldl (fun s y h => h.bankOut core y g) _ s h

end Sys2Proof.Machine
end

