-- ==== Sys2Proof/Laws/Num.lean ====
section
/-! SUPPORT. Laws of the exact arithmetic: what the integer root is. -/

namespace Sys2Proof.Machine

/-- The root found so far, exact below the place of weight 2^k, becomes the integer root. -/
theorem rootFrom_spec (n : Nat) : ∀ k r, r * r ≤ n → n < (r + 2 ^ k) * (r + 2 ^ k) →
    rootFrom n k r * rootFrom n k r ≤ n ∧ n < (rootFrom n k r + 1) * (rootFrom n k r + 1)
  | 0, r, h, g => ⟨h, by simpa only [pow_zero, rootFrom] using g⟩
  | k + 1, r, h, g => by
    simp only [rootFrom]
    split
    · next c => exact rootFrom_spec n k _ c (by rw [pow_succ, Nat.mul_two, ← Nat.add_assoc] at g; exact g)
    · next c => exact rootFrom_spec n k r h (Nat.lt_of_not_le c)

/-- The integer root of n: the greatest integer whose square is no more than n. -/
theorem intRoot_spec (n : Nat) : intRoot n * intRoot n ≤ n ∧ n < (intRoot n + 1) * (intRoot n + 1) := by
  apply rootFrom_spec n _ 0 (Nat.zero_le n)
  have h : n < 2 ^ (Nat.log2 n + 1) := Nat.lt_log2_self
  have e : 2 ^ (Nat.log2 n + 1) ≤ 2 ^ (2 * (Nat.log2 n / 2 + 1)) := Nat.pow_le_pow_right (by decide) (by omega)
  rw [Nat.zero_add, ← pow_add, ← Nat.two_mul]
  exact Nat.lt_of_lt_of_le h e

end Sys2Proof.Machine
end

