-- ==== Sys2Proof/Laws/PerInstr.lean ====
section
/-! SUPPORT. Statements for all instructions, with one lemma per constructor. Encoding: the fields of an instruction's word are
the instruction's operands, each at every value the encoding admits. -/

namespace Sys2Proof.Laws

/-- Fields placed below a bound stay below it. -/
theorem place_lt (hi : Nat) {lo v k : Nat} {r : List (Nat × Nat)} (hv : v < 2 ^ k) (hr : place r < 2 ^ lo) (h : (lo + k).ble hi = true) :
    place ((lo, v) :: r) < 2 ^ hi := by
  have h1 : v * 2 ^ lo + place r < 2 ^ k * 2 ^ lo := by
    have := Nat.mul_le_mul_right (2 ^ lo) hv
    rw [Nat.succ_mul] at this; omega
  rw [← Nat.pow_add, Nat.add_comm k] at h1
  exact Nat.lt_of_lt_of_le h1 (Nat.pow_le_pow_right (by decide) (Nat.le_of_ble_eq_true h))

/-- A field below another does not see it. -/
theorem peel (lo' v : Nat) {lo k x : Nat} {r : List (Nat × Nat)} (h : (lo + k).ble lo' = true) (hx : place r / 2 ^ lo % 2 ^ k = x) :
    place ((lo', v) :: r) / 2 ^ lo % 2 ^ k = x := by
  obtain ⟨c, rfl⟩ := Nat.exists_eq_add_of_le (Nat.le_of_ble_eq_true h)
  have e : place ((lo + k + c, v) :: r) = 2 ^ lo * (v * 2 ^ c * 2 ^ k) + place r := by
    simp only [place, Nat.pow_add]; ring
  rw [e, Nat.mul_add_div (Nat.two_pow_pos lo), Nat.add_comm, Nat.add_mul_mod_self_right, hx]

/-- A field stands at its place. -/
theorem place_hit {lo v k : Nat} {r : List (Nat × Nat)} (hv : v < 2 ^ k) (hr : place r < 2 ^ lo) :
    place ((lo, v) :: r) / 2 ^ lo % 2 ^ k = v := by
  have e : place ((lo, v) :: r) = 2 ^ lo * v + place r := by simp only [place]; ring
  rw [e, Nat.mul_add_div (Nat.two_pow_pos lo), Nat.div_eq_of_lt hr, Nat.add_zero, Nat.mod_eq_of_lt hv]

/-- Above every field all bits are zero. -/
theorem place_zero {lo k : Nat} {r : List (Nat × Nat)} (hr : place r < 2 ^ lo) : place r / 2 ^ lo % 2 ^ k = 0 := by
  rw [Nat.div_eq_of_lt hr, Nat.zero_mod]

/-- A part of a field, c bits up. -/
theorem place_part (lo v c : Nat) {k at' x : Nat} {r : List (Nat × Nat)} (hr : place r < 2 ^ lo) (ha : at' = lo + c)
    (hx : v / 2 ^ c % 2 ^ k = x) : place ((lo, v) :: r) / 2 ^ at' % 2 ^ k = x := by
  have e : place ((lo, v) :: r) = 2 ^ lo * v + place r := by simp only [place]; ring
  rw [ha, Nat.pow_add, ← Nat.div_div_eq_div_mul, e, Nat.mul_add_div (Nat.two_pow_pos lo), Nat.div_eq_of_lt hr, Nat.add_zero, hx]

/-- A word as the list of all its fields. -/
theorem pack_place (tk : Tok) (op : Nat) (l : List (Nat × Nat)) :
    pack tk op l = place ((60, tk.pop.toNat) :: (52, tk.push.toNat) :: (40, op) :: l) := by
  simp only [pack, place]; omega

/-- A field of a word from its value. -/
theorem field_eq {w lo k : Nat} {v : BitVec k} (h : w / 2 ^ lo % 2 ^ k = v.toNat) : field w lo k = v := by
  apply BitVec.eq_of_toNat_eq; simpa [field, BitVec.toNat_ofNat] using h

/-- The word of an instruction fits in 64 bits, and its fields, taken out before any check, give the instruction back. -/
def Encoding.Statement (i : Instr) : Prop := ∀ w, encodeNat i = some w → w < 2 ^ 64 ∧ rawDecode w = some i

theorem Encoding.add (tk : Tok) (d a b : BitVec 5) : Encoding.Statement (.add tk d a b) := by
  intro wd h
  have h0 : pack _ _ _ = wd := Option.some.inj h
  rw [pack_place] at h0; subst h0
  have l6 : place [] < 2 ^ 25 := Nat.two_pow_pos _
  have l5 := place_lt 30 b.isLt l6 rfl
  have l4 := place_lt 35 a.isLt l5 rfl
  have l3 := place_lt 40 d.isLt l4 rfl
  have l2 := place_lt 52 (show 0 < 2 ^ 8 by decide) l3 rfl
  have l1 := place_lt 60 tk.push.isLt l2 rfl
  have l0 := place_lt 64 tk.pop.isLt l1 rfl
  have key : ∀ wd, nfield wd 45 3 = 0 → nfield wd 40 5 = 0 → field wd 60 4 = tk.pop → field wd 52 4 = tk.push → field wd 35 5 = d → field wd 30 5 = a → field wd 25 5 = b → rawDecode wd = some (.add tk d a b) := by
    intro _ e0 e1 e2 e3 e4 e5 e6; simp only [rawDecode, rawAlu, e0, e1, e2, e3, e4, e5, e6]
  exact ⟨l0, key _ (peel 60 tk.pop.toNat rfl <| peel 52 tk.push.toNat rfl <| place_part 40 0 5 l3 rfl rfl)
    (peel 60 tk.pop.toNat rfl <| peel 52 tk.push.toNat rfl <| place_part 40 0 0 l3 rfl rfl)
    (field_eq <| place_hit tk.pop.isLt l1)
    (field_eq <| peel 60 tk.pop.toNat rfl <| place_hit tk.push.isLt l2)
    (field_eq <| peel 60 tk.pop.toNat rfl <| peel 52 tk.push.toNat rfl <| peel 40 0 rfl <| place_hit d.isLt l4)
    (field_eq <| peel 60 tk.pop.toNat rfl <| peel 52 tk.push.toNat rfl <| peel 40 0 rfl <| peel 35 d.toNat rfl <| place_hit a.isLt l5)
    (field_eq <| peel 60 tk.pop.toNat rfl <| peel 52 tk.push.toNat rfl <| peel 40 0 rfl <| peel 35 d.toNat rfl <| peel 30 a.toNat rfl <| place_hit b.isLt l6)⟩

theorem Encoding.sub (tk : Tok) (d a b : BitVec 5) : Encoding.Statement (.sub tk d a b) := by
  intro wd h
  have h0 : pack _ _ _ = wd := Option.some.inj h
  rw [pack_place] at h0; subst h0
  have l6 : place [] < 2 ^ 25 := Nat.two_pow_pos _
  have l5 := place_lt 30 b.isLt l6 rfl
  have l4 := place_lt 35 a.isLt l5 rfl
  have l3 := place_lt 40 d.isLt l4 rfl
  have l2 := place_lt 52 (show 1 < 2 ^ 8 by decide) l3 rfl
  have l1 := place_lt 60 tk.push.isLt l2 rfl
  have l0 := place_lt 64 tk.pop.isLt l1 rfl
  have key : ∀ wd, nfield wd 45 3 = 0 → nfield wd 40 5 = 1 → field wd 60 4 = tk.pop → field wd 52 4 = tk.push → field wd 35 5 = d → field wd 30 5 = a → field wd 25 5 = b → rawDecode wd = some (.sub tk d a b) := by
    intro _ e0 e1 e2 e3 e4 e5 e6; simp only [rawDecode, rawAlu, e0, e1, e2, e3, e4, e5, e6]
  exact ⟨l0, key _ (peel 60 tk.pop.toNat rfl <| peel 52 tk.push.toNat rfl <| place_part 40 1 5 l3 rfl rfl)
    (peel 60 tk.pop.toNat rfl <| peel 52 tk.push.toNat rfl <| place_part 40 1 0 l3 rfl rfl)
    (field_eq <| place_hit tk.pop.isLt l1)
    (field_eq <| peel 60 tk.pop.toNat rfl <| place_hit tk.push.isLt l2)
    (field_eq <| peel 60 tk.pop.toNat rfl <| peel 52 tk.push.toNat rfl <| peel 40 1 rfl <| place_hit d.isLt l4)
    (field_eq <| peel 60 tk.pop.toNat rfl <| peel 52 tk.push.toNat rfl <| peel 40 1 rfl <| peel 35 d.toNat rfl <| place_hit a.isLt l5)
    (field_eq <| peel 60 tk.pop.toNat rfl <| peel 52 tk.push.toNat rfl <| peel 40 1 rfl <| peel 35 d.toNat rfl <| peel 30 a.toNat rfl <| place_hit b.isLt l6)⟩

theorem Encoding.and (tk : Tok) (d a b : BitVec 5) : Encoding.Statement (.and tk d a b) := by
  intro wd h
  have h0 : pack _ _ _ = wd := Option.some.inj h
  rw [pack_place] at h0; subst h0
  have l6 : place [] < 2 ^ 25 := Nat.two_pow_pos _
  have l5 := place_lt 30 b.isLt l6 rfl
  have l4 := place_lt 35 a.isLt l5 rfl
  have l3 := place_lt 40 d.isLt l4 rfl
  have l2 := place_lt 52 (show 2 < 2 ^ 8 by decide) l3 rfl
  have l1 := place_lt 60 tk.push.isLt l2 rfl
  have l0 := place_lt 64 tk.pop.isLt l1 rfl
  have key : ∀ wd, nfield wd 45 3 = 0 → nfield wd 40 5 = 2 → field wd 60 4 = tk.pop → field wd 52 4 = tk.push → field wd 35 5 = d → field wd 30 5 = a → field wd 25 5 = b → rawDecode wd = some (.and tk d a b) := by
    intro _ e0 e1 e2 e3 e4 e5 e6; simp only [rawDecode, rawAlu, e0, e1, e2, e3, e4, e5, e6]
  exact ⟨l0, key _ (peel 60 tk.pop.toNat rfl <| peel 52 tk.push.toNat rfl <| place_part 40 2 5 l3 rfl rfl)
    (peel 60 tk.pop.toNat rfl <| peel 52 tk.push.toNat rfl <| place_part 40 2 0 l3 rfl rfl)
    (field_eq <| place_hit tk.pop.isLt l1)
    (field_eq <| peel 60 tk.pop.toNat rfl <| place_hit tk.push.isLt l2)
    (field_eq <| peel 60 tk.pop.toNat rfl <| peel 52 tk.push.toNat rfl <| peel 40 2 rfl <| place_hit d.isLt l4)
    (field_eq <| peel 60 tk.pop.toNat rfl <| peel 52 tk.push.toNat rfl <| peel 40 2 rfl <| peel 35 d.toNat rfl <| place_hit a.isLt l5)
    (field_eq <| peel 60 tk.pop.toNat rfl <| peel 52 tk.push.toNat rfl <| peel 40 2 rfl <| peel 35 d.toNat rfl <| peel 30 a.toNat rfl <| place_hit b.isLt l6)⟩

theorem Encoding.or (tk : Tok) (d a b : BitVec 5) : Encoding.Statement (.or tk d a b) := by
  intro wd h
  have h0 : pack _ _ _ = wd := Option.some.inj h
  rw [pack_place] at h0; subst h0
  have l6 : place [] < 2 ^ 25 := Nat.two_pow_pos _
  have l5 := place_lt 30 b.isLt l6 rfl
  have l4 := place_lt 35 a.isLt l5 rfl
  have l3 := place_lt 40 d.isLt l4 rfl
  have l2 := place_lt 52 (show 3 < 2 ^ 8 by decide) l3 rfl
  have l1 := place_lt 60 tk.push.isLt l2 rfl
  have l0 := place_lt 64 tk.pop.isLt l1 rfl
  have key : ∀ wd, nfield wd 45 3 = 0 → nfield wd 40 5 = 3 → field wd 60 4 = tk.pop → field wd 52 4 = tk.push → field wd 35 5 = d → field wd 30 5 = a → field wd 25 5 = b → rawDecode wd = some (.or tk d a b) := by
    intro _ e0 e1 e2 e3 e4 e5 e6; simp only [rawDecode, rawAlu, e0, e1, e2, e3, e4, e5, e6]
  exact ⟨l0, key _ (peel 60 tk.pop.toNat rfl <| peel 52 tk.push.toNat rfl <| place_part 40 3 5 l3 rfl rfl)
    (peel 60 tk.pop.toNat rfl <| peel 52 tk.push.toNat rfl <| place_part 40 3 0 l3 rfl rfl)
    (field_eq <| place_hit tk.pop.isLt l1)
    (field_eq <| peel 60 tk.pop.toNat rfl <| place_hit tk.push.isLt l2)
    (field_eq <| peel 60 tk.pop.toNat rfl <| peel 52 tk.push.toNat rfl <| peel 40 3 rfl <| place_hit d.isLt l4)
    (field_eq <| peel 60 tk.pop.toNat rfl <| peel 52 tk.push.toNat rfl <| peel 40 3 rfl <| peel 35 d.toNat rfl <| place_hit a.isLt l5)
    (field_eq <| peel 60 tk.pop.toNat rfl <| peel 52 tk.push.toNat rfl <| peel 40 3 rfl <| peel 35 d.toNat rfl <| peel 30 a.toNat rfl <| place_hit b.isLt l6)⟩

theorem Encoding.xor (tk : Tok) (d a b : BitVec 5) : Encoding.Statement (.xor tk d a b) := by
  intro wd h
  have h0 : pack _ _ _ = wd := Option.some.inj h
  rw [pack_place] at h0; subst h0
  have l6 : place [] < 2 ^ 25 := Nat.two_pow_pos _
  have l5 := place_lt 30 b.isLt l6 rfl
  have l4 := place_lt 35 a.isLt l5 rfl
  have l3 := place_lt 40 d.isLt l4 rfl
  have l2 := place_lt 52 (show 4 < 2 ^ 8 by decide) l3 rfl
  have l1 := place_lt 60 tk.push.isLt l2 rfl
  have l0 := place_lt 64 tk.pop.isLt l1 rfl
  have key : ∀ wd, nfield wd 45 3 = 0 → nfield wd 40 5 = 4 → field wd 60 4 = tk.pop → field wd 52 4 = tk.push → field wd 35 5 = d → field wd 30 5 = a → field wd 25 5 = b → rawDecode wd = some (.xor tk d a b) := by
    intro _ e0 e1 e2 e3 e4 e5 e6; simp only [rawDecode, rawAlu, e0, e1, e2, e3, e4, e5, e6]
  exact ⟨l0, key _ (peel 60 tk.pop.toNat rfl <| peel 52 tk.push.toNat rfl <| place_part 40 4 5 l3 rfl rfl)
    (peel 60 tk.pop.toNat rfl <| peel 52 tk.push.toNat rfl <| place_part 40 4 0 l3 rfl rfl)
    (field_eq <| place_hit tk.pop.isLt l1)
    (field_eq <| peel 60 tk.pop.toNat rfl <| place_hit tk.push.isLt l2)
    (field_eq <| peel 60 tk.pop.toNat rfl <| peel 52 tk.push.toNat rfl <| peel 40 4 rfl <| place_hit d.isLt l4)
    (field_eq <| peel 60 tk.pop.toNat rfl <| peel 52 tk.push.toNat rfl <| peel 40 4 rfl <| peel 35 d.toNat rfl <| place_hit a.isLt l5)
    (field_eq <| peel 60 tk.pop.toNat rfl <| peel 52 tk.push.toNat rfl <| peel 40 4 rfl <| peel 35 d.toNat rfl <| peel 30 a.toNat rfl <| place_hit b.isLt l6)⟩

theorem Encoding.andn (tk : Tok) (d a b : BitVec 5) : Encoding.Statement (.andn tk d a b) := by
  intro wd h
  have h0 : pack _ _ _ = wd := Option.some.inj h
  rw [pack_place] at h0; subst h0
  have l6 : place [] < 2 ^ 25 := Nat.two_pow_pos _
  have l5 := place_lt 30 b.isLt l6 rfl
  have l4 := place_lt 35 a.isLt l5 rfl
  have l3 := place_lt 40 d.isLt l4 rfl
  have l2 := place_lt 52 (show 5 < 2 ^ 8 by decide) l3 rfl
  have l1 := place_lt 60 tk.push.isLt l2 rfl
  have l0 := place_lt 64 tk.pop.isLt l1 rfl
  have key : ∀ wd, nfield wd 45 3 = 0 → nfield wd 40 5 = 5 → field wd 60 4 = tk.pop → field wd 52 4 = tk.push → field wd 35 5 = d → field wd 30 5 = a → field wd 25 5 = b → rawDecode wd = some (.andn tk d a b) := by
    intro _ e0 e1 e2 e3 e4 e5 e6; simp only [rawDecode, rawAlu, e0, e1, e2, e3, e4, e5, e6]
  exact ⟨l0, key _ (peel 60 tk.pop.toNat rfl <| peel 52 tk.push.toNat rfl <| place_part 40 5 5 l3 rfl rfl)
    (peel 60 tk.pop.toNat rfl <| peel 52 tk.push.toNat rfl <| place_part 40 5 0 l3 rfl rfl)
    (field_eq <| place_hit tk.pop.isLt l1)
    (field_eq <| peel 60 tk.pop.toNat rfl <| place_hit tk.push.isLt l2)
    (field_eq <| peel 60 tk.pop.toNat rfl <| peel 52 tk.push.toNat rfl <| peel 40 5 rfl <| place_hit d.isLt l4)
    (field_eq <| peel 60 tk.pop.toNat rfl <| peel 52 tk.push.toNat rfl <| peel 40 5 rfl <| peel 35 d.toNat rfl <| place_hit a.isLt l5)
    (field_eq <| peel 60 tk.pop.toNat rfl <| peel 52 tk.push.toNat rfl <| peel 40 5 rfl <| peel 35 d.toNat rfl <| peel 30 a.toNat rfl <| place_hit b.isLt l6)⟩

theorem Encoding.shl (tk : Tok) (d a b : BitVec 5) : Encoding.Statement (.shl tk d a b) := by
  intro wd h
  have h0 : pack _ _ _ = wd := Option.some.inj h
  rw [pack_place] at h0; subst h0
  have l6 : place [] < 2 ^ 25 := Nat.two_pow_pos _
  have l5 := place_lt 30 b.isLt l6 rfl
  have l4 := place_lt 35 a.isLt l5 rfl
  have l3 := place_lt 40 d.isLt l4 rfl
  have l2 := place_lt 52 (show 6 < 2 ^ 8 by decide) l3 rfl
  have l1 := place_lt 60 tk.push.isLt l2 rfl
  have l0 := place_lt 64 tk.pop.isLt l1 rfl
  have key : ∀ wd, nfield wd 45 3 = 0 → nfield wd 40 5 = 6 → field wd 60 4 = tk.pop → field wd 52 4 = tk.push → field wd 35 5 = d → field wd 30 5 = a → field wd 25 5 = b → rawDecode wd = some (.shl tk d a b) := by
    intro _ e0 e1 e2 e3 e4 e5 e6; simp only [rawDecode, rawAlu, e0, e1, e2, e3, e4, e5, e6]
  exact ⟨l0, key _ (peel 60 tk.pop.toNat rfl <| peel 52 tk.push.toNat rfl <| place_part 40 6 5 l3 rfl rfl)
    (peel 60 tk.pop.toNat rfl <| peel 52 tk.push.toNat rfl <| place_part 40 6 0 l3 rfl rfl)
    (field_eq <| place_hit tk.pop.isLt l1)
    (field_eq <| peel 60 tk.pop.toNat rfl <| place_hit tk.push.isLt l2)
    (field_eq <| peel 60 tk.pop.toNat rfl <| peel 52 tk.push.toNat rfl <| peel 40 6 rfl <| place_hit d.isLt l4)
    (field_eq <| peel 60 tk.pop.toNat rfl <| peel 52 tk.push.toNat rfl <| peel 40 6 rfl <| peel 35 d.toNat rfl <| place_hit a.isLt l5)
    (field_eq <| peel 60 tk.pop.toNat rfl <| peel 52 tk.push.toNat rfl <| peel 40 6 rfl <| peel 35 d.toNat rfl <| peel 30 a.toNat rfl <| place_hit b.isLt l6)⟩

theorem Encoding.shr (tk : Tok) (d a b : BitVec 5) : Encoding.Statement (.shr tk d a b) := by
  intro wd h
  have h0 : pack _ _ _ = wd := Option.some.inj h
  rw [pack_place] at h0; subst h0
  have l6 : place [] < 2 ^ 25 := Nat.two_pow_pos _
  have l5 := place_lt 30 b.isLt l6 rfl
  have l4 := place_lt 35 a.isLt l5 rfl
  have l3 := place_lt 40 d.isLt l4 rfl
  have l2 := place_lt 52 (show 7 < 2 ^ 8 by decide) l3 rfl
  have l1 := place_lt 60 tk.push.isLt l2 rfl
  have l0 := place_lt 64 tk.pop.isLt l1 rfl
  have key : ∀ wd, nfield wd 45 3 = 0 → nfield wd 40 5 = 7 → field wd 60 4 = tk.pop → field wd 52 4 = tk.push → field wd 35 5 = d → field wd 30 5 = a → field wd 25 5 = b → rawDecode wd = some (.shr tk d a b) := by
    intro _ e0 e1 e2 e3 e4 e5 e6; simp only [rawDecode, rawAlu, e0, e1, e2, e3, e4, e5, e6]
  exact ⟨l0, key _ (peel 60 tk.pop.toNat rfl <| peel 52 tk.push.toNat rfl <| place_part 40 7 5 l3 rfl rfl)
    (peel 60 tk.pop.toNat rfl <| peel 52 tk.push.toNat rfl <| place_part 40 7 0 l3 rfl rfl)
    (field_eq <| place_hit tk.pop.isLt l1)
    (field_eq <| peel 60 tk.pop.toNat rfl <| place_hit tk.push.isLt l2)
    (field_eq <| peel 60 tk.pop.toNat rfl <| peel 52 tk.push.toNat rfl <| peel 40 7 rfl <| place_hit d.isLt l4)
    (field_eq <| peel 60 tk.pop.toNat rfl <| peel 52 tk.push.toNat rfl <| peel 40 7 rfl <| peel 35 d.toNat rfl <| place_hit a.isLt l5)
    (field_eq <| peel 60 tk.pop.toNat rfl <| peel 52 tk.push.toNat rfl <| peel 40 7 rfl <| peel 35 d.toNat rfl <| peel 30 a.toNat rfl <| place_hit b.isLt l6)⟩

theorem Encoding.sra (tk : Tok) (d a b : BitVec 5) : Encoding.Statement (.sra tk d a b) := by
  intro wd h
  have h0 : pack _ _ _ = wd := Option.some.inj h
  rw [pack_place] at h0; subst h0
  have l6 : place [] < 2 ^ 25 := Nat.two_pow_pos _
  have l5 := place_lt 30 b.isLt l6 rfl
  have l4 := place_lt 35 a.isLt l5 rfl
  have l3 := place_lt 40 d.isLt l4 rfl
  have l2 := place_lt 52 (show 8 < 2 ^ 8 by decide) l3 rfl
  have l1 := place_lt 60 tk.push.isLt l2 rfl
  have l0 := place_lt 64 tk.pop.isLt l1 rfl
  have key : ∀ wd, nfield wd 45 3 = 0 → nfield wd 40 5 = 8 → field wd 60 4 = tk.pop → field wd 52 4 = tk.push → field wd 35 5 = d → field wd 30 5 = a → field wd 25 5 = b → rawDecode wd = some (.sra tk d a b) := by
    intro _ e0 e1 e2 e3 e4 e5 e6; simp only [rawDecode, rawAlu, e0, e1, e2, e3, e4, e5, e6]
  exact ⟨l0, key _ (peel 60 tk.pop.toNat rfl <| peel 52 tk.push.toNat rfl <| place_part 40 8 5 l3 rfl rfl)
    (peel 60 tk.pop.toNat rfl <| peel 52 tk.push.toNat rfl <| place_part 40 8 0 l3 rfl rfl)
    (field_eq <| place_hit tk.pop.isLt l1)
    (field_eq <| peel 60 tk.pop.toNat rfl <| place_hit tk.push.isLt l2)
    (field_eq <| peel 60 tk.pop.toNat rfl <| peel 52 tk.push.toNat rfl <| peel 40 8 rfl <| place_hit d.isLt l4)
    (field_eq <| peel 60 tk.pop.toNat rfl <| peel 52 tk.push.toNat rfl <| peel 40 8 rfl <| peel 35 d.toNat rfl <| place_hit a.isLt l5)
    (field_eq <| peel 60 tk.pop.toNat rfl <| peel 52 tk.push.toNat rfl <| peel 40 8 rfl <| peel 35 d.toNat rfl <| peel 30 a.toNat rfl <| place_hit b.isLt l6)⟩

theorem Encoding.rot (tk : Tok) (d a b : BitVec 5) : Encoding.Statement (.rot tk d a b) := by
  intro wd h
  have h0 : pack _ _ _ = wd := Option.some.inj h
  rw [pack_place] at h0; subst h0
  have l6 : place [] < 2 ^ 25 := Nat.two_pow_pos _
  have l5 := place_lt 30 b.isLt l6 rfl
  have l4 := place_lt 35 a.isLt l5 rfl
  have l3 := place_lt 40 d.isLt l4 rfl
  have l2 := place_lt 52 (show 9 < 2 ^ 8 by decide) l3 rfl
  have l1 := place_lt 60 tk.push.isLt l2 rfl
  have l0 := place_lt 64 tk.pop.isLt l1 rfl
  have key : ∀ wd, nfield wd 45 3 = 0 → nfield wd 40 5 = 9 → field wd 60 4 = tk.pop → field wd 52 4 = tk.push → field wd 35 5 = d → field wd 30 5 = a → field wd 25 5 = b → rawDecode wd = some (.rot tk d a b) := by
    intro _ e0 e1 e2 e3 e4 e5 e6; simp only [rawDecode, rawAlu, e0, e1, e2, e3, e4, e5, e6]
  exact ⟨l0, key _ (peel 60 tk.pop.toNat rfl <| peel 52 tk.push.toNat rfl <| place_part 40 9 5 l3 rfl rfl)
    (peel 60 tk.pop.toNat rfl <| peel 52 tk.push.toNat rfl <| place_part 40 9 0 l3 rfl rfl)
    (field_eq <| place_hit tk.pop.isLt l1)
    (field_eq <| peel 60 tk.pop.toNat rfl <| place_hit tk.push.isLt l2)
    (field_eq <| peel 60 tk.pop.toNat rfl <| peel 52 tk.push.toNat rfl <| peel 40 9 rfl <| place_hit d.isLt l4)
    (field_eq <| peel 60 tk.pop.toNat rfl <| peel 52 tk.push.toNat rfl <| peel 40 9 rfl <| peel 35 d.toNat rfl <| place_hit a.isLt l5)
    (field_eq <| peel 60 tk.pop.toNat rfl <| peel 52 tk.push.toNat rfl <| peel 40 9 rfl <| peel 35 d.toNat rfl <| peel 30 a.toNat rfl <| place_hit b.isLt l6)⟩

theorem Encoding.mul (tk : Tok) (d a b : BitVec 5) : Encoding.Statement (.mul tk d a b) := by
  intro wd h
  have h0 : pack _ _ _ = wd := Option.some.inj h
  rw [pack_place] at h0; subst h0
  have l6 : place [] < 2 ^ 25 := Nat.two_pow_pos _
  have l5 := place_lt 30 b.isLt l6 rfl
  have l4 := place_lt 35 a.isLt l5 rfl
  have l3 := place_lt 40 d.isLt l4 rfl
  have l2 := place_lt 52 (show 10 < 2 ^ 8 by decide) l3 rfl
  have l1 := place_lt 60 tk.push.isLt l2 rfl
  have l0 := place_lt 64 tk.pop.isLt l1 rfl
  have key : ∀ wd, nfield wd 45 3 = 0 → nfield wd 40 5 = 10 → field wd 60 4 = tk.pop → field wd 52 4 = tk.push → field wd 35 5 = d → field wd 30 5 = a → field wd 25 5 = b → rawDecode wd = some (.mul tk d a b) := by
    intro _ e0 e1 e2 e3 e4 e5 e6; simp only [rawDecode, rawAlu, e0, e1, e2, e3, e4, e5, e6]
  exact ⟨l0, key _ (peel 60 tk.pop.toNat rfl <| peel 52 tk.push.toNat rfl <| place_part 40 10 5 l3 rfl rfl)
    (peel 60 tk.pop.toNat rfl <| peel 52 tk.push.toNat rfl <| place_part 40 10 0 l3 rfl rfl)
    (field_eq <| place_hit tk.pop.isLt l1)
    (field_eq <| peel 60 tk.pop.toNat rfl <| place_hit tk.push.isLt l2)
    (field_eq <| peel 60 tk.pop.toNat rfl <| peel 52 tk.push.toNat rfl <| peel 40 10 rfl <| place_hit d.isLt l4)
    (field_eq <| peel 60 tk.pop.toNat rfl <| peel 52 tk.push.toNat rfl <| peel 40 10 rfl <| peel 35 d.toNat rfl <| place_hit a.isLt l5)
    (field_eq <| peel 60 tk.pop.toNat rfl <| peel 52 tk.push.toNat rfl <| peel 40 10 rfl <| peel 35 d.toNat rfl <| peel 30 a.toNat rfl <| place_hit b.isLt l6)⟩

theorem Encoding.mulh (tk : Tok) (d a b : BitVec 5) : Encoding.Statement (.mulh tk d a b) := by
  intro wd h
  have h0 : pack _ _ _ = wd := Option.some.inj h
  rw [pack_place] at h0; subst h0
  have l6 : place [] < 2 ^ 25 := Nat.two_pow_pos _
  have l5 := place_lt 30 b.isLt l6 rfl
  have l4 := place_lt 35 a.isLt l5 rfl
  have l3 := place_lt 40 d.isLt l4 rfl
  have l2 := place_lt 52 (show 11 < 2 ^ 8 by decide) l3 rfl
  have l1 := place_lt 60 tk.push.isLt l2 rfl
  have l0 := place_lt 64 tk.pop.isLt l1 rfl
  have key : ∀ wd, nfield wd 45 3 = 0 → nfield wd 40 5 = 11 → field wd 60 4 = tk.pop → field wd 52 4 = tk.push → field wd 35 5 = d → field wd 30 5 = a → field wd 25 5 = b → rawDecode wd = some (.mulh tk d a b) := by
    intro _ e0 e1 e2 e3 e4 e5 e6; simp only [rawDecode, rawAlu, e0, e1, e2, e3, e4, e5, e6]
  exact ⟨l0, key _ (peel 60 tk.pop.toNat rfl <| peel 52 tk.push.toNat rfl <| place_part 40 11 5 l3 rfl rfl)
    (peel 60 tk.pop.toNat rfl <| peel 52 tk.push.toNat rfl <| place_part 40 11 0 l3 rfl rfl)
    (field_eq <| place_hit tk.pop.isLt l1)
    (field_eq <| peel 60 tk.pop.toNat rfl <| place_hit tk.push.isLt l2)
    (field_eq <| peel 60 tk.pop.toNat rfl <| peel 52 tk.push.toNat rfl <| peel 40 11 rfl <| place_hit d.isLt l4)
    (field_eq <| peel 60 tk.pop.toNat rfl <| peel 52 tk.push.toNat rfl <| peel 40 11 rfl <| peel 35 d.toNat rfl <| place_hit a.isLt l5)
    (field_eq <| peel 60 tk.pop.toNat rfl <| peel 52 tk.push.toNat rfl <| peel 40 11 rfl <| peel 35 d.toNat rfl <| peel 30 a.toNat rfl <| place_hit b.isLt l6)⟩

theorem Encoding.mulhn (tk : Tok) (d a b : BitVec 5) : Encoding.Statement (.mulhn tk d a b) := by
  intro wd h
  have h0 : pack _ _ _ = wd := Option.some.inj h
  rw [pack_place] at h0; subst h0
  have l6 : place [] < 2 ^ 25 := Nat.two_pow_pos _
  have l5 := place_lt 30 b.isLt l6 rfl
  have l4 := place_lt 35 a.isLt l5 rfl
  have l3 := place_lt 40 d.isLt l4 rfl
  have l2 := place_lt 52 (show 12 < 2 ^ 8 by decide) l3 rfl
  have l1 := place_lt 60 tk.push.isLt l2 rfl
  have l0 := place_lt 64 tk.pop.isLt l1 rfl
  have key : ∀ wd, nfield wd 45 3 = 0 → nfield wd 40 5 = 12 → field wd 60 4 = tk.pop → field wd 52 4 = tk.push → field wd 35 5 = d → field wd 30 5 = a → field wd 25 5 = b → rawDecode wd = some (.mulhn tk d a b) := by
    intro _ e0 e1 e2 e3 e4 e5 e6; simp only [rawDecode, rawAlu, e0, e1, e2, e3, e4, e5, e6]
  exact ⟨l0, key _ (peel 60 tk.pop.toNat rfl <| peel 52 tk.push.toNat rfl <| place_part 40 12 5 l3 rfl rfl)
    (peel 60 tk.pop.toNat rfl <| peel 52 tk.push.toNat rfl <| place_part 40 12 0 l3 rfl rfl)
    (field_eq <| place_hit tk.pop.isLt l1)
    (field_eq <| peel 60 tk.pop.toNat rfl <| place_hit tk.push.isLt l2)
    (field_eq <| peel 60 tk.pop.toNat rfl <| peel 52 tk.push.toNat rfl <| peel 40 12 rfl <| place_hit d.isLt l4)
    (field_eq <| peel 60 tk.pop.toNat rfl <| peel 52 tk.push.toNat rfl <| peel 40 12 rfl <| peel 35 d.toNat rfl <| place_hit a.isLt l5)
    (field_eq <| peel 60 tk.pop.toNat rfl <| peel 52 tk.push.toNat rfl <| peel 40 12 rfl <| peel 35 d.toNat rfl <| peel 30 a.toNat rfl <| place_hit b.isLt l6)⟩

theorem Encoding.div (tk : Tok) (d a b : BitVec 5) : Encoding.Statement (.div tk d a b) := by
  intro wd h
  have h0 : pack _ _ _ = wd := Option.some.inj h
  rw [pack_place] at h0; subst h0
  have l6 : place [] < 2 ^ 25 := Nat.two_pow_pos _
  have l5 := place_lt 30 b.isLt l6 rfl
  have l4 := place_lt 35 a.isLt l5 rfl
  have l3 := place_lt 40 d.isLt l4 rfl
  have l2 := place_lt 52 (show 13 < 2 ^ 8 by decide) l3 rfl
  have l1 := place_lt 60 tk.push.isLt l2 rfl
  have l0 := place_lt 64 tk.pop.isLt l1 rfl
  have key : ∀ wd, nfield wd 45 3 = 0 → nfield wd 40 5 = 13 → field wd 60 4 = tk.pop → field wd 52 4 = tk.push → field wd 35 5 = d → field wd 30 5 = a → field wd 25 5 = b → rawDecode wd = some (.div tk d a b) := by
    intro _ e0 e1 e2 e3 e4 e5 e6; simp only [rawDecode, rawAlu, e0, e1, e2, e3, e4, e5, e6]
  exact ⟨l0, key _ (peel 60 tk.pop.toNat rfl <| peel 52 tk.push.toNat rfl <| place_part 40 13 5 l3 rfl rfl)
    (peel 60 tk.pop.toNat rfl <| peel 52 tk.push.toNat rfl <| place_part 40 13 0 l3 rfl rfl)
    (field_eq <| place_hit tk.pop.isLt l1)
    (field_eq <| peel 60 tk.pop.toNat rfl <| place_hit tk.push.isLt l2)
    (field_eq <| peel 60 tk.pop.toNat rfl <| peel 52 tk.push.toNat rfl <| peel 40 13 rfl <| place_hit d.isLt l4)
    (field_eq <| peel 60 tk.pop.toNat rfl <| peel 52 tk.push.toNat rfl <| peel 40 13 rfl <| peel 35 d.toNat rfl <| place_hit a.isLt l5)
    (field_eq <| peel 60 tk.pop.toNat rfl <| peel 52 tk.push.toNat rfl <| peel 40 13 rfl <| peel 35 d.toNat rfl <| peel 30 a.toNat rfl <| place_hit b.isLt l6)⟩

theorem Encoding.divn (tk : Tok) (d a b : BitVec 5) : Encoding.Statement (.divn tk d a b) := by
  intro wd h
  have h0 : pack _ _ _ = wd := Option.some.inj h
  rw [pack_place] at h0; subst h0
  have l6 : place [] < 2 ^ 25 := Nat.two_pow_pos _
  have l5 := place_lt 30 b.isLt l6 rfl
  have l4 := place_lt 35 a.isLt l5 rfl
  have l3 := place_lt 40 d.isLt l4 rfl
  have l2 := place_lt 52 (show 14 < 2 ^ 8 by decide) l3 rfl
  have l1 := place_lt 60 tk.push.isLt l2 rfl
  have l0 := place_lt 64 tk.pop.isLt l1 rfl
  have key : ∀ wd, nfield wd 45 3 = 0 → nfield wd 40 5 = 14 → field wd 60 4 = tk.pop → field wd 52 4 = tk.push → field wd 35 5 = d → field wd 30 5 = a → field wd 25 5 = b → rawDecode wd = some (.divn tk d a b) := by
    intro _ e0 e1 e2 e3 e4 e5 e6; simp only [rawDecode, rawAlu, e0, e1, e2, e3, e4, e5, e6]
  exact ⟨l0, key _ (peel 60 tk.pop.toNat rfl <| peel 52 tk.push.toNat rfl <| place_part 40 14 5 l3 rfl rfl)
    (peel 60 tk.pop.toNat rfl <| peel 52 tk.push.toNat rfl <| place_part 40 14 0 l3 rfl rfl)
    (field_eq <| place_hit tk.pop.isLt l1)
    (field_eq <| peel 60 tk.pop.toNat rfl <| place_hit tk.push.isLt l2)
    (field_eq <| peel 60 tk.pop.toNat rfl <| peel 52 tk.push.toNat rfl <| peel 40 14 rfl <| place_hit d.isLt l4)
    (field_eq <| peel 60 tk.pop.toNat rfl <| peel 52 tk.push.toNat rfl <| peel 40 14 rfl <| peel 35 d.toNat rfl <| place_hit a.isLt l5)
    (field_eq <| peel 60 tk.pop.toNat rfl <| peel 52 tk.push.toNat rfl <| peel 40 14 rfl <| peel 35 d.toNat rfl <| peel 30 a.toNat rfl <| place_hit b.isLt l6)⟩

theorem Encoding.rem (tk : Tok) (d a b : BitVec 5) : Encoding.Statement (.rem tk d a b) := by
  intro wd h
  have h0 : pack _ _ _ = wd := Option.some.inj h
  rw [pack_place] at h0; subst h0
  have l6 : place [] < 2 ^ 25 := Nat.two_pow_pos _
  have l5 := place_lt 30 b.isLt l6 rfl
  have l4 := place_lt 35 a.isLt l5 rfl
  have l3 := place_lt 40 d.isLt l4 rfl
  have l2 := place_lt 52 (show 15 < 2 ^ 8 by decide) l3 rfl
  have l1 := place_lt 60 tk.push.isLt l2 rfl
  have l0 := place_lt 64 tk.pop.isLt l1 rfl
  have key : ∀ wd, nfield wd 45 3 = 0 → nfield wd 40 5 = 15 → field wd 60 4 = tk.pop → field wd 52 4 = tk.push → field wd 35 5 = d → field wd 30 5 = a → field wd 25 5 = b → rawDecode wd = some (.rem tk d a b) := by
    intro _ e0 e1 e2 e3 e4 e5 e6; simp only [rawDecode, rawAlu, e0, e1, e2, e3, e4, e5, e6]
  exact ⟨l0, key _ (peel 60 tk.pop.toNat rfl <| peel 52 tk.push.toNat rfl <| place_part 40 15 5 l3 rfl rfl)
    (peel 60 tk.pop.toNat rfl <| peel 52 tk.push.toNat rfl <| place_part 40 15 0 l3 rfl rfl)
    (field_eq <| place_hit tk.pop.isLt l1)
    (field_eq <| peel 60 tk.pop.toNat rfl <| place_hit tk.push.isLt l2)
    (field_eq <| peel 60 tk.pop.toNat rfl <| peel 52 tk.push.toNat rfl <| peel 40 15 rfl <| place_hit d.isLt l4)
    (field_eq <| peel 60 tk.pop.toNat rfl <| peel 52 tk.push.toNat rfl <| peel 40 15 rfl <| peel 35 d.toNat rfl <| place_hit a.isLt l5)
    (field_eq <| peel 60 tk.pop.toNat rfl <| peel 52 tk.push.toNat rfl <| peel 40 15 rfl <| peel 35 d.toNat rfl <| peel 30 a.toNat rfl <| place_hit b.isLt l6)⟩

theorem Encoding.remn (tk : Tok) (d a b : BitVec 5) : Encoding.Statement (.remn tk d a b) := by
  intro wd h
  have h0 : pack _ _ _ = wd := Option.some.inj h
  rw [pack_place] at h0; subst h0
  have l6 : place [] < 2 ^ 25 := Nat.two_pow_pos _
  have l5 := place_lt 30 b.isLt l6 rfl
  have l4 := place_lt 35 a.isLt l5 rfl
  have l3 := place_lt 40 d.isLt l4 rfl
  have l2 := place_lt 52 (show 16 < 2 ^ 8 by decide) l3 rfl
  have l1 := place_lt 60 tk.push.isLt l2 rfl
  have l0 := place_lt 64 tk.pop.isLt l1 rfl
  have key : ∀ wd, nfield wd 45 3 = 0 → nfield wd 40 5 = 16 → field wd 60 4 = tk.pop → field wd 52 4 = tk.push → field wd 35 5 = d → field wd 30 5 = a → field wd 25 5 = b → rawDecode wd = some (.remn tk d a b) := by
    intro _ e0 e1 e2 e3 e4 e5 e6; simp only [rawDecode, rawAlu, e0, e1, e2, e3, e4, e5, e6]
  exact ⟨l0, key _ (peel 60 tk.pop.toNat rfl <| peel 52 tk.push.toNat rfl <| place_part 40 16 5 l3 rfl rfl)
    (peel 60 tk.pop.toNat rfl <| peel 52 tk.push.toNat rfl <| place_part 40 16 0 l3 rfl rfl)
    (field_eq <| place_hit tk.pop.isLt l1)
    (field_eq <| peel 60 tk.pop.toNat rfl <| place_hit tk.push.isLt l2)
    (field_eq <| peel 60 tk.pop.toNat rfl <| peel 52 tk.push.toNat rfl <| peel 40 16 rfl <| place_hit d.isLt l4)
    (field_eq <| peel 60 tk.pop.toNat rfl <| peel 52 tk.push.toNat rfl <| peel 40 16 rfl <| peel 35 d.toNat rfl <| place_hit a.isLt l5)
    (field_eq <| peel 60 tk.pop.toNat rfl <| peel 52 tk.push.toNat rfl <| peel 40 16 rfl <| peel 35 d.toNat rfl <| peel 30 a.toNat rfl <| place_hit b.isLt l6)⟩

theorem Encoding.min (tk : Tok) (d a b : BitVec 5) : Encoding.Statement (.min tk d a b) := by
  intro wd h
  have h0 : pack _ _ _ = wd := Option.some.inj h
  rw [pack_place] at h0; subst h0
  have l6 : place [] < 2 ^ 25 := Nat.two_pow_pos _
  have l5 := place_lt 30 b.isLt l6 rfl
  have l4 := place_lt 35 a.isLt l5 rfl
  have l3 := place_lt 40 d.isLt l4 rfl
  have l2 := place_lt 52 (show 17 < 2 ^ 8 by decide) l3 rfl
  have l1 := place_lt 60 tk.push.isLt l2 rfl
  have l0 := place_lt 64 tk.pop.isLt l1 rfl
  have key : ∀ wd, nfield wd 45 3 = 0 → nfield wd 40 5 = 17 → field wd 60 4 = tk.pop → field wd 52 4 = tk.push → field wd 35 5 = d → field wd 30 5 = a → field wd 25 5 = b → rawDecode wd = some (.min tk d a b) := by
    intro _ e0 e1 e2 e3 e4 e5 e6; simp only [rawDecode, rawAlu, e0, e1, e2, e3, e4, e5, e6]
  exact ⟨l0, key _ (peel 60 tk.pop.toNat rfl <| peel 52 tk.push.toNat rfl <| place_part 40 17 5 l3 rfl rfl)
    (peel 60 tk.pop.toNat rfl <| peel 52 tk.push.toNat rfl <| place_part 40 17 0 l3 rfl rfl)
    (field_eq <| place_hit tk.pop.isLt l1)
    (field_eq <| peel 60 tk.pop.toNat rfl <| place_hit tk.push.isLt l2)
    (field_eq <| peel 60 tk.pop.toNat rfl <| peel 52 tk.push.toNat rfl <| peel 40 17 rfl <| place_hit d.isLt l4)
    (field_eq <| peel 60 tk.pop.toNat rfl <| peel 52 tk.push.toNat rfl <| peel 40 17 rfl <| peel 35 d.toNat rfl <| place_hit a.isLt l5)
    (field_eq <| peel 60 tk.pop.toNat rfl <| peel 52 tk.push.toNat rfl <| peel 40 17 rfl <| peel 35 d.toNat rfl <| peel 30 a.toNat rfl <| place_hit b.isLt l6)⟩

theorem Encoding.max (tk : Tok) (d a b : BitVec 5) : Encoding.Statement (.max tk d a b) := by
  intro wd h
  have h0 : pack _ _ _ = wd := Option.some.inj h
  rw [pack_place] at h0; subst h0
  have l6 : place [] < 2 ^ 25 := Nat.two_pow_pos _
  have l5 := place_lt 30 b.isLt l6 rfl
  have l4 := place_lt 35 a.isLt l5 rfl
  have l3 := place_lt 40 d.isLt l4 rfl
  have l2 := place_lt 52 (show 18 < 2 ^ 8 by decide) l3 rfl
  have l1 := place_lt 60 tk.push.isLt l2 rfl
  have l0 := place_lt 64 tk.pop.isLt l1 rfl
  have key : ∀ wd, nfield wd 45 3 = 0 → nfield wd 40 5 = 18 → field wd 60 4 = tk.pop → field wd 52 4 = tk.push → field wd 35 5 = d → field wd 30 5 = a → field wd 25 5 = b → rawDecode wd = some (.max tk d a b) := by
    intro _ e0 e1 e2 e3 e4 e5 e6; simp only [rawDecode, rawAlu, e0, e1, e2, e3, e4, e5, e6]
  exact ⟨l0, key _ (peel 60 tk.pop.toNat rfl <| peel 52 tk.push.toNat rfl <| place_part 40 18 5 l3 rfl rfl)
    (peel 60 tk.pop.toNat rfl <| peel 52 tk.push.toNat rfl <| place_part 40 18 0 l3 rfl rfl)
    (field_eq <| place_hit tk.pop.isLt l1)
    (field_eq <| peel 60 tk.pop.toNat rfl <| place_hit tk.push.isLt l2)
    (field_eq <| peel 60 tk.pop.toNat rfl <| peel 52 tk.push.toNat rfl <| peel 40 18 rfl <| place_hit d.isLt l4)
    (field_eq <| peel 60 tk.pop.toNat rfl <| peel 52 tk.push.toNat rfl <| peel 40 18 rfl <| peel 35 d.toNat rfl <| place_hit a.isLt l5)
    (field_eq <| peel 60 tk.pop.toNat rfl <| peel 52 tk.push.toNat rfl <| peel 40 18 rfl <| peel 35 d.toNat rfl <| peel 30 a.toNat rfl <| place_hit b.isLt l6)⟩

theorem Encoding.minn (tk : Tok) (d a b : BitVec 5) : Encoding.Statement (.minn tk d a b) := by
  intro wd h
  have h0 : pack _ _ _ = wd := Option.some.inj h
  rw [pack_place] at h0; subst h0
  have l6 : place [] < 2 ^ 25 := Nat.two_pow_pos _
  have l5 := place_lt 30 b.isLt l6 rfl
  have l4 := place_lt 35 a.isLt l5 rfl
  have l3 := place_lt 40 d.isLt l4 rfl
  have l2 := place_lt 52 (show 19 < 2 ^ 8 by decide) l3 rfl
  have l1 := place_lt 60 tk.push.isLt l2 rfl
  have l0 := place_lt 64 tk.pop.isLt l1 rfl
  have key : ∀ wd, nfield wd 45 3 = 0 → nfield wd 40 5 = 19 → field wd 60 4 = tk.pop → field wd 52 4 = tk.push → field wd 35 5 = d → field wd 30 5 = a → field wd 25 5 = b → rawDecode wd = some (.minn tk d a b) := by
    intro _ e0 e1 e2 e3 e4 e5 e6; simp only [rawDecode, rawAlu, e0, e1, e2, e3, e4, e5, e6]
  exact ⟨l0, key _ (peel 60 tk.pop.toNat rfl <| peel 52 tk.push.toNat rfl <| place_part 40 19 5 l3 rfl rfl)
    (peel 60 tk.pop.toNat rfl <| peel 52 tk.push.toNat rfl <| place_part 40 19 0 l3 rfl rfl)
    (field_eq <| place_hit tk.pop.isLt l1)
    (field_eq <| peel 60 tk.pop.toNat rfl <| place_hit tk.push.isLt l2)
    (field_eq <| peel 60 tk.pop.toNat rfl <| peel 52 tk.push.toNat rfl <| peel 40 19 rfl <| place_hit d.isLt l4)
    (field_eq <| peel 60 tk.pop.toNat rfl <| peel 52 tk.push.toNat rfl <| peel 40 19 rfl <| peel 35 d.toNat rfl <| place_hit a.isLt l5)
    (field_eq <| peel 60 tk.pop.toNat rfl <| peel 52 tk.push.toNat rfl <| peel 40 19 rfl <| peel 35 d.toNat rfl <| peel 30 a.toNat rfl <| place_hit b.isLt l6)⟩

theorem Encoding.maxn (tk : Tok) (d a b : BitVec 5) : Encoding.Statement (.maxn tk d a b) := by
  intro wd h
  have h0 : pack _ _ _ = wd := Option.some.inj h
  rw [pack_place] at h0; subst h0
  have l6 : place [] < 2 ^ 25 := Nat.two_pow_pos _
  have l5 := place_lt 30 b.isLt l6 rfl
  have l4 := place_lt 35 a.isLt l5 rfl
  have l3 := place_lt 40 d.isLt l4 rfl
  have l2 := place_lt 52 (show 20 < 2 ^ 8 by decide) l3 rfl
  have l1 := place_lt 60 tk.push.isLt l2 rfl
  have l0 := place_lt 64 tk.pop.isLt l1 rfl
  have key : ∀ wd, nfield wd 45 3 = 0 → nfield wd 40 5 = 20 → field wd 60 4 = tk.pop → field wd 52 4 = tk.push → field wd 35 5 = d → field wd 30 5 = a → field wd 25 5 = b → rawDecode wd = some (.maxn tk d a b) := by
    intro _ e0 e1 e2 e3 e4 e5 e6; simp only [rawDecode, rawAlu, e0, e1, e2, e3, e4, e5, e6]
  exact ⟨l0, key _ (peel 60 tk.pop.toNat rfl <| peel 52 tk.push.toNat rfl <| place_part 40 20 5 l3 rfl rfl)
    (peel 60 tk.pop.toNat rfl <| peel 52 tk.push.toNat rfl <| place_part 40 20 0 l3 rfl rfl)
    (field_eq <| place_hit tk.pop.isLt l1)
    (field_eq <| peel 60 tk.pop.toNat rfl <| place_hit tk.push.isLt l2)
    (field_eq <| peel 60 tk.pop.toNat rfl <| peel 52 tk.push.toNat rfl <| peel 40 20 rfl <| place_hit d.isLt l4)
    (field_eq <| peel 60 tk.pop.toNat rfl <| peel 52 tk.push.toNat rfl <| peel 40 20 rfl <| peel 35 d.toNat rfl <| place_hit a.isLt l5)
    (field_eq <| peel 60 tk.pop.toNat rfl <| peel 52 tk.push.toNat rfl <| peel 40 20 rfl <| peel 35 d.toNat rfl <| peel 30 a.toNat rfl <| place_hit b.isLt l6)⟩

theorem Encoding.clz (tk : Tok) (d a : BitVec 5) : Encoding.Statement (.clz tk d a) := by
  intro wd h
  have h0 : pack _ _ _ = wd := Option.some.inj h
  rw [pack_place] at h0; subst h0
  have l5 : place [] < 2 ^ 30 := Nat.two_pow_pos _
  have l4 := place_lt 35 a.isLt l5 rfl
  have l3 := place_lt 40 d.isLt l4 rfl
  have l2 := place_lt 52 (show 21 < 2 ^ 8 by decide) l3 rfl
  have l1 := place_lt 60 tk.push.isLt l2 rfl
  have l0 := place_lt 64 tk.pop.isLt l1 rfl
  have key : ∀ wd, nfield wd 45 3 = 0 → nfield wd 40 5 = 21 → field wd 60 4 = tk.pop → field wd 52 4 = tk.push → field wd 35 5 = d → field wd 30 5 = a → rawDecode wd = some (.clz tk d a) := by
    intro _ e0 e1 e2 e3 e4 e5; simp only [rawDecode, rawAlu, e0, e1, e2, e3, e4, e5]
  exact ⟨l0, key _ (peel 60 tk.pop.toNat rfl <| peel 52 tk.push.toNat rfl <| place_part 40 21 5 l3 rfl rfl)
    (peel 60 tk.pop.toNat rfl <| peel 52 tk.push.toNat rfl <| place_part 40 21 0 l3 rfl rfl)
    (field_eq <| place_hit tk.pop.isLt l1)
    (field_eq <| peel 60 tk.pop.toNat rfl <| place_hit tk.push.isLt l2)
    (field_eq <| peel 60 tk.pop.toNat rfl <| peel 52 tk.push.toNat rfl <| peel 40 21 rfl <| place_hit d.isLt l4)
    (field_eq <| peel 60 tk.pop.toNat rfl <| peel 52 tk.push.toNat rfl <| peel 40 21 rfl <| peel 35 d.toNat rfl <| place_hit a.isLt l5)⟩

theorem Encoding.popc (tk : Tok) (d a : BitVec 5) : Encoding.Statement (.popc tk d a) := by
  intro wd h
  have h0 : pack _ _ _ = wd := Option.some.inj h
  rw [pack_place] at h0; subst h0
  have l5 : place [] < 2 ^ 30 := Nat.two_pow_pos _
  have l4 := place_lt 35 a.isLt l5 rfl
  have l3 := place_lt 40 d.isLt l4 rfl
  have l2 := place_lt 52 (show 22 < 2 ^ 8 by decide) l3 rfl
  have l1 := place_lt 60 tk.push.isLt l2 rfl
  have l0 := place_lt 64 tk.pop.isLt l1 rfl
  have key : ∀ wd, nfield wd 45 3 = 0 → nfield wd 40 5 = 22 → field wd 60 4 = tk.pop → field wd 52 4 = tk.push → field wd 35 5 = d → field wd 30 5 = a → rawDecode wd = some (.popc tk d a) := by
    intro _ e0 e1 e2 e3 e4 e5; simp only [rawDecode, rawAlu, e0, e1, e2, e3, e4, e5]
  exact ⟨l0, key _ (peel 60 tk.pop.toNat rfl <| peel 52 tk.push.toNat rfl <| place_part 40 22 5 l3 rfl rfl)
    (peel 60 tk.pop.toNat rfl <| peel 52 tk.push.toNat rfl <| place_part 40 22 0 l3 rfl rfl)
    (field_eq <| place_hit tk.pop.isLt l1)
    (field_eq <| peel 60 tk.pop.toNat rfl <| place_hit tk.push.isLt l2)
    (field_eq <| peel 60 tk.pop.toNat rfl <| peel 52 tk.push.toNat rfl <| peel 40 22 rfl <| place_hit d.isLt l4)
    (field_eq <| peel 60 tk.pop.toNat rfl <| peel 52 tk.push.toNat rfl <| peel 40 22 rfl <| peel 35 d.toNat rfl <| place_hit a.isLt l5)⟩

theorem Encoding.cmp (tk : Tok) (d a b : BitVec 5) (cond : BitVec 3) : Encoding.Statement (.cmp tk d a b cond) := by
  intro wd h
  have h0 : pack _ _ _ = wd := Option.some.inj h
  rw [pack_place] at h0; subst h0
  have l7 : place [] < 2 ^ 0 := Nat.two_pow_pos _
  have l6 := place_lt 25 cond.isLt l7 rfl
  have l5 := place_lt 30 b.isLt l6 rfl
  have l4 := place_lt 35 a.isLt l5 rfl
  have l3 := place_lt 40 d.isLt l4 rfl
  have l2 := place_lt 52 (show 23 < 2 ^ 8 by decide) l3 rfl
  have l1 := place_lt 60 tk.push.isLt l2 rfl
  have l0 := place_lt 64 tk.pop.isLt l1 rfl
  have key : ∀ wd, nfield wd 45 3 = 0 → nfield wd 40 5 = 23 → field wd 60 4 = tk.pop → field wd 52 4 = tk.push → field wd 35 5 = d → field wd 30 5 = a → field wd 25 5 = b → field wd 0 3 = cond → rawDecode wd = some (.cmp tk d a b cond) := by
    intro _ e0 e1 e2 e3 e4 e5 e6 e7; simp only [rawDecode, rawAlu, e0, e1, e2, e3, e4, e5, e6, e7]
  exact ⟨l0, key _ (peel 60 tk.pop.toNat rfl <| peel 52 tk.push.toNat rfl <| place_part 40 23 5 l3 rfl rfl)
    (peel 60 tk.pop.toNat rfl <| peel 52 tk.push.toNat rfl <| place_part 40 23 0 l3 rfl rfl)
    (field_eq <| place_hit tk.pop.isLt l1)
    (field_eq <| peel 60 tk.pop.toNat rfl <| place_hit tk.push.isLt l2)
    (field_eq <| peel 60 tk.pop.toNat rfl <| peel 52 tk.push.toNat rfl <| peel 40 23 rfl <| place_hit d.isLt l4)
    (field_eq <| peel 60 tk.pop.toNat rfl <| peel 52 tk.push.toNat rfl <| peel 40 23 rfl <| peel 35 d.toNat rfl <| place_hit a.isLt l5)
    (field_eq <| peel 60 tk.pop.toNat rfl <| peel 52 tk.push.toNat rfl <| peel 40 23 rfl <| peel 35 d.toNat rfl <| peel 30 a.toNat rfl <| place_hit b.isLt l6)
    (field_eq <| peel 60 tk.pop.toNat rfl <| peel 52 tk.push.toNat rfl <| peel 40 23 rfl <| peel 35 d.toNat rfl <| peel 30 a.toNat rfl <| peel 25 b.toNat rfl <| place_hit cond.isLt l7)⟩

theorem Encoding.sel (tk : Tok) (d a b c : BitVec 5) : Encoding.Statement (.sel tk d a b c) := by
  intro wd h
  have h0 : pack _ _ _ = wd := Option.some.inj h
  rw [pack_place] at h0; subst h0
  have l7 : place [] < 2 ^ 20 := Nat.two_pow_pos _
  have l6 := place_lt 25 c.isLt l7 rfl
  have l5 := place_lt 30 b.isLt l6 rfl
  have l4 := place_lt 35 a.isLt l5 rfl
  have l3 := place_lt 40 d.isLt l4 rfl
  have l2 := place_lt 52 (show 24 < 2 ^ 8 by decide) l3 rfl
  have l1 := place_lt 60 tk.push.isLt l2 rfl
  have l0 := place_lt 64 tk.pop.isLt l1 rfl
  have key : ∀ wd, nfield wd 45 3 = 0 → nfield wd 40 5 = 24 → field wd 60 4 = tk.pop → field wd 52 4 = tk.push → field wd 35 5 = d → field wd 30 5 = a → field wd 25 5 = b → field wd 20 5 = c → rawDecode wd = some (.sel tk d a b c) := by
    intro _ e0 e1 e2 e3 e4 e5 e6 e7; simp only [rawDecode, rawAlu, e0, e1, e2, e3, e4, e5, e6, e7]
  exact ⟨l0, key _ (peel 60 tk.pop.toNat rfl <| peel 52 tk.push.toNat rfl <| place_part 40 24 5 l3 rfl rfl)
    (peel 60 tk.pop.toNat rfl <| peel 52 tk.push.toNat rfl <| place_part 40 24 0 l3 rfl rfl)
    (field_eq <| place_hit tk.pop.isLt l1)
    (field_eq <| peel 60 tk.pop.toNat rfl <| place_hit tk.push.isLt l2)
    (field_eq <| peel 60 tk.pop.toNat rfl <| peel 52 tk.push.toNat rfl <| peel 40 24 rfl <| place_hit d.isLt l4)
    (field_eq <| peel 60 tk.pop.toNat rfl <| peel 52 tk.push.toNat rfl <| peel 40 24 rfl <| peel 35 d.toNat rfl <| place_hit a.isLt l5)
    (field_eq <| peel 60 tk.pop.toNat rfl <| peel 52 tk.push.toNat rfl <| peel 40 24 rfl <| peel 35 d.toNat rfl <| peel 30 a.toNat rfl <| place_hit b.isLt l6)
    (field_eq <| peel 60 tk.pop.toNat rfl <| peel 52 tk.push.toNat rfl <| peel 40 24 rfl <| peel 35 d.toNat rfl <| peel 30 a.toNat rfl <| peel 25 b.toNat rfl <| place_hit c.isLt l7)⟩

theorem Encoding.addx (tk : Tok) (d a b : BitVec 5) (sc : BitVec 3) : Encoding.Statement (.addx tk d a b sc) := by
  intro wd h
  have h0 : pack _ _ _ = wd := Option.some.inj h
  rw [pack_place] at h0; subst h0
  have l7 : place [] < 2 ^ 0 := Nat.two_pow_pos _
  have l6 := place_lt 25 sc.isLt l7 rfl
  have l5 := place_lt 30 b.isLt l6 rfl
  have l4 := place_lt 35 a.isLt l5 rfl
  have l3 := place_lt 40 d.isLt l4 rfl
  have l2 := place_lt 52 (show 25 < 2 ^ 8 by decide) l3 rfl
  have l1 := place_lt 60 tk.push.isLt l2 rfl
  have l0 := place_lt 64 tk.pop.isLt l1 rfl
  have key : ∀ wd, nfield wd 45 3 = 0 → nfield wd 40 5 = 25 → field wd 60 4 = tk.pop → field wd 52 4 = tk.push → field wd 35 5 = d → field wd 30 5 = a → field wd 25 5 = b → field wd 0 3 = sc → rawDecode wd = some (.addx tk d a b sc) := by
    intro _ e0 e1 e2 e3 e4 e5 e6 e7; simp only [rawDecode, rawAlu, e0, e1, e2, e3, e4, e5, e6, e7]
  exact ⟨l0, key _ (peel 60 tk.pop.toNat rfl <| peel 52 tk.push.toNat rfl <| place_part 40 25 5 l3 rfl rfl)
    (peel 60 tk.pop.toNat rfl <| peel 52 tk.push.toNat rfl <| place_part 40 25 0 l3 rfl rfl)
    (field_eq <| place_hit tk.pop.isLt l1)
    (field_eq <| peel 60 tk.pop.toNat rfl <| place_hit tk.push.isLt l2)
    (field_eq <| peel 60 tk.pop.toNat rfl <| peel 52 tk.push.toNat rfl <| peel 40 25 rfl <| place_hit d.isLt l4)
    (field_eq <| peel 60 tk.pop.toNat rfl <| peel 52 tk.push.toNat rfl <| peel 40 25 rfl <| peel 35 d.toNat rfl <| place_hit a.isLt l5)
    (field_eq <| peel 60 tk.pop.toNat rfl <| peel 52 tk.push.toNat rfl <| peel 40 25 rfl <| peel 35 d.toNat rfl <| peel 30 a.toNat rfl <| place_hit b.isLt l6)
    (field_eq <| peel 60 tk.pop.toNat rfl <| peel 52 tk.push.toNat rfl <| peel 40 25 rfl <| peel 35 d.toNat rfl <| peel 30 a.toNat rfl <| peel 25 b.toNat rfl <| place_hit sc.isLt l7)⟩

theorem Encoding.bfx (tk : Tok) (d a : BitVec 5) (sx : BitVec 1) (pos wid : BitVec 6) : Encoding.Statement (.bfx tk d a sx pos wid) := by
  intro wd h
  have h0 : pack _ _ _ = wd := Option.some.inj h
  rw [pack_place] at h0; subst h0
  have l8 : place [] < 2 ^ 0 := Nat.two_pow_pos _
  have l7 := place_lt 6 wid.isLt l8 rfl
  have l6 := place_lt 12 pos.isLt l7 rfl
  have l5 := place_lt 30 sx.isLt l6 rfl
  have l4 := place_lt 35 a.isLt l5 rfl
  have l3 := place_lt 40 d.isLt l4 rfl
  have l2 := place_lt 52 (show 26 < 2 ^ 8 by decide) l3 rfl
  have l1 := place_lt 60 tk.push.isLt l2 rfl
  have l0 := place_lt 64 tk.pop.isLt l1 rfl
  have key : ∀ wd, nfield wd 45 3 = 0 → nfield wd 40 5 = 26 → field wd 60 4 = tk.pop → field wd 52 4 = tk.push → field wd 35 5 = d → field wd 30 5 = a → field wd 12 1 = sx → field wd 6 6 = pos → field wd 0 6 = wid → rawDecode wd = some (.bfx tk d a sx pos wid) := by
    intro _ e0 e1 e2 e3 e4 e5 e6 e7 e8; simp only [rawDecode, rawAlu, e0, e1, e2, e3, e4, e5, e6, e7, e8]
  exact ⟨l0, key _ (peel 60 tk.pop.toNat rfl <| peel 52 tk.push.toNat rfl <| place_part 40 26 5 l3 rfl rfl)
    (peel 60 tk.pop.toNat rfl <| peel 52 tk.push.toNat rfl <| place_part 40 26 0 l3 rfl rfl)
    (field_eq <| place_hit tk.pop.isLt l1)
    (field_eq <| peel 60 tk.pop.toNat rfl <| place_hit tk.push.isLt l2)
    (field_eq <| peel 60 tk.pop.toNat rfl <| peel 52 tk.push.toNat rfl <| peel 40 26 rfl <| place_hit d.isLt l4)
    (field_eq <| peel 60 tk.pop.toNat rfl <| peel 52 tk.push.toNat rfl <| peel 40 26 rfl <| peel 35 d.toNat rfl <| place_hit a.isLt l5)
    (field_eq <| peel 60 tk.pop.toNat rfl <| peel 52 tk.push.toNat rfl <| peel 40 26 rfl <| peel 35 d.toNat rfl <| peel 30 a.toNat rfl <| place_hit sx.isLt l6)
    (field_eq <| peel 60 tk.pop.toNat rfl <| peel 52 tk.push.toNat rfl <| peel 40 26 rfl <| peel 35 d.toNat rfl <| peel 30 a.toNat rfl <| peel 12 sx.toNat rfl <| place_hit pos.isLt l7)
    (field_eq <| peel 60 tk.pop.toNat rfl <| peel 52 tk.push.toNat rfl <| peel 40 26 rfl <| peel 35 d.toNat rfl <| peel 30 a.toNat rfl <| peel 12 sx.toNat rfl <| peel 6 pos.toNat rfl <| place_hit wid.isLt l8)⟩

theorem Encoding.bfi (tk : Tok) (d a : BitVec 5) (pos wid : BitVec 6) : Encoding.Statement (.bfi tk d a pos wid) := by
  intro wd h
  have h0 : pack _ _ _ = wd := Option.some.inj h
  rw [pack_place] at h0; subst h0
  have l7 : place [] < 2 ^ 0 := Nat.two_pow_pos _
  have l6 := place_lt 6 wid.isLt l7 rfl
  have l5 := place_lt 30 pos.isLt l6 rfl
  have l4 := place_lt 35 a.isLt l5 rfl
  have l3 := place_lt 40 d.isLt l4 rfl
  have l2 := place_lt 52 (show 27 < 2 ^ 8 by decide) l3 rfl
  have l1 := place_lt 60 tk.push.isLt l2 rfl
  have l0 := place_lt 64 tk.pop.isLt l1 rfl
  have key : ∀ wd, nfield wd 45 3 = 0 → nfield wd 40 5 = 27 → field wd 60 4 = tk.pop → field wd 52 4 = tk.push → field wd 35 5 = d → field wd 30 5 = a → field wd 6 6 = pos → field wd 0 6 = wid → rawDecode wd = some (.bfi tk d a pos wid) := by
    intro _ e0 e1 e2 e3 e4 e5 e6 e7; simp only [rawDecode, rawAlu, e0, e1, e2, e3, e4, e5, e6, e7]
  exact ⟨l0, key _ (peel 60 tk.pop.toNat rfl <| peel 52 tk.push.toNat rfl <| place_part 40 27 5 l3 rfl rfl)
    (peel 60 tk.pop.toNat rfl <| peel 52 tk.push.toNat rfl <| place_part 40 27 0 l3 rfl rfl)
    (field_eq <| place_hit tk.pop.isLt l1)
    (field_eq <| peel 60 tk.pop.toNat rfl <| place_hit tk.push.isLt l2)
    (field_eq <| peel 60 tk.pop.toNat rfl <| peel 52 tk.push.toNat rfl <| peel 40 27 rfl <| place_hit d.isLt l4)
    (field_eq <| peel 60 tk.pop.toNat rfl <| peel 52 tk.push.toNat rfl <| peel 40 27 rfl <| peel 35 d.toNat rfl <| place_hit a.isLt l5)
    (field_eq <| peel 60 tk.pop.toNat rfl <| peel 52 tk.push.toNat rfl <| peel 40 27 rfl <| peel 35 d.toNat rfl <| peel 30 a.toNat rfl <| place_hit pos.isLt l6)
    (field_eq <| peel 60 tk.pop.toNat rfl <| peel 52 tk.push.toNat rfl <| peel 40 27 rfl <| peel 35 d.toNat rfl <| peel 30 a.toNat rfl <| peel 6 pos.toNat rfl <| place_hit wid.isLt l7)⟩

theorem Encoding.addi (tk : Tok) (d a : BitVec 5) (imm : BitVec 30) : Encoding.Statement (.addi tk d a imm) := by
  intro wd h
  have h0 : pack _ _ _ = wd := Option.some.inj h
  rw [pack_place] at h0; subst h0
  have l6 : place [] < 2 ^ 0 := Nat.two_pow_pos _
  have l5 := place_lt 30 imm.isLt l6 rfl
  have l4 := place_lt 35 a.isLt l5 rfl
  have l3 := place_lt 40 d.isLt l4 rfl
  have l2 := place_lt 52 (show 28 < 2 ^ 8 by decide) l3 rfl
  have l1 := place_lt 60 tk.push.isLt l2 rfl
  have l0 := place_lt 64 tk.pop.isLt l1 rfl
  have key : ∀ wd, nfield wd 45 3 = 0 → nfield wd 40 5 = 28 → field wd 60 4 = tk.pop → field wd 52 4 = tk.push → field wd 35 5 = d → field wd 30 5 = a → field wd 0 30 = imm → rawDecode wd = some (.addi tk d a imm) := by
    intro _ e0 e1 e2 e3 e4 e5 e6; simp only [rawDecode, rawAlu, e0, e1, e2, e3, e4, e5, e6]
  exact ⟨l0, key _ (peel 60 tk.pop.toNat rfl <| peel 52 tk.push.toNat rfl <| place_part 40 28 5 l3 rfl rfl)
    (peel 60 tk.pop.toNat rfl <| peel 52 tk.push.toNat rfl <| place_part 40 28 0 l3 rfl rfl)
    (field_eq <| place_hit tk.pop.isLt l1)
    (field_eq <| peel 60 tk.pop.toNat rfl <| place_hit tk.push.isLt l2)
    (field_eq <| peel 60 tk.pop.toNat rfl <| peel 52 tk.push.toNat rfl <| peel 40 28 rfl <| place_hit d.isLt l4)
    (field_eq <| peel 60 tk.pop.toNat rfl <| peel 52 tk.push.toNat rfl <| peel 40 28 rfl <| peel 35 d.toNat rfl <| place_hit a.isLt l5)
    (field_eq <| peel 60 tk.pop.toNat rfl <| peel 52 tk.push.toNat rfl <| peel 40 28 rfl <| peel 35 d.toNat rfl <| peel 30 a.toNat rfl <| place_hit imm.isLt l6)⟩

theorem Encoding.andi (tk : Tok) (d a : BitVec 5) (imm : BitVec 28) : Encoding.Statement (.andi tk d a imm) := by
  intro wd h
  have h0 : pack _ _ _ = wd := Option.some.inj h
  rw [pack_place] at h0; subst h0
  have l6 : place [] < 2 ^ 0 := Nat.two_pow_pos _
  have l5 := place_lt 30 imm.isLt l6 rfl
  have l4 := place_lt 35 a.isLt l5 rfl
  have l3 := place_lt 40 d.isLt l4 rfl
  have l2 := place_lt 52 (show 29 < 2 ^ 8 by decide) l3 rfl
  have l1 := place_lt 60 tk.push.isLt l2 rfl
  have l0 := place_lt 64 tk.pop.isLt l1 rfl
  have key : ∀ wd, nfield wd 45 3 = 0 → nfield wd 40 5 = 29 → field wd 60 4 = tk.pop → field wd 52 4 = tk.push → field wd 35 5 = d → field wd 30 5 = a → field wd 0 28 = imm → field wd 28 2 = 0#2 → rawDecode wd = some (.andi tk d a imm) := by
    intro _ e0 e1 e2 e3 e4 e5 e6 e7; simp only [rawDecode, rawAlu, e0, e1, e2, e3, e4, e5, e6, e7]; rfl
  exact ⟨l0, key _ (peel 60 tk.pop.toNat rfl <| peel 52 tk.push.toNat rfl <| place_part 40 29 5 l3 rfl rfl)
    (peel 60 tk.pop.toNat rfl <| peel 52 tk.push.toNat rfl <| place_part 40 29 0 l3 rfl rfl)
    (field_eq <| place_hit tk.pop.isLt l1)
    (field_eq <| peel 60 tk.pop.toNat rfl <| place_hit tk.push.isLt l2)
    (field_eq <| peel 60 tk.pop.toNat rfl <| peel 52 tk.push.toNat rfl <| peel 40 29 rfl <| place_hit d.isLt l4)
    (field_eq <| peel 60 tk.pop.toNat rfl <| peel 52 tk.push.toNat rfl <| peel 40 29 rfl <| peel 35 d.toNat rfl <| place_hit a.isLt l5)
    (field_eq <| peel 60 tk.pop.toNat rfl <| peel 52 tk.push.toNat rfl <| peel 40 29 rfl <| peel 35 d.toNat rfl <| peel 30 a.toNat rfl <| place_hit imm.isLt l6)
    (field_eq <| peel 60 tk.pop.toNat rfl <| peel 52 tk.push.toNat rfl <| peel 40 29 rfl <| peel 35 d.toNat rfl <| peel 30 a.toNat rfl <| place_zero (place_lt 28 imm.isLt l6 rfl))⟩

theorem Encoding.ori (tk : Tok) (d a : BitVec 5) (imm : BitVec 28) : Encoding.Statement (.ori tk d a imm) := by
  intro wd h
  have h0 : pack _ _ _ = wd := Option.some.inj h
  rw [pack_place] at h0; subst h0
  have l7 : place [] < 2 ^ 0 := Nat.two_pow_pos _
  have l6 := place_lt 28 imm.isLt l7 rfl
  have l5 := place_lt 30 (show 1 < 2 ^ 2 by decide) l6 rfl
  have l4 := place_lt 35 a.isLt l5 rfl
  have l3 := place_lt 40 d.isLt l4 rfl
  have l2 := place_lt 52 (show 29 < 2 ^ 8 by decide) l3 rfl
  have l1 := place_lt 60 tk.push.isLt l2 rfl
  have l0 := place_lt 64 tk.pop.isLt l1 rfl
  have key : ∀ wd, nfield wd 45 3 = 0 → nfield wd 40 5 = 29 → field wd 60 4 = tk.pop → field wd 52 4 = tk.push → field wd 35 5 = d → field wd 30 5 = a → field wd 28 2 = 1#2 → field wd 0 28 = imm → rawDecode wd = some (.ori tk d a imm) := by
    intro _ e0 e1 e2 e3 e4 e5 e6 e7; simp only [rawDecode, rawAlu, e0, e1, e2, e3, e4, e5, e6, e7]; rfl
  exact ⟨l0, key _ (peel 60 tk.pop.toNat rfl <| peel 52 tk.push.toNat rfl <| place_part 40 29 5 l3 rfl rfl)
    (peel 60 tk.pop.toNat rfl <| peel 52 tk.push.toNat rfl <| place_part 40 29 0 l3 rfl rfl)
    (field_eq <| place_hit tk.pop.isLt l1)
    (field_eq <| peel 60 tk.pop.toNat rfl <| place_hit tk.push.isLt l2)
    (field_eq <| peel 60 tk.pop.toNat rfl <| peel 52 tk.push.toNat rfl <| peel 40 29 rfl <| place_hit d.isLt l4)
    (field_eq <| peel 60 tk.pop.toNat rfl <| peel 52 tk.push.toNat rfl <| peel 40 29 rfl <| peel 35 d.toNat rfl <| place_hit a.isLt l5)
    (field_eq <| peel 60 tk.pop.toNat rfl <| peel 52 tk.push.toNat rfl <| peel 40 29 rfl <| peel 35 d.toNat rfl <| peel 30 a.toNat rfl <| place_hit (v := 1) (show 1 < 2 ^ 2 by decide) l6)
    (field_eq <| peel 60 tk.pop.toNat rfl <| peel 52 tk.push.toNat rfl <| peel 40 29 rfl <| peel 35 d.toNat rfl <| peel 30 a.toNat rfl <| peel 28 1 rfl <| place_hit imm.isLt l7)⟩

theorem Encoding.xori (tk : Tok) (d a : BitVec 5) (imm : BitVec 28) : Encoding.Statement (.xori tk d a imm) := by
  intro wd h
  have h0 : pack _ _ _ = wd := Option.some.inj h
  rw [pack_place] at h0; subst h0
  have l7 : place [] < 2 ^ 0 := Nat.two_pow_pos _
  have l6 := place_lt 28 imm.isLt l7 rfl
  have l5 := place_lt 30 (show 2 < 2 ^ 2 by decide) l6 rfl
  have l4 := place_lt 35 a.isLt l5 rfl
  have l3 := place_lt 40 d.isLt l4 rfl
  have l2 := place_lt 52 (show 29 < 2 ^ 8 by decide) l3 rfl
  have l1 := place_lt 60 tk.push.isLt l2 rfl
  have l0 := place_lt 64 tk.pop.isLt l1 rfl
  have key : ∀ wd, nfield wd 45 3 = 0 → nfield wd 40 5 = 29 → field wd 60 4 = tk.pop → field wd 52 4 = tk.push → field wd 35 5 = d → field wd 30 5 = a → field wd 28 2 = 2#2 → field wd 0 28 = imm → rawDecode wd = some (.xori tk d a imm) := by
    intro _ e0 e1 e2 e3 e4 e5 e6 e7; simp only [rawDecode, rawAlu, e0, e1, e2, e3, e4, e5, e6, e7]; rfl
  exact ⟨l0, key _ (peel 60 tk.pop.toNat rfl <| peel 52 tk.push.toNat rfl <| place_part 40 29 5 l3 rfl rfl)
    (peel 60 tk.pop.toNat rfl <| peel 52 tk.push.toNat rfl <| place_part 40 29 0 l3 rfl rfl)
    (field_eq <| place_hit tk.pop.isLt l1)
    (field_eq <| peel 60 tk.pop.toNat rfl <| place_hit tk.push.isLt l2)
    (field_eq <| peel 60 tk.pop.toNat rfl <| peel 52 tk.push.toNat rfl <| peel 40 29 rfl <| place_hit d.isLt l4)
    (field_eq <| peel 60 tk.pop.toNat rfl <| peel 52 tk.push.toNat rfl <| peel 40 29 rfl <| peel 35 d.toNat rfl <| place_hit a.isLt l5)
    (field_eq <| peel 60 tk.pop.toNat rfl <| peel 52 tk.push.toNat rfl <| peel 40 29 rfl <| peel 35 d.toNat rfl <| peel 30 a.toNat rfl <| place_hit (v := 2) (show 2 < 2 ^ 2 by decide) l6)
    (field_eq <| peel 60 tk.pop.toNat rfl <| peel 52 tk.push.toNat rfl <| peel 40 29 rfl <| peel 35 d.toNat rfl <| peel 30 a.toNat rfl <| peel 28 2 rfl <| place_hit imm.isLt l7)⟩

theorem Encoding.shli (tk : Tok) (d a : BitVec 5) (sh : BitVec 6) : Encoding.Statement (.shli tk d a sh) := by
  intro wd h
  have h0 : pack _ _ _ = wd := Option.some.inj h
  rw [pack_place] at h0; subst h0
  have l6 : place [] < 2 ^ 0 := Nat.two_pow_pos _
  have l5 := place_lt 30 sh.isLt l6 rfl
  have l4 := place_lt 35 a.isLt l5 rfl
  have l3 := place_lt 40 d.isLt l4 rfl
  have l2 := place_lt 52 (show 30 < 2 ^ 8 by decide) l3 rfl
  have l1 := place_lt 60 tk.push.isLt l2 rfl
  have l0 := place_lt 64 tk.pop.isLt l1 rfl
  have key : ∀ wd, nfield wd 45 3 = 0 → nfield wd 40 5 = 30 → field wd 60 4 = tk.pop → field wd 52 4 = tk.push → field wd 35 5 = d → field wd 30 5 = a → field wd 0 6 = sh → field wd 28 2 = 0#2 → rawDecode wd = some (.shli tk d a sh) := by
    intro _ e0 e1 e2 e3 e4 e5 e6 e7; simp only [rawDecode, rawAlu, e0, e1, e2, e3, e4, e5, e6, e7]; rfl
  exact ⟨l0, key _ (peel 60 tk.pop.toNat rfl <| peel 52 tk.push.toNat rfl <| place_part 40 30 5 l3 rfl rfl)
    (peel 60 tk.pop.toNat rfl <| peel 52 tk.push.toNat rfl <| place_part 40 30 0 l3 rfl rfl)
    (field_eq <| place_hit tk.pop.isLt l1)
    (field_eq <| peel 60 tk.pop.toNat rfl <| place_hit tk.push.isLt l2)
    (field_eq <| peel 60 tk.pop.toNat rfl <| peel 52 tk.push.toNat rfl <| peel 40 30 rfl <| place_hit d.isLt l4)
    (field_eq <| peel 60 tk.pop.toNat rfl <| peel 52 tk.push.toNat rfl <| peel 40 30 rfl <| peel 35 d.toNat rfl <| place_hit a.isLt l5)
    (field_eq <| peel 60 tk.pop.toNat rfl <| peel 52 tk.push.toNat rfl <| peel 40 30 rfl <| peel 35 d.toNat rfl <| peel 30 a.toNat rfl <| place_hit sh.isLt l6)
    (field_eq <| peel 60 tk.pop.toNat rfl <| peel 52 tk.push.toNat rfl <| peel 40 30 rfl <| peel 35 d.toNat rfl <| peel 30 a.toNat rfl <| place_zero (place_lt 28 sh.isLt l6 rfl))⟩

theorem Encoding.shri (tk : Tok) (d a : BitVec 5) (sh : BitVec 6) : Encoding.Statement (.shri tk d a sh) := by
  intro wd h
  have h0 : pack _ _ _ = wd := Option.some.inj h
  rw [pack_place] at h0; subst h0
  have l7 : place [] < 2 ^ 0 := Nat.two_pow_pos _
  have l6 := place_lt 28 sh.isLt l7 rfl
  have l5 := place_lt 30 (show 1 < 2 ^ 2 by decide) l6 rfl
  have l4 := place_lt 35 a.isLt l5 rfl
  have l3 := place_lt 40 d.isLt l4 rfl
  have l2 := place_lt 52 (show 30 < 2 ^ 8 by decide) l3 rfl
  have l1 := place_lt 60 tk.push.isLt l2 rfl
  have l0 := place_lt 64 tk.pop.isLt l1 rfl
  have key : ∀ wd, nfield wd 45 3 = 0 → nfield wd 40 5 = 30 → field wd 60 4 = tk.pop → field wd 52 4 = tk.push → field wd 35 5 = d → field wd 30 5 = a → field wd 28 2 = 1#2 → field wd 0 6 = sh → rawDecode wd = some (.shri tk d a sh) := by
    intro _ e0 e1 e2 e3 e4 e5 e6 e7; simp only [rawDecode, rawAlu, e0, e1, e2, e3, e4, e5, e6, e7]; rfl
  exact ⟨l0, key _ (peel 60 tk.pop.toNat rfl <| peel 52 tk.push.toNat rfl <| place_part 40 30 5 l3 rfl rfl)
    (peel 60 tk.pop.toNat rfl <| peel 52 tk.push.toNat rfl <| place_part 40 30 0 l3 rfl rfl)
    (field_eq <| place_hit tk.pop.isLt l1)
    (field_eq <| peel 60 tk.pop.toNat rfl <| place_hit tk.push.isLt l2)
    (field_eq <| peel 60 tk.pop.toNat rfl <| peel 52 tk.push.toNat rfl <| peel 40 30 rfl <| place_hit d.isLt l4)
    (field_eq <| peel 60 tk.pop.toNat rfl <| peel 52 tk.push.toNat rfl <| peel 40 30 rfl <| peel 35 d.toNat rfl <| place_hit a.isLt l5)
    (field_eq <| peel 60 tk.pop.toNat rfl <| peel 52 tk.push.toNat rfl <| peel 40 30 rfl <| peel 35 d.toNat rfl <| peel 30 a.toNat rfl <| place_hit (v := 1) (show 1 < 2 ^ 2 by decide) l6)
    (field_eq <| peel 60 tk.pop.toNat rfl <| peel 52 tk.push.toNat rfl <| peel 40 30 rfl <| peel 35 d.toNat rfl <| peel 30 a.toNat rfl <| peel 28 1 rfl <| place_hit sh.isLt l7)⟩

theorem Encoding.srai (tk : Tok) (d a : BitVec 5) (sh : BitVec 6) : Encoding.Statement (.srai tk d a sh) := by
  intro wd h
  have h0 : pack _ _ _ = wd := Option.some.inj h
  rw [pack_place] at h0; subst h0
  have l7 : place [] < 2 ^ 0 := Nat.two_pow_pos _
  have l6 := place_lt 28 sh.isLt l7 rfl
  have l5 := place_lt 30 (show 2 < 2 ^ 2 by decide) l6 rfl
  have l4 := place_lt 35 a.isLt l5 rfl
  have l3 := place_lt 40 d.isLt l4 rfl
  have l2 := place_lt 52 (show 30 < 2 ^ 8 by decide) l3 rfl
  have l1 := place_lt 60 tk.push.isLt l2 rfl
  have l0 := place_lt 64 tk.pop.isLt l1 rfl
  have key : ∀ wd, nfield wd 45 3 = 0 → nfield wd 40 5 = 30 → field wd 60 4 = tk.pop → field wd 52 4 = tk.push → field wd 35 5 = d → field wd 30 5 = a → field wd 28 2 = 2#2 → field wd 0 6 = sh → rawDecode wd = some (.srai tk d a sh) := by
    intro _ e0 e1 e2 e3 e4 e5 e6 e7; simp only [rawDecode, rawAlu, e0, e1, e2, e3, e4, e5, e6, e7]; rfl
  exact ⟨l0, key _ (peel 60 tk.pop.toNat rfl <| peel 52 tk.push.toNat rfl <| place_part 40 30 5 l3 rfl rfl)
    (peel 60 tk.pop.toNat rfl <| peel 52 tk.push.toNat rfl <| place_part 40 30 0 l3 rfl rfl)
    (field_eq <| place_hit tk.pop.isLt l1)
    (field_eq <| peel 60 tk.pop.toNat rfl <| place_hit tk.push.isLt l2)
    (field_eq <| peel 60 tk.pop.toNat rfl <| peel 52 tk.push.toNat rfl <| peel 40 30 rfl <| place_hit d.isLt l4)
    (field_eq <| peel 60 tk.pop.toNat rfl <| peel 52 tk.push.toNat rfl <| peel 40 30 rfl <| peel 35 d.toNat rfl <| place_hit a.isLt l5)
    (field_eq <| peel 60 tk.pop.toNat rfl <| peel 52 tk.push.toNat rfl <| peel 40 30 rfl <| peel 35 d.toNat rfl <| peel 30 a.toNat rfl <| place_hit (v := 2) (show 2 < 2 ^ 2 by decide) l6)
    (field_eq <| peel 60 tk.pop.toNat rfl <| peel 52 tk.push.toNat rfl <| peel 40 30 rfl <| peel 35 d.toNat rfl <| peel 30 a.toNat rfl <| peel 28 2 rfl <| place_hit sh.isLt l7)⟩

theorem Encoding.roti (tk : Tok) (d a : BitVec 5) (sh : BitVec 6) : Encoding.Statement (.roti tk d a sh) := by
  intro wd h
  have h0 : pack _ _ _ = wd := Option.some.inj h
  rw [pack_place] at h0; subst h0
  have l7 : place [] < 2 ^ 0 := Nat.two_pow_pos _
  have l6 := place_lt 28 sh.isLt l7 rfl
  have l5 := place_lt 30 (show 3 < 2 ^ 2 by decide) l6 rfl
  have l4 := place_lt 35 a.isLt l5 rfl
  have l3 := place_lt 40 d.isLt l4 rfl
  have l2 := place_lt 52 (show 30 < 2 ^ 8 by decide) l3 rfl
  have l1 := place_lt 60 tk.push.isLt l2 rfl
  have l0 := place_lt 64 tk.pop.isLt l1 rfl
  have key : ∀ wd, nfield wd 45 3 = 0 → nfield wd 40 5 = 30 → field wd 60 4 = tk.pop → field wd 52 4 = tk.push → field wd 35 5 = d → field wd 30 5 = a → field wd 28 2 = 3#2 → field wd 0 6 = sh → rawDecode wd = some (.roti tk d a sh) := by
    intro _ e0 e1 e2 e3 e4 e5 e6 e7; simp only [rawDecode, rawAlu, e0, e1, e2, e3, e4, e5, e6, e7]; rfl
  exact ⟨l0, key _ (peel 60 tk.pop.toNat rfl <| peel 52 tk.push.toNat rfl <| place_part 40 30 5 l3 rfl rfl)
    (peel 60 tk.pop.toNat rfl <| peel 52 tk.push.toNat rfl <| place_part 40 30 0 l3 rfl rfl)
    (field_eq <| place_hit tk.pop.isLt l1)
    (field_eq <| peel 60 tk.pop.toNat rfl <| place_hit tk.push.isLt l2)
    (field_eq <| peel 60 tk.pop.toNat rfl <| peel 52 tk.push.toNat rfl <| peel 40 30 rfl <| place_hit d.isLt l4)
    (field_eq <| peel 60 tk.pop.toNat rfl <| peel 52 tk.push.toNat rfl <| peel 40 30 rfl <| peel 35 d.toNat rfl <| place_hit a.isLt l5)
    (field_eq <| peel 60 tk.pop.toNat rfl <| peel 52 tk.push.toNat rfl <| peel 40 30 rfl <| peel 35 d.toNat rfl <| peel 30 a.toNat rfl <| place_hit (v := 3) (show 3 < 2 ^ 2 by decide) l6)
    (field_eq <| peel 60 tk.pop.toNat rfl <| peel 52 tk.push.toNat rfl <| peel 40 30 rfl <| peel 35 d.toNat rfl <| peel 30 a.toNat rfl <| peel 28 3 rfl <| place_hit sh.isLt l7)⟩

theorem Encoding.movhi (tk : Tok) (d : BitVec 5) (imm : BitVec 30) : Encoding.Statement (.movhi tk d imm) := by
  intro wd h
  have h0 : pack _ _ _ = wd := Option.some.inj h
  rw [pack_place] at h0; subst h0
  have l5 : place [] < 2 ^ 0 := Nat.two_pow_pos _
  have l4 := place_lt 35 imm.isLt l5 rfl
  have l3 := place_lt 40 d.isLt l4 rfl
  have l2 := place_lt 52 (show 31 < 2 ^ 8 by decide) l3 rfl
  have l1 := place_lt 60 tk.push.isLt l2 rfl
  have l0 := place_lt 64 tk.pop.isLt l1 rfl
  have key : ∀ wd, nfield wd 45 3 = 0 → nfield wd 40 5 = 31 → field wd 60 4 = tk.pop → field wd 52 4 = tk.push → field wd 35 5 = d → field wd 0 30 = imm → rawDecode wd = some (.movhi tk d imm) := by
    intro _ e0 e1 e2 e3 e4 e5; simp only [rawDecode, rawAlu, e0, e1, e2, e3, e4, e5]
  exact ⟨l0, key _ (peel 60 tk.pop.toNat rfl <| peel 52 tk.push.toNat rfl <| place_part 40 31 5 l3 rfl rfl)
    (peel 60 tk.pop.toNat rfl <| peel 52 tk.push.toNat rfl <| place_part 40 31 0 l3 rfl rfl)
    (field_eq <| place_hit tk.pop.isLt l1)
    (field_eq <| peel 60 tk.pop.toNat rfl <| place_hit tk.push.isLt l2)
    (field_eq <| peel 60 tk.pop.toNat rfl <| peel 52 tk.push.toNat rfl <| peel 40 31 rfl <| place_hit d.isLt l4)
    (field_eq <| peel 60 tk.pop.toNat rfl <| peel 52 tk.push.toNat rfl <| peel 40 31 rfl <| peel 35 d.toNat rfl <| place_hit imm.isLt l5)⟩

theorem Encoding.br (tk : Tok) (a b : BitVec 5) (cc : BitVec 4) (off : BitVec 26) : Encoding.Statement (.br tk a b cc off) := by
  intro wd h
  have h0 : pack _ _ _ = wd := Option.some.inj h
  rw [pack_place] at h0; subst h0
  have l7 : place [] < 2 ^ 0 := Nat.two_pow_pos _
  have l6 := place_lt 26 off.isLt l7 rfl
  have l5 := place_lt 30 cc.isLt l6 rfl
  have l4 := place_lt 35 b.isLt l5 rfl
  have l3 := place_lt 40 a.isLt l4 rfl
  have l2 := place_lt 52 (show 32 < 2 ^ 8 by decide) l3 rfl
  have l1 := place_lt 60 tk.push.isLt l2 rfl
  have l0 := place_lt 64 tk.pop.isLt l1 rfl
  have key : ∀ wd, nfield wd 45 3 = 1 → nfield wd 40 5 = 0 → field wd 60 4 = tk.pop → field wd 52 4 = tk.push → field wd 35 5 = a → field wd 30 5 = b → field wd 26 4 = cc → field wd 0 26 = off → rawDecode wd = some (.br tk a b cc off) := by
    intro _ e0 e1 e2 e3 e4 e5 e6 e7; simp only [rawDecode, rawCtl, e0, e1, e2, e3, e4, e5, e6, e7]
  exact ⟨l0, key _ (peel 60 tk.pop.toNat rfl <| peel 52 tk.push.toNat rfl <| place_part 40 32 5 l3 rfl rfl)
    (peel 60 tk.pop.toNat rfl <| peel 52 tk.push.toNat rfl <| place_part 40 32 0 l3 rfl rfl)
    (field_eq <| place_hit tk.pop.isLt l1)
    (field_eq <| peel 60 tk.pop.toNat rfl <| place_hit tk.push.isLt l2)
    (field_eq <| peel 60 tk.pop.toNat rfl <| peel 52 tk.push.toNat rfl <| peel 40 32 rfl <| place_hit a.isLt l4)
    (field_eq <| peel 60 tk.pop.toNat rfl <| peel 52 tk.push.toNat rfl <| peel 40 32 rfl <| peel 35 a.toNat rfl <| place_hit b.isLt l5)
    (field_eq <| peel 60 tk.pop.toNat rfl <| peel 52 tk.push.toNat rfl <| peel 40 32 rfl <| peel 35 a.toNat rfl <| peel 30 b.toNat rfl <| place_hit cc.isLt l6)
    (field_eq <| peel 60 tk.pop.toNat rfl <| peel 52 tk.push.toNat rfl <| peel 40 32 rfl <| peel 35 a.toNat rfl <| peel 30 b.toNat rfl <| peel 26 cc.toNat rfl <| place_hit off.isLt l7)⟩

theorem Encoding.jmp (tk : Tok) (off : BitVec 26) : Encoding.Statement (.jmp tk off) := by
  intro wd h
  have h0 : pack _ _ _ = wd := Option.some.inj h
  rw [pack_place] at h0; subst h0
  have l4 : place [] < 2 ^ 0 := Nat.two_pow_pos _
  have l3 := place_lt 40 off.isLt l4 rfl
  have l2 := place_lt 52 (show 33 < 2 ^ 8 by decide) l3 rfl
  have l1 := place_lt 60 tk.push.isLt l2 rfl
  have l0 := place_lt 64 tk.pop.isLt l1 rfl
  have key : ∀ wd, nfield wd 45 3 = 1 → nfield wd 40 5 = 1 → field wd 60 4 = tk.pop → field wd 52 4 = tk.push → field wd 0 26 = off → rawDecode wd = some (.jmp tk off) := by
    intro _ e0 e1 e2 e3 e4; simp only [rawDecode, rawCtl, e0, e1, e2, e3, e4]
  exact ⟨l0, key _ (peel 60 tk.pop.toNat rfl <| peel 52 tk.push.toNat rfl <| place_part 40 33 5 l3 rfl rfl)
    (peel 60 tk.pop.toNat rfl <| peel 52 tk.push.toNat rfl <| place_part 40 33 0 l3 rfl rfl)
    (field_eq <| place_hit tk.pop.isLt l1)
    (field_eq <| peel 60 tk.pop.toNat rfl <| place_hit tk.push.isLt l2)
    (field_eq <| peel 60 tk.pop.toNat rfl <| peel 52 tk.push.toNat rfl <| peel 40 33 rfl <| place_hit off.isLt l4)⟩

theorem Encoding.call (tk : Tok) (off : BitVec 26) : Encoding.Statement (.call tk off) := by
  intro wd h
  have h0 : pack _ _ _ = wd := Option.some.inj h
  rw [pack_place] at h0; subst h0
  have l4 : place [] < 2 ^ 0 := Nat.two_pow_pos _
  have l3 := place_lt 40 off.isLt l4 rfl
  have l2 := place_lt 52 (show 34 < 2 ^ 8 by decide) l3 rfl
  have l1 := place_lt 60 tk.push.isLt l2 rfl
  have l0 := place_lt 64 tk.pop.isLt l1 rfl
  have key : ∀ wd, nfield wd 45 3 = 1 → nfield wd 40 5 = 2 → field wd 60 4 = tk.pop → field wd 52 4 = tk.push → field wd 0 26 = off → rawDecode wd = some (.call tk off) := by
    intro _ e0 e1 e2 e3 e4; simp only [rawDecode, rawCtl, e0, e1, e2, e3, e4]
  exact ⟨l0, key _ (peel 60 tk.pop.toNat rfl <| peel 52 tk.push.toNat rfl <| place_part 40 34 5 l3 rfl rfl)
    (peel 60 tk.pop.toNat rfl <| peel 52 tk.push.toNat rfl <| place_part 40 34 0 l3 rfl rfl)
    (field_eq <| place_hit tk.pop.isLt l1)
    (field_eq <| peel 60 tk.pop.toNat rfl <| place_hit tk.push.isLt l2)
    (field_eq <| peel 60 tk.pop.toNat rfl <| peel 52 tk.push.toNat rfl <| peel 40 34 rfl <| place_hit off.isLt l4)⟩

theorem Encoding.jr (tk : Tok) (d a : BitVec 5) : Encoding.Statement (.jr tk d a) := by
  intro wd h
  have h0 : pack _ _ _ = wd := Option.some.inj h
  rw [pack_place] at h0; subst h0
  have l5 : place [] < 2 ^ 30 := Nat.two_pow_pos _
  have l4 := place_lt 35 a.isLt l5 rfl
  have l3 := place_lt 40 d.isLt l4 rfl
  have l2 := place_lt 52 (show 35 < 2 ^ 8 by decide) l3 rfl
  have l1 := place_lt 60 tk.push.isLt l2 rfl
  have l0 := place_lt 64 tk.pop.isLt l1 rfl
  have key : ∀ wd, nfield wd 45 3 = 1 → nfield wd 40 5 = 3 → field wd 60 4 = tk.pop → field wd 52 4 = tk.push → field wd 35 5 = d → field wd 30 5 = a → rawDecode wd = some (.jr tk d a) := by
    intro _ e0 e1 e2 e3 e4 e5; simp only [rawDecode, rawCtl, e0, e1, e2, e3, e4, e5]
  exact ⟨l0, key _ (peel 60 tk.pop.toNat rfl <| peel 52 tk.push.toNat rfl <| place_part 40 35 5 l3 rfl rfl)
    (peel 60 tk.pop.toNat rfl <| peel 52 tk.push.toNat rfl <| place_part 40 35 0 l3 rfl rfl)
    (field_eq <| place_hit tk.pop.isLt l1)
    (field_eq <| peel 60 tk.pop.toNat rfl <| place_hit tk.push.isLt l2)
    (field_eq <| peel 60 tk.pop.toNat rfl <| peel 52 tk.push.toNat rfl <| peel 40 35 rfl <| place_hit d.isLt l4)
    (field_eq <| peel 60 tk.pop.toNat rfl <| peel 52 tk.push.toNat rfl <| peel 40 35 rfl <| peel 35 d.toNat rfl <| place_hit a.isLt l5)⟩

theorem Encoding.loop (tk : Tok) (lc : BitVec 5) (off : BitVec 26) : Encoding.Statement (.loop tk lc off) := by
  intro wd h
  have h0 : pack _ _ _ = wd := Option.some.inj h
  rw [pack_place] at h0; subst h0
  have l5 : place [] < 2 ^ 0 := Nat.two_pow_pos _
  have l4 := place_lt 35 off.isLt l5 rfl
  have l3 := place_lt 40 lc.isLt l4 rfl
  have l2 := place_lt 52 (show 36 < 2 ^ 8 by decide) l3 rfl
  have l1 := place_lt 60 tk.push.isLt l2 rfl
  have l0 := place_lt 64 tk.pop.isLt l1 rfl
  have key : ∀ wd, nfield wd 45 3 = 1 → nfield wd 40 5 = 4 → field wd 60 4 = tk.pop → field wd 52 4 = tk.push → field wd 35 5 = lc → field wd 0 26 = off → rawDecode wd = some (.loop tk lc off) := by
    intro _ e0 e1 e2 e3 e4 e5; simp only [rawDecode, rawCtl, e0, e1, e2, e3, e4, e5]
  exact ⟨l0, key _ (peel 60 tk.pop.toNat rfl <| peel 52 tk.push.toNat rfl <| place_part 40 36 5 l3 rfl rfl)
    (peel 60 tk.pop.toNat rfl <| peel 52 tk.push.toNat rfl <| place_part 40 36 0 l3 rfl rfl)
    (field_eq <| place_hit tk.pop.isLt l1)
    (field_eq <| peel 60 tk.pop.toNat rfl <| place_hit tk.push.isLt l2)
    (field_eq <| peel 60 tk.pop.toNat rfl <| peel 52 tk.push.toNat rfl <| peel 40 36 rfl <| place_hit lc.isLt l4)
    (field_eq <| peel 60 tk.pop.toNat rfl <| peel 52 tk.push.toNat rfl <| peel 40 36 rfl <| peel 35 lc.toNat rfl <| place_hit off.isLt l5)⟩

theorem Encoding.ld (tk : Tok) (d a b : BitVec 5) (size : BitVec 3) (off : BitVec 16) : Encoding.Statement (.ld tk d a b size off) := by
  intro wd h
  have h0 : pack _ _ _ = wd := Option.some.inj h
  rw [pack_place] at h0; subst h0
  have l8 : place [] < 2 ^ 0 := Nat.two_pow_pos _
  have l7 := place_lt 22 off.isLt l8 rfl
  have l6 := place_lt 25 size.isLt l7 rfl
  have l5 := place_lt 30 b.isLt l6 rfl
  have l4 := place_lt 35 a.isLt l5 rfl
  have l3 := place_lt 40 d.isLt l4 rfl
  have l2 := place_lt 52 (show 37 < 2 ^ 8 by decide) l3 rfl
  have l1 := place_lt 60 tk.push.isLt l2 rfl
  have l0 := place_lt 64 tk.pop.isLt l1 rfl
  have key : ∀ wd, nfield wd 45 3 = 1 → nfield wd 40 5 = 5 → field wd 60 4 = tk.pop → field wd 52 4 = tk.push → field wd 35 5 = d → field wd 30 5 = a → field wd 25 5 = b → field wd 22 3 = size → field wd 0 16 = off → rawDecode wd = some (.ld tk d a b size off) := by
    intro _ e0 e1 e2 e3 e4 e5 e6 e7 e8; simp only [rawDecode, rawCtl, e0, e1, e2, e3, e4, e5, e6, e7, e8]
  exact ⟨l0, key _ (peel 60 tk.pop.toNat rfl <| peel 52 tk.push.toNat rfl <| place_part 40 37 5 l3 rfl rfl)
    (peel 60 tk.pop.toNat rfl <| peel 52 tk.push.toNat rfl <| place_part 40 37 0 l3 rfl rfl)
    (field_eq <| place_hit tk.pop.isLt l1)
    (field_eq <| peel 60 tk.pop.toNat rfl <| place_hit tk.push.isLt l2)
    (field_eq <| peel 60 tk.pop.toNat rfl <| peel 52 tk.push.toNat rfl <| peel 40 37 rfl <| place_hit d.isLt l4)
    (field_eq <| peel 60 tk.pop.toNat rfl <| peel 52 tk.push.toNat rfl <| peel 40 37 rfl <| peel 35 d.toNat rfl <| place_hit a.isLt l5)
    (field_eq <| peel 60 tk.pop.toNat rfl <| peel 52 tk.push.toNat rfl <| peel 40 37 rfl <| peel 35 d.toNat rfl <| peel 30 a.toNat rfl <| place_hit b.isLt l6)
    (field_eq <| peel 60 tk.pop.toNat rfl <| peel 52 tk.push.toNat rfl <| peel 40 37 rfl <| peel 35 d.toNat rfl <| peel 30 a.toNat rfl <| peel 25 b.toNat rfl <| place_hit size.isLt l7)
    (field_eq <| peel 60 tk.pop.toNat rfl <| peel 52 tk.push.toNat rfl <| peel 40 37 rfl <| peel 35 d.toNat rfl <| peel 30 a.toNat rfl <| peel 25 b.toNat rfl <| peel 22 size.toNat rfl <| place_hit off.isLt l8)⟩

theorem Encoding.st (tk : Tok) (d a b : BitVec 5) (size : BitVec 3) (off : BitVec 16) : Encoding.Statement (.st tk d a b size off) := by
  intro wd h
  have h0 : pack _ _ _ = wd := Option.some.inj h
  rw [pack_place] at h0; subst h0
  have l8 : place [] < 2 ^ 0 := Nat.two_pow_pos _
  have l7 := place_lt 22 off.isLt l8 rfl
  have l6 := place_lt 25 size.isLt l7 rfl
  have l5 := place_lt 30 b.isLt l6 rfl
  have l4 := place_lt 35 a.isLt l5 rfl
  have l3 := place_lt 40 d.isLt l4 rfl
  have l2 := place_lt 52 (show 38 < 2 ^ 8 by decide) l3 rfl
  have l1 := place_lt 60 tk.push.isLt l2 rfl
  have l0 := place_lt 64 tk.pop.isLt l1 rfl
  have key : ∀ wd, nfield wd 45 3 = 1 → nfield wd 40 5 = 6 → field wd 60 4 = tk.pop → field wd 52 4 = tk.push → field wd 35 5 = d → field wd 30 5 = a → field wd 25 5 = b → field wd 22 3 = size → field wd 0 16 = off → rawDecode wd = some (.st tk d a b size off) := by
    intro _ e0 e1 e2 e3 e4 e5 e6 e7 e8; simp only [rawDecode, rawCtl, e0, e1, e2, e3, e4, e5, e6, e7, e8]
  exact ⟨l0, key _ (peel 60 tk.pop.toNat rfl <| peel 52 tk.push.toNat rfl <| place_part 40 38 5 l3 rfl rfl)
    (peel 60 tk.pop.toNat rfl <| peel 52 tk.push.toNat rfl <| place_part 40 38 0 l3 rfl rfl)
    (field_eq <| place_hit tk.pop.isLt l1)
    (field_eq <| peel 60 tk.pop.toNat rfl <| place_hit tk.push.isLt l2)
    (field_eq <| peel 60 tk.pop.toNat rfl <| peel 52 tk.push.toNat rfl <| peel 40 38 rfl <| place_hit d.isLt l4)
    (field_eq <| peel 60 tk.pop.toNat rfl <| peel 52 tk.push.toNat rfl <| peel 40 38 rfl <| peel 35 d.toNat rfl <| place_hit a.isLt l5)
    (field_eq <| peel 60 tk.pop.toNat rfl <| peel 52 tk.push.toNat rfl <| peel 40 38 rfl <| peel 35 d.toNat rfl <| peel 30 a.toNat rfl <| place_hit b.isLt l6)
    (field_eq <| peel 60 tk.pop.toNat rfl <| peel 52 tk.push.toNat rfl <| peel 40 38 rfl <| peel 35 d.toNat rfl <| peel 30 a.toNat rfl <| peel 25 b.toNat rfl <| place_hit size.isLt l7)
    (field_eq <| peel 60 tk.pop.toNat rfl <| peel 52 tk.push.toNat rfl <| peel 40 38 rfl <| peel 35 d.toNat rfl <| peel 30 a.toNat rfl <| peel 25 b.toNat rfl <| peel 22 size.toNat rfl <| place_hit off.isLt l8)⟩

theorem Encoding.mfs (tk : Tok) (d : BitVec 5) (sn : BitVec 12) : Encoding.Statement (.mfs tk d sn) := by
  intro wd h
  have h0 : pack _ _ _ = wd := Option.some.inj h
  rw [pack_place] at h0; subst h0
  have l5 : place [] < 2 ^ 18 := Nat.two_pow_pos _
  have l4 := place_lt 35 sn.isLt l5 rfl
  have l3 := place_lt 40 d.isLt l4 rfl
  have l2 := place_lt 52 (show 39 < 2 ^ 8 by decide) l3 rfl
  have l1 := place_lt 60 tk.push.isLt l2 rfl
  have l0 := place_lt 64 tk.pop.isLt l1 rfl
  have key : ∀ wd, nfield wd 45 3 = 1 → nfield wd 40 5 = 7 → field wd 60 4 = tk.pop → field wd 52 4 = tk.push → field wd 35 5 = d → field wd 18 12 = sn → rawDecode wd = some (.mfs tk d sn) := by
    intro _ e0 e1 e2 e3 e4 e5; simp only [rawDecode, rawCtl, e0, e1, e2, e3, e4, e5]
  exact ⟨l0, key _ (peel 60 tk.pop.toNat rfl <| peel 52 tk.push.toNat rfl <| place_part 40 39 5 l3 rfl rfl)
    (peel 60 tk.pop.toNat rfl <| peel 52 tk.push.toNat rfl <| place_part 40 39 0 l3 rfl rfl)
    (field_eq <| place_hit tk.pop.isLt l1)
    (field_eq <| peel 60 tk.pop.toNat rfl <| place_hit tk.push.isLt l2)
    (field_eq <| peel 60 tk.pop.toNat rfl <| peel 52 tk.push.toNat rfl <| peel 40 39 rfl <| place_hit d.isLt l4)
    (field_eq <| peel 60 tk.pop.toNat rfl <| peel 52 tk.push.toNat rfl <| peel 40 39 rfl <| peel 35 d.toNat rfl <| place_hit sn.isLt l5)⟩

theorem Encoding.mts (tk : Tok) (a : BitVec 5) (sn : BitVec 12) : Encoding.Statement (.mts tk a sn) := by
  intro wd h
  have h0 : pack _ _ _ = wd := Option.some.inj h
  rw [pack_place] at h0; subst h0
  have l5 : place [] < 2 ^ 18 := Nat.two_pow_pos _
  have l4 := place_lt 30 sn.isLt l5 rfl
  have l3 := place_lt 40 a.isLt l4 rfl
  have l2 := place_lt 52 (show 40 < 2 ^ 8 by decide) l3 rfl
  have l1 := place_lt 60 tk.push.isLt l2 rfl
  have l0 := place_lt 64 tk.pop.isLt l1 rfl
  have key : ∀ wd, nfield wd 45 3 = 1 → nfield wd 40 5 = 8 → field wd 60 4 = tk.pop → field wd 52 4 = tk.push → field wd 30 5 = a → field wd 18 12 = sn → rawDecode wd = some (.mts tk a sn) := by
    intro _ e0 e1 e2 e3 e4 e5; simp only [rawDecode, rawCtl, e0, e1, e2, e3, e4, e5]
  exact ⟨l0, key _ (peel 60 tk.pop.toNat rfl <| peel 52 tk.push.toNat rfl <| place_part 40 40 5 l3 rfl rfl)
    (peel 60 tk.pop.toNat rfl <| peel 52 tk.push.toNat rfl <| place_part 40 40 0 l3 rfl rfl)
    (field_eq <| place_hit tk.pop.isLt l1)
    (field_eq <| peel 60 tk.pop.toNat rfl <| place_hit tk.push.isLt l2)
    (field_eq <| peel 60 tk.pop.toNat rfl <| peel 52 tk.push.toNat rfl <| peel 40 40 rfl <| place_hit a.isLt l4)
    (field_eq <| peel 60 tk.pop.toNat rfl <| peel 52 tk.push.toNat rfl <| peel 40 40 rfl <| peel 30 a.toNat rfl <| place_hit sn.isLt l5)⟩

theorem Encoding.trap (tk : Tok) (code : BitVec 16) : Encoding.Statement (.trap tk code) := by
  intro wd h
  have h0 : pack _ _ _ = wd := Option.some.inj h
  rw [pack_place] at h0; subst h0
  have l4 : place [] < 2 ^ 0 := Nat.two_pow_pos _
  have l3 := place_lt 40 code.isLt l4 rfl
  have l2 := place_lt 52 (show 41 < 2 ^ 8 by decide) l3 rfl
  have l1 := place_lt 60 tk.push.isLt l2 rfl
  have l0 := place_lt 64 tk.pop.isLt l1 rfl
  have key : ∀ wd, nfield wd 45 3 = 1 → nfield wd 40 5 = 9 → field wd 60 4 = tk.pop → field wd 52 4 = tk.push → field wd 0 16 = code → rawDecode wd = some (.trap tk code) := by
    intro _ e0 e1 e2 e3 e4; simp only [rawDecode, rawCtl, e0, e1, e2, e3, e4]
  exact ⟨l0, key _ (peel 60 tk.pop.toNat rfl <| peel 52 tk.push.toNat rfl <| place_part 40 41 5 l3 rfl rfl)
    (peel 60 tk.pop.toNat rfl <| peel 52 tk.push.toNat rfl <| place_part 40 41 0 l3 rfl rfl)
    (field_eq <| place_hit tk.pop.isLt l1)
    (field_eq <| peel 60 tk.pop.toNat rfl <| place_hit tk.push.isLt l2)
    (field_eq <| peel 60 tk.pop.toNat rfl <| peel 52 tk.push.toNat rfl <| peel 40 41 rfl <| place_hit code.isLt l4)⟩

theorem Encoding.eret (tk : Tok) : Encoding.Statement (.eret tk) := by
  intro wd h
  have h0 : pack _ _ _ = wd := Option.some.inj h
  rw [pack_place] at h0; subst h0
  have l3 : place [] < 2 ^ 40 := Nat.two_pow_pos _
  have l2 := place_lt 52 (show 42 < 2 ^ 8 by decide) l3 rfl
  have l1 := place_lt 60 tk.push.isLt l2 rfl
  have l0 := place_lt 64 tk.pop.isLt l1 rfl
  have key : ∀ wd, nfield wd 45 3 = 1 → nfield wd 40 5 = 10 → field wd 60 4 = tk.pop → field wd 52 4 = tk.push → rawDecode wd = some (.eret tk) := by
    intro _ e0 e1 e2 e3; simp only [rawDecode, rawCtl, e0, e1, e2, e3]
  exact ⟨l0, key _ (peel 60 tk.pop.toNat rfl <| peel 52 tk.push.toNat rfl <| place_part 40 42 5 l3 rfl rfl)
    (peel 60 tk.pop.toNat rfl <| peel 52 tk.push.toNat rfl <| place_part 40 42 0 l3 rfl rfl)
    (field_eq <| place_hit tk.pop.isLt l1)
    (field_eq <| peel 60 tk.pop.toNat rfl <| place_hit tk.push.isLt l2)⟩

theorem Encoding.brk (tk : Tok) (code : BitVec 16) : Encoding.Statement (.brk tk code) := by
  intro wd h
  have h0 : pack _ _ _ = wd := Option.some.inj h
  rw [pack_place] at h0; subst h0
  have l4 : place [] < 2 ^ 0 := Nat.two_pow_pos _
  have l3 := place_lt 40 code.isLt l4 rfl
  have l2 := place_lt 52 (show 43 < 2 ^ 8 by decide) l3 rfl
  have l1 := place_lt 60 tk.push.isLt l2 rfl
  have l0 := place_lt 64 tk.pop.isLt l1 rfl
  have key : ∀ wd, nfield wd 45 3 = 1 → nfield wd 40 5 = 11 → field wd 60 4 = tk.pop → field wd 52 4 = tk.push → field wd 0 16 = code → rawDecode wd = some (.brk tk code) := by
    intro _ e0 e1 e2 e3 e4; simp only [rawDecode, rawCtl, e0, e1, e2, e3, e4]
  exact ⟨l0, key _ (peel 60 tk.pop.toNat rfl <| peel 52 tk.push.toNat rfl <| place_part 40 43 5 l3 rfl rfl)
    (peel 60 tk.pop.toNat rfl <| peel 52 tk.push.toNat rfl <| place_part 40 43 0 l3 rfl rfl)
    (field_eq <| place_hit tk.pop.isLt l1)
    (field_eq <| peel 60 tk.pop.toNat rfl <| place_hit tk.push.isLt l2)
    (field_eq <| peel 60 tk.pop.toNat rfl <| peel 52 tk.push.toNat rfl <| peel 40 43 rfl <| place_hit code.isLt l4)⟩

theorem Encoding.tmark (tk : Tok) (a : BitVec 5) (code : BitVec 16) : Encoding.Statement (.tmark tk a code) := by
  intro wd h
  have h0 : pack _ _ _ = wd := Option.some.inj h
  rw [pack_place] at h0; subst h0
  have l5 : place [] < 2 ^ 0 := Nat.two_pow_pos _
  have l4 := place_lt 30 code.isLt l5 rfl
  have l3 := place_lt 40 a.isLt l4 rfl
  have l2 := place_lt 52 (show 44 < 2 ^ 8 by decide) l3 rfl
  have l1 := place_lt 60 tk.push.isLt l2 rfl
  have l0 := place_lt 64 tk.pop.isLt l1 rfl
  have key : ∀ wd, nfield wd 45 3 = 1 → nfield wd 40 5 = 12 → field wd 60 4 = tk.pop → field wd 52 4 = tk.push → field wd 30 5 = a → field wd 0 16 = code → rawDecode wd = some (.tmark tk a code) := by
    intro _ e0 e1 e2 e3 e4 e5; simp only [rawDecode, rawCtl, e0, e1, e2, e3, e4, e5]
  exact ⟨l0, key _ (peel 60 tk.pop.toNat rfl <| peel 52 tk.push.toNat rfl <| place_part 40 44 5 l3 rfl rfl)
    (peel 60 tk.pop.toNat rfl <| peel 52 tk.push.toNat rfl <| place_part 40 44 0 l3 rfl rfl)
    (field_eq <| place_hit tk.pop.isLt l1)
    (field_eq <| peel 60 tk.pop.toNat rfl <| place_hit tk.push.isLt l2)
    (field_eq <| peel 60 tk.pop.toNat rfl <| peel 52 tk.push.toNat rfl <| peel 40 44 rfl <| place_hit a.isLt l4)
    (field_eq <| peel 60 tk.pop.toNat rfl <| peel 52 tk.push.toNat rfl <| peel 40 44 rfl <| peel 30 a.toNat rfl <| place_hit code.isLt l5)⟩

theorem Encoding.qdrop (tk : Tok) (d a b : BitVec 5) (qm : BitVec 4) : Encoding.Statement (.qdrop tk d a b qm) := by
  intro wd h
  have h0 : pack _ _ _ = wd := Option.some.inj h
  rw [pack_place] at h0; subst h0
  have l7 : place [] < 2 ^ 0 := Nat.two_pow_pos _
  have l6 := place_lt 25 qm.isLt l7 rfl
  have l5 := place_lt 30 b.isLt l6 rfl
  have l4 := place_lt 35 a.isLt l5 rfl
  have l3 := place_lt 40 d.isLt l4 rfl
  have l2 := place_lt 52 (show 45 < 2 ^ 8 by decide) l3 rfl
  have l1 := place_lt 60 tk.push.isLt l2 rfl
  have l0 := place_lt 64 tk.pop.isLt l1 rfl
  have key : ∀ wd, nfield wd 45 3 = 1 → nfield wd 40 5 = 13 → field wd 60 4 = tk.pop → field wd 52 4 = tk.push → field wd 35 5 = d → field wd 30 5 = a → field wd 25 5 = b → field wd 0 4 = qm → rawDecode wd = some (.qdrop tk d a b qm) := by
    intro _ e0 e1 e2 e3 e4 e5 e6 e7; simp only [rawDecode, rawCtl, e0, e1, e2, e3, e4, e5, e6, e7]
  exact ⟨l0, key _ (peel 60 tk.pop.toNat rfl <| peel 52 tk.push.toNat rfl <| place_part 40 45 5 l3 rfl rfl)
    (peel 60 tk.pop.toNat rfl <| peel 52 tk.push.toNat rfl <| place_part 40 45 0 l3 rfl rfl)
    (field_eq <| place_hit tk.pop.isLt l1)
    (field_eq <| peel 60 tk.pop.toNat rfl <| place_hit tk.push.isLt l2)
    (field_eq <| peel 60 tk.pop.toNat rfl <| peel 52 tk.push.toNat rfl <| peel 40 45 rfl <| place_hit d.isLt l4)
    (field_eq <| peel 60 tk.pop.toNat rfl <| peel 52 tk.push.toNat rfl <| peel 40 45 rfl <| peel 35 d.toNat rfl <| place_hit a.isLt l5)
    (field_eq <| peel 60 tk.pop.toNat rfl <| peel 52 tk.push.toNat rfl <| peel 40 45 rfl <| peel 35 d.toNat rfl <| peel 30 a.toNat rfl <| place_hit b.isLt l6)
    (field_eq <| peel 60 tk.pop.toNat rfl <| peel 52 tk.push.toNat rfl <| peel 40 45 rfl <| peel 35 d.toNat rfl <| peel 30 a.toNat rfl <| peel 25 b.toNat rfl <| place_hit qm.isLt l7)⟩

theorem Encoding.qres (tk : Tok) (d : BitVec 5) (qm : BitVec 4) : Encoding.Statement (.qres tk d qm) := by
  intro wd h
  have h0 : pack _ _ _ = wd := Option.some.inj h
  rw [pack_place] at h0; subst h0
  have l5 : place [] < 2 ^ 0 := Nat.two_pow_pos _
  have l4 := place_lt 35 qm.isLt l5 rfl
  have l3 := place_lt 40 d.isLt l4 rfl
  have l2 := place_lt 52 (show 46 < 2 ^ 8 by decide) l3 rfl
  have l1 := place_lt 60 tk.push.isLt l2 rfl
  have l0 := place_lt 64 tk.pop.isLt l1 rfl
  have key : ∀ wd, nfield wd 45 3 = 1 → nfield wd 40 5 = 14 → field wd 60 4 = tk.pop → field wd 52 4 = tk.push → field wd 35 5 = d → field wd 0 4 = qm → rawDecode wd = some (.qres tk d qm) := by
    intro _ e0 e1 e2 e3 e4 e5; simp only [rawDecode, rawCtl, e0, e1, e2, e3, e4, e5]
  exact ⟨l0, key _ (peel 60 tk.pop.toNat rfl <| peel 52 tk.push.toNat rfl <| place_part 40 46 5 l3 rfl rfl)
    (peel 60 tk.pop.toNat rfl <| peel 52 tk.push.toNat rfl <| place_part 40 46 0 l3 rfl rfl)
    (field_eq <| place_hit tk.pop.isLt l1)
    (field_eq <| peel 60 tk.pop.toNat rfl <| place_hit tk.push.isLt l2)
    (field_eq <| peel 60 tk.pop.toNat rfl <| peel 52 tk.push.toNat rfl <| peel 40 46 rfl <| place_hit d.isLt l4)
    (field_eq <| peel 60 tk.pop.toNat rfl <| peel 52 tk.push.toNat rfl <| peel 40 46 rfl <| peel 35 d.toNat rfl <| place_hit qm.isLt l5)⟩

theorem Encoding.qstat (tk : Tok) (d : BitVec 5) (qn : BitVec 3) : Encoding.Statement (.qstat tk d qn) := by
  intro wd h
  have h0 : pack _ _ _ = wd := Option.some.inj h
  rw [pack_place] at h0; subst h0
  have l5 : place [] < 2 ^ 0 := Nat.two_pow_pos _
  have l4 := place_lt 35 qn.isLt l5 rfl
  have l3 := place_lt 40 d.isLt l4 rfl
  have l2 := place_lt 52 (show 47 < 2 ^ 8 by decide) l3 rfl
  have l1 := place_lt 60 tk.push.isLt l2 rfl
  have l0 := place_lt 64 tk.pop.isLt l1 rfl
  have key : ∀ wd, nfield wd 45 3 = 1 → nfield wd 40 5 = 15 → field wd 60 4 = tk.pop → field wd 52 4 = tk.push → field wd 35 5 = d → field wd 0 3 = qn → rawDecode wd = some (.qstat tk d qn) := by
    intro _ e0 e1 e2 e3 e4 e5; simp only [rawDecode, rawCtl, e0, e1, e2, e3, e4, e5]
  exact ⟨l0, key _ (peel 60 tk.pop.toNat rfl <| peel 52 tk.push.toNat rfl <| place_part 40 47 5 l3 rfl rfl)
    (peel 60 tk.pop.toNat rfl <| peel 52 tk.push.toNat rfl <| place_part 40 47 0 l3 rfl rfl)
    (field_eq <| place_hit tk.pop.isLt l1)
    (field_eq <| peel 60 tk.pop.toNat rfl <| place_hit tk.push.isLt l2)
    (field_eq <| peel 60 tk.pop.toNat rfl <| peel 52 tk.push.toNat rfl <| peel 40 47 rfl <| place_hit d.isLt l4)
    (field_eq <| peel 60 tk.pop.toNat rfl <| peel 52 tk.push.toNat rfl <| peel 40 47 rfl <| peel 35 d.toNat rfl <| place_hit qn.isLt l5)⟩

theorem Encoding.yield (tk : Tok) : Encoding.Statement (.yield tk) := by
  intro wd h
  have h0 : pack _ _ _ = wd := Option.some.inj h
  rw [pack_place] at h0; subst h0
  have l3 : place [] < 2 ^ 40 := Nat.two_pow_pos _
  have l2 := place_lt 52 (show 48 < 2 ^ 8 by decide) l3 rfl
  have l1 := place_lt 60 tk.push.isLt l2 rfl
  have l0 := place_lt 64 tk.pop.isLt l1 rfl
  have key : ∀ wd, nfield wd 45 3 = 1 → nfield wd 40 5 = 16 → field wd 60 4 = tk.pop → field wd 52 4 = tk.push → rawDecode wd = some (.yield tk) := by
    intro _ e0 e1 e2 e3; simp only [rawDecode, rawCtl, e0, e1, e2, e3]
  exact ⟨l0, key _ (peel 60 tk.pop.toNat rfl <| peel 52 tk.push.toNat rfl <| place_part 40 48 5 l3 rfl rfl)
    (peel 60 tk.pop.toNat rfl <| peel 52 tk.push.toNat rfl <| place_part 40 48 0 l3 rfl rfl)
    (field_eq <| place_hit tk.pop.isLt l1)
    (field_eq <| peel 60 tk.pop.toNat rfl <| place_hit tk.push.isLt l2)⟩

theorem Encoding.ctxsw (tk : Tok) (a : BitVec 5) : Encoding.Statement (.ctxsw tk a) := by
  intro wd h
  have h0 : pack _ _ _ = wd := Option.some.inj h
  rw [pack_place] at h0; subst h0
  have l4 : place [] < 2 ^ 30 := Nat.two_pow_pos _
  have l3 := place_lt 40 a.isLt l4 rfl
  have l2 := place_lt 52 (show 49 < 2 ^ 8 by decide) l3 rfl
  have l1 := place_lt 60 tk.push.isLt l2 rfl
  have l0 := place_lt 64 tk.pop.isLt l1 rfl
  have key : ∀ wd, nfield wd 45 3 = 1 → nfield wd 40 5 = 17 → field wd 60 4 = tk.pop → field wd 52 4 = tk.push → field wd 30 5 = a → rawDecode wd = some (.ctxsw tk a) := by
    intro _ e0 e1 e2 e3 e4; simp only [rawDecode, rawCtl, e0, e1, e2, e3, e4]
  exact ⟨l0, key _ (peel 60 tk.pop.toNat rfl <| peel 52 tk.push.toNat rfl <| place_part 40 49 5 l3 rfl rfl)
    (peel 60 tk.pop.toNat rfl <| peel 52 tk.push.toNat rfl <| place_part 40 49 0 l3 rfl rfl)
    (field_eq <| place_hit tk.pop.isLt l1)
    (field_eq <| peel 60 tk.pop.toNat rfl <| place_hit tk.push.isLt l2)
    (field_eq <| peel 60 tk.pop.toNat rfl <| peel 52 tk.push.toNat rfl <| peel 40 49 rfl <| place_hit a.isLt l4)⟩

theorem Encoding.tlbinv (tk : Tok) (a b : BitVec 5) (bc : BitVec 1) (mode : BitVec 2) : Encoding.Statement (.tlbinv tk a b bc mode) := by
  intro wd h
  have h0 : pack _ _ _ = wd := Option.some.inj h
  rw [pack_place] at h0; subst h0
  have l7 : place [] < 2 ^ 0 := Nat.two_pow_pos _
  have l6 := place_lt 2 mode.isLt l7 rfl
  have l5 := place_lt 25 bc.isLt l6 rfl
  have l4 := place_lt 30 b.isLt l5 rfl
  have l3 := place_lt 40 a.isLt l4 rfl
  have l2 := place_lt 52 (show 50 < 2 ^ 8 by decide) l3 rfl
  have l1 := place_lt 60 tk.push.isLt l2 rfl
  have l0 := place_lt 64 tk.pop.isLt l1 rfl
  have key : ∀ wd, nfield wd 45 3 = 1 → nfield wd 40 5 = 18 → field wd 60 4 = tk.pop → field wd 52 4 = tk.push → field wd 30 5 = a → field wd 25 5 = b → field wd 2 1 = bc → field wd 0 2 = mode → rawDecode wd = some (.tlbinv tk a b bc mode) := by
    intro _ e0 e1 e2 e3 e4 e5 e6 e7; simp only [rawDecode, rawCtl, e0, e1, e2, e3, e4, e5, e6, e7]
  exact ⟨l0, key _ (peel 60 tk.pop.toNat rfl <| peel 52 tk.push.toNat rfl <| place_part 40 50 5 l3 rfl rfl)
    (peel 60 tk.pop.toNat rfl <| peel 52 tk.push.toNat rfl <| place_part 40 50 0 l3 rfl rfl)
    (field_eq <| place_hit tk.pop.isLt l1)
    (field_eq <| peel 60 tk.pop.toNat rfl <| place_hit tk.push.isLt l2)
    (field_eq <| peel 60 tk.pop.toNat rfl <| peel 52 tk.push.toNat rfl <| peel 40 50 rfl <| place_hit a.isLt l4)
    (field_eq <| peel 60 tk.pop.toNat rfl <| peel 52 tk.push.toNat rfl <| peel 40 50 rfl <| peel 30 a.toNat rfl <| place_hit b.isLt l5)
    (field_eq <| peel 60 tk.pop.toNat rfl <| peel 52 tk.push.toNat rfl <| peel 40 50 rfl <| peel 30 a.toNat rfl <| peel 25 b.toNat rfl <| place_hit bc.isLt l6)
    (field_eq <| peel 60 tk.pop.toNat rfl <| peel 52 tk.push.toNat rfl <| peel 40 50 rfl <| peel 30 a.toNat rfl <| peel 25 b.toNat rfl <| peel 2 bc.toNat rfl <| place_hit mode.isLt l7)⟩

theorem Encoding.qset (tk : Tok) (d a : BitVec 5) (w : BitVec 2) : Encoding.Statement (.qset tk d a w) := by
  intro wd h
  have h0 : pack _ _ _ = wd := Option.some.inj h
  rw [pack_place] at h0; subst h0
  have l6 : place [] < 2 ^ 0 := Nat.two_pow_pos _
  have l5 := place_lt 30 w.isLt l6 rfl
  have l4 := place_lt 35 a.isLt l5 rfl
  have l3 := place_lt 40 d.isLt l4 rfl
  have l2 := place_lt 52 (show 51 < 2 ^ 8 by decide) l3 rfl
  have l1 := place_lt 60 tk.push.isLt l2 rfl
  have l0 := place_lt 64 tk.pop.isLt l1 rfl
  have key : ∀ wd, nfield wd 45 3 = 1 → nfield wd 40 5 = 19 → field wd 60 4 = tk.pop → field wd 52 4 = tk.push → field wd 35 5 = d → field wd 30 5 = a → field wd 0 2 = w → rawDecode wd = some (.qset tk d a w) := by
    intro _ e0 e1 e2 e3 e4 e5 e6; simp only [rawDecode, rawCtl, e0, e1, e2, e3, e4, e5, e6]
  exact ⟨l0, key _ (peel 60 tk.pop.toNat rfl <| peel 52 tk.push.toNat rfl <| place_part 40 51 5 l3 rfl rfl)
    (peel 60 tk.pop.toNat rfl <| peel 52 tk.push.toNat rfl <| place_part 40 51 0 l3 rfl rfl)
    (field_eq <| place_hit tk.pop.isLt l1)
    (field_eq <| peel 60 tk.pop.toNat rfl <| place_hit tk.push.isLt l2)
    (field_eq <| peel 60 tk.pop.toNat rfl <| peel 52 tk.push.toNat rfl <| peel 40 51 rfl <| place_hit d.isLt l4)
    (field_eq <| peel 60 tk.pop.toNat rfl <| peel 52 tk.push.toNat rfl <| peel 40 51 rfl <| peel 35 d.toNat rfl <| place_hit a.isLt l5)
    (field_eq <| peel 60 tk.pop.toNat rfl <| peel 52 tk.push.toNat rfl <| peel 40 51 rfl <| peel 35 d.toNat rfl <| peel 30 a.toNat rfl <| place_hit w.isLt l6)⟩

theorem Encoding.qget (tk : Tok) (d a : BitVec 5) (w : BitVec 2) : Encoding.Statement (.qget tk d a w) := by
  intro wd h
  have h0 : pack _ _ _ = wd := Option.some.inj h
  rw [pack_place] at h0; subst h0
  have l6 : place [] < 2 ^ 0 := Nat.two_pow_pos _
  have l5 := place_lt 30 w.isLt l6 rfl
  have l4 := place_lt 35 a.isLt l5 rfl
  have l3 := place_lt 40 d.isLt l4 rfl
  have l2 := place_lt 52 (show 52 < 2 ^ 8 by decide) l3 rfl
  have l1 := place_lt 60 tk.push.isLt l2 rfl
  have l0 := place_lt 64 tk.pop.isLt l1 rfl
  have key : ∀ wd, nfield wd 45 3 = 1 → nfield wd 40 5 = 20 → field wd 60 4 = tk.pop → field wd 52 4 = tk.push → field wd 35 5 = d → field wd 30 5 = a → field wd 0 2 = w → rawDecode wd = some (.qget tk d a w) := by
    intro _ e0 e1 e2 e3 e4 e5 e6; simp only [rawDecode, rawCtl, e0, e1, e2, e3, e4, e5, e6]
  exact ⟨l0, key _ (peel 60 tk.pop.toNat rfl <| peel 52 tk.push.toNat rfl <| place_part 40 52 5 l3 rfl rfl)
    (peel 60 tk.pop.toNat rfl <| peel 52 tk.push.toNat rfl <| place_part 40 52 0 l3 rfl rfl)
    (field_eq <| place_hit tk.pop.isLt l1)
    (field_eq <| peel 60 tk.pop.toNat rfl <| place_hit tk.push.isLt l2)
    (field_eq <| peel 60 tk.pop.toNat rfl <| peel 52 tk.push.toNat rfl <| peel 40 52 rfl <| place_hit d.isLt l4)
    (field_eq <| peel 60 tk.pop.toNat rfl <| peel 52 tk.push.toNat rfl <| peel 40 52 rfl <| peel 35 d.toNat rfl <| place_hit a.isLt l5)
    (field_eq <| peel 60 tk.pop.toNat rfl <| peel 52 tk.push.toNat rfl <| peel 40 52 rfl <| peel 35 d.toNat rfl <| peel 30 a.toNat rfl <| place_hit w.isLt l6)⟩

theorem Encoding.qclr (tk : Tok) (d : BitVec 5) : Encoding.Statement (.qclr tk d) := by
  intro wd h
  have h0 : pack _ _ _ = wd := Option.some.inj h
  rw [pack_place] at h0; subst h0
  have l4 : place [] < 2 ^ 35 := Nat.two_pow_pos _
  have l3 := place_lt 40 d.isLt l4 rfl
  have l2 := place_lt 52 (show 53 < 2 ^ 8 by decide) l3 rfl
  have l1 := place_lt 60 tk.push.isLt l2 rfl
  have l0 := place_lt 64 tk.pop.isLt l1 rfl
  have key : ∀ wd, nfield wd 45 3 = 1 → nfield wd 40 5 = 21 → field wd 60 4 = tk.pop → field wd 52 4 = tk.push → field wd 35 5 = d → rawDecode wd = some (.qclr tk d) := by
    intro _ e0 e1 e2 e3 e4; simp only [rawDecode, rawCtl, e0, e1, e2, e3, e4]
  exact ⟨l0, key _ (peel 60 tk.pop.toNat rfl <| peel 52 tk.push.toNat rfl <| place_part 40 53 5 l3 rfl rfl)
    (peel 60 tk.pop.toNat rfl <| peel 52 tk.push.toNat rfl <| place_part 40 53 0 l3 rfl rfl)
    (field_eq <| place_hit tk.pop.isLt l1)
    (field_eq <| peel 60 tk.pop.toNat rfl <| place_hit tk.push.isLt l2)
    (field_eq <| peel 60 tk.pop.toNat rfl <| peel 52 tk.push.toNat rfl <| peel 40 53 rfl <| place_hit d.isLt l4)⟩

theorem Encoding.ldt (tk : Tok) (qs qd : BitVec 4) (g : BitVec 5) (fl : BitVec 6) (fe : BitVec 1) (n : BitVec 12) (rm : BitVec 3) : Encoding.Statement (.ldt tk qs qd g fl fe n rm) := by
  intro wd h
  have h0 : pack _ _ _ = wd := Option.some.inj h
  rw [pack_place] at h0; subst h0
  have l10 : place [] < 2 ^ 5 := Nat.two_pow_pos _
  have l9 := place_lt 8 rm.isLt l10 rfl
  have l8 := place_lt 20 n.isLt l9 rfl
  have l7 := place_lt 21 fe.isLt l8 rfl
  have l6 := place_lt 27 fl.isLt l7 rfl
  have l5 := place_lt 32 g.isLt l6 rfl
  have l4 := place_lt 36 qd.isLt l5 rfl
  have l3 := place_lt 40 qs.isLt l4 rfl
  have l2 := place_lt 52 (show 64 < 2 ^ 8 by decide) l3 rfl
  have l1 := place_lt 60 tk.push.isLt l2 rfl
  have l0 := place_lt 64 tk.pop.isLt l1 rfl
  have key : ∀ wd, nfield wd 45 3 = 2 → nfield wd 40 5 = 0 → field wd 60 4 = tk.pop → field wd 52 4 = tk.push → field wd 36 4 = qs → field wd 32 4 = qd → field wd 27 5 = g → field wd 21 6 = fl → field wd 20 1 = fe → field wd 8 12 = n → field wd 5 3 = rm → rawDecode wd = some (.ldt tk qs qd g fl fe n rm) := by
    intro _ e0 e1 e2 e3 e4 e5 e6 e7 e8 e9 e10; simp only [rawDecode, rawIn, e0, e1, e2, e3, e4, e5, e6, e7, e8, e9, e10]
  exact ⟨l0, key _ (peel 60 tk.pop.toNat rfl <| peel 52 tk.push.toNat rfl <| place_part 40 64 5 l3 rfl rfl)
    (peel 60 tk.pop.toNat rfl <| peel 52 tk.push.toNat rfl <| place_part 40 64 0 l3 rfl rfl)
    (field_eq <| place_hit tk.pop.isLt l1)
    (field_eq <| peel 60 tk.pop.toNat rfl <| place_hit tk.push.isLt l2)
    (field_eq <| peel 60 tk.pop.toNat rfl <| peel 52 tk.push.toNat rfl <| peel 40 64 rfl <| place_hit qs.isLt l4)
    (field_eq <| peel 60 tk.pop.toNat rfl <| peel 52 tk.push.toNat rfl <| peel 40 64 rfl <| peel 36 qs.toNat rfl <| place_hit qd.isLt l5)
    (field_eq <| peel 60 tk.pop.toNat rfl <| peel 52 tk.push.toNat rfl <| peel 40 64 rfl <| peel 36 qs.toNat rfl <| peel 32 qd.toNat rfl <| place_hit g.isLt l6)
    (field_eq <| peel 60 tk.pop.toNat rfl <| peel 52 tk.push.toNat rfl <| peel 40 64 rfl <| peel 36 qs.toNat rfl <| peel 32 qd.toNat rfl <| peel 27 g.toNat rfl <| place_hit fl.isLt l7)
    (field_eq <| peel 60 tk.pop.toNat rfl <| peel 52 tk.push.toNat rfl <| peel 40 64 rfl <| peel 36 qs.toNat rfl <| peel 32 qd.toNat rfl <| peel 27 g.toNat rfl <| peel 21 fl.toNat rfl <| place_hit fe.isLt l8)
    (field_eq <| peel 60 tk.pop.toNat rfl <| peel 52 tk.push.toNat rfl <| peel 40 64 rfl <| peel 36 qs.toNat rfl <| peel 32 qd.toNat rfl <| peel 27 g.toNat rfl <| peel 21 fl.toNat rfl <| peel 20 fe.toNat rfl <| place_hit n.isLt l9)
    (field_eq <| peel 60 tk.pop.toNat rfl <| peel 52 tk.push.toNat rfl <| peel 40 64 rfl <| peel 36 qs.toNat rfl <| peel 32 qd.toNat rfl <| peel 27 g.toNat rfl <| peel 21 fl.toNat rfl <| peel 20 fe.toNat rfl <| peel 8 n.toNat rfl <| place_hit rm.isLt l10)⟩

theorem Encoding.cpy (tk : Tok) (qs qd : BitVec 4) (g : BitVec 5) (fl : BitVec 6) (fe : BitVec 1) (n : BitVec 12) (rm : BitVec 3) : Encoding.Statement (.cpy tk qs qd g fl fe n rm) := by
  intro wd h
  have h0 : pack _ _ _ = wd := Option.some.inj h
  rw [pack_place] at h0; subst h0
  have l10 : place [] < 2 ^ 5 := Nat.two_pow_pos _
  have l9 := place_lt 8 rm.isLt l10 rfl
  have l8 := place_lt 20 n.isLt l9 rfl
  have l7 := place_lt 21 fe.isLt l8 rfl
  have l6 := place_lt 27 fl.isLt l7 rfl
  have l5 := place_lt 32 g.isLt l6 rfl
  have l4 := place_lt 36 qd.isLt l5 rfl
  have l3 := place_lt 40 qs.isLt l4 rfl
  have l2 := place_lt 52 (show 65 < 2 ^ 8 by decide) l3 rfl
  have l1 := place_lt 60 tk.push.isLt l2 rfl
  have l0 := place_lt 64 tk.pop.isLt l1 rfl
  have key : ∀ wd, nfield wd 45 3 = 2 → nfield wd 40 5 = 1 → field wd 60 4 = tk.pop → field wd 52 4 = tk.push → field wd 36 4 = qs → field wd 32 4 = qd → field wd 27 5 = g → field wd 21 6 = fl → field wd 20 1 = fe → field wd 8 12 = n → field wd 5 3 = rm → rawDecode wd = some (.cpy tk qs qd g fl fe n rm) := by
    intro _ e0 e1 e2 e3 e4 e5 e6 e7 e8 e9 e10; simp only [rawDecode, rawIn, e0, e1, e2, e3, e4, e5, e6, e7, e8, e9, e10]
  exact ⟨l0, key _ (peel 60 tk.pop.toNat rfl <| peel 52 tk.push.toNat rfl <| place_part 40 65 5 l3 rfl rfl)
    (peel 60 tk.pop.toNat rfl <| peel 52 tk.push.toNat rfl <| place_part 40 65 0 l3 rfl rfl)
    (field_eq <| place_hit tk.pop.isLt l1)
    (field_eq <| peel 60 tk.pop.toNat rfl <| place_hit tk.push.isLt l2)
    (field_eq <| peel 60 tk.pop.toNat rfl <| peel 52 tk.push.toNat rfl <| peel 40 65 rfl <| place_hit qs.isLt l4)
    (field_eq <| peel 60 tk.pop.toNat rfl <| peel 52 tk.push.toNat rfl <| peel 40 65 rfl <| peel 36 qs.toNat rfl <| place_hit qd.isLt l5)
    (field_eq <| peel 60 tk.pop.toNat rfl <| peel 52 tk.push.toNat rfl <| peel 40 65 rfl <| peel 36 qs.toNat rfl <| peel 32 qd.toNat rfl <| place_hit g.isLt l6)
    (field_eq <| peel 60 tk.pop.toNat rfl <| peel 52 tk.push.toNat rfl <| peel 40 65 rfl <| peel 36 qs.toNat rfl <| peel 32 qd.toNat rfl <| peel 27 g.toNat rfl <| place_hit fl.isLt l7)
    (field_eq <| peel 60 tk.pop.toNat rfl <| peel 52 tk.push.toNat rfl <| peel 40 65 rfl <| peel 36 qs.toNat rfl <| peel 32 qd.toNat rfl <| peel 27 g.toNat rfl <| peel 21 fl.toNat rfl <| place_hit fe.isLt l8)
    (field_eq <| peel 60 tk.pop.toNat rfl <| peel 52 tk.push.toNat rfl <| peel 40 65 rfl <| peel 36 qs.toNat rfl <| peel 32 qd.toNat rfl <| peel 27 g.toNat rfl <| peel 21 fl.toNat rfl <| peel 20 fe.toNat rfl <| place_hit n.isLt l9)
    (field_eq <| peel 60 tk.pop.toNat rfl <| peel 52 tk.push.toNat rfl <| peel 40 65 rfl <| peel 36 qs.toNat rfl <| peel 32 qd.toNat rfl <| peel 27 g.toNat rfl <| peel 21 fl.toNat rfl <| peel 20 fe.toNat rfl <| peel 8 n.toNat rfl <| place_hit rm.isLt l10)⟩

theorem Encoding.ldo (tk : Tok) (qs : BitVec 4) (g : BitVec 5) (fl : BitVec 6) (fe : BitVec 1) (n : BitVec 12) : Encoding.Statement (.ldo tk qs g fl fe n) := by
  intro wd h
  have h0 : pack _ _ _ = wd := Option.some.inj h
  rw [pack_place] at h0; subst h0
  have l8 : place [] < 2 ^ 8 := Nat.two_pow_pos _
  have l7 := place_lt 20 n.isLt l8 rfl
  have l6 := place_lt 21 fe.isLt l7 rfl
  have l5 := place_lt 27 fl.isLt l6 rfl
  have l4 := place_lt 36 g.isLt l5 rfl
  have l3 := place_lt 40 qs.isLt l4 rfl
  have l2 := place_lt 52 (show 66 < 2 ^ 8 by decide) l3 rfl
  have l1 := place_lt 60 tk.push.isLt l2 rfl
  have l0 := place_lt 64 tk.pop.isLt l1 rfl
  have key : ∀ wd, nfield wd 45 3 = 2 → nfield wd 40 5 = 2 → field wd 60 4 = tk.pop → field wd 52 4 = tk.push → field wd 36 4 = qs → field wd 27 5 = g → field wd 21 6 = fl → field wd 20 1 = fe → field wd 8 12 = n → rawDecode wd = some (.ldo tk qs g fl fe n) := by
    intro _ e0 e1 e2 e3 e4 e5 e6 e7 e8; simp only [rawDecode, rawIn, e0, e1, e2, e3, e4, e5, e6, e7, e8]
  exact ⟨l0, key _ (peel 60 tk.pop.toNat rfl <| peel 52 tk.push.toNat rfl <| place_part 40 66 5 l3 rfl rfl)
    (peel 60 tk.pop.toNat rfl <| peel 52 tk.push.toNat rfl <| place_part 40 66 0 l3 rfl rfl)
    (field_eq <| place_hit tk.pop.isLt l1)
    (field_eq <| peel 60 tk.pop.toNat rfl <| place_hit tk.push.isLt l2)
    (field_eq <| peel 60 tk.pop.toNat rfl <| peel 52 tk.push.toNat rfl <| peel 40 66 rfl <| place_hit qs.isLt l4)
    (field_eq <| peel 60 tk.pop.toNat rfl <| peel 52 tk.push.toNat rfl <| peel 40 66 rfl <| peel 36 qs.toNat rfl <| place_hit g.isLt l5)
    (field_eq <| peel 60 tk.pop.toNat rfl <| peel 52 tk.push.toNat rfl <| peel 40 66 rfl <| peel 36 qs.toNat rfl <| peel 27 g.toNat rfl <| place_hit fl.isLt l6)
    (field_eq <| peel 60 tk.pop.toNat rfl <| peel 52 tk.push.toNat rfl <| peel 40 66 rfl <| peel 36 qs.toNat rfl <| peel 27 g.toNat rfl <| peel 21 fl.toNat rfl <| place_hit fe.isLt l7)
    (field_eq <| peel 60 tk.pop.toNat rfl <| peel 52 tk.push.toNat rfl <| peel 40 66 rfl <| peel 36 qs.toNat rfl <| peel 27 g.toNat rfl <| peel 21 fl.toNat rfl <| peel 20 fe.toNat rfl <| place_hit n.isLt l8)⟩

theorem Encoding.pref (tk : Tok) (qs : BitVec 4) (g : BitVec 5) (fl : BitVec 6) (fe : BitVec 1) (n : BitVec 12) : Encoding.Statement (.pref tk qs g fl fe n) := by
  intro wd h
  have h0 : pack _ _ _ = wd := Option.some.inj h
  rw [pack_place] at h0; subst h0
  have l8 : place [] < 2 ^ 8 := Nat.two_pow_pos _
  have l7 := place_lt 20 n.isLt l8 rfl
  have l6 := place_lt 21 fe.isLt l7 rfl
  have l5 := place_lt 27 fl.isLt l6 rfl
  have l4 := place_lt 36 g.isLt l5 rfl
  have l3 := place_lt 40 qs.isLt l4 rfl
  have l2 := place_lt 52 (show 67 < 2 ^ 8 by decide) l3 rfl
  have l1 := place_lt 60 tk.push.isLt l2 rfl
  have l0 := place_lt 64 tk.pop.isLt l1 rfl
  have key : ∀ wd, nfield wd 45 3 = 2 → nfield wd 40 5 = 3 → field wd 60 4 = tk.pop → field wd 52 4 = tk.push → field wd 36 4 = qs → field wd 27 5 = g → field wd 21 6 = fl → field wd 20 1 = fe → field wd 8 12 = n → rawDecode wd = some (.pref tk qs g fl fe n) := by
    intro _ e0 e1 e2 e3 e4 e5 e6 e7 e8; simp only [rawDecode, rawIn, e0, e1, e2, e3, e4, e5, e6, e7, e8]
  exact ⟨l0, key _ (peel 60 tk.pop.toNat rfl <| peel 52 tk.push.toNat rfl <| place_part 40 67 5 l3 rfl rfl)
    (peel 60 tk.pop.toNat rfl <| peel 52 tk.push.toNat rfl <| place_part 40 67 0 l3 rfl rfl)
    (field_eq <| place_hit tk.pop.isLt l1)
    (field_eq <| peel 60 tk.pop.toNat rfl <| place_hit tk.push.isLt l2)
    (field_eq <| peel 60 tk.pop.toNat rfl <| peel 52 tk.push.toNat rfl <| peel 40 67 rfl <| place_hit qs.isLt l4)
    (field_eq <| peel 60 tk.pop.toNat rfl <| peel 52 tk.push.toNat rfl <| peel 40 67 rfl <| peel 36 qs.toNat rfl <| place_hit g.isLt l5)
    (field_eq <| peel 60 tk.pop.toNat rfl <| peel 52 tk.push.toNat rfl <| peel 40 67 rfl <| peel 36 qs.toNat rfl <| peel 27 g.toNat rfl <| place_hit fl.isLt l6)
    (field_eq <| peel 60 tk.pop.toNat rfl <| peel 52 tk.push.toNat rfl <| peel 40 67 rfl <| peel 36 qs.toNat rfl <| peel 27 g.toNat rfl <| peel 21 fl.toNat rfl <| place_hit fe.isLt l7)
    (field_eq <| peel 60 tk.pop.toNat rfl <| peel 52 tk.push.toNat rfl <| peel 40 67 rfl <| peel 36 qs.toNat rfl <| peel 27 g.toNat rfl <| peel 21 fl.toNat rfl <| peel 20 fe.toNat rfl <| place_hit n.isLt l8)⟩

theorem Encoding.ldg (tk : Tok) (qs qd : BitVec 4) (g : BitVec 5) (fl : BitVec 6) (fe : BitVec 1) (n : BitVec 12) (rm : BitVec 3) : Encoding.Statement (.ldg tk qs qd g fl fe n rm) := by
  intro wd h
  have h0 : pack _ _ _ = wd := Option.some.inj h
  rw [pack_place] at h0; subst h0
  have l10 : place [] < 2 ^ 5 := Nat.two_pow_pos _
  have l9 := place_lt 8 rm.isLt l10 rfl
  have l8 := place_lt 20 n.isLt l9 rfl
  have l7 := place_lt 21 fe.isLt l8 rfl
  have l6 := place_lt 27 fl.isLt l7 rfl
  have l5 := place_lt 32 g.isLt l6 rfl
  have l4 := place_lt 36 qd.isLt l5 rfl
  have l3 := place_lt 40 qs.isLt l4 rfl
  have l2 := place_lt 52 (show 68 < 2 ^ 8 by decide) l3 rfl
  have l1 := place_lt 60 tk.push.isLt l2 rfl
  have l0 := place_lt 64 tk.pop.isLt l1 rfl
  have key : ∀ wd, nfield wd 45 3 = 2 → nfield wd 40 5 = 4 → field wd 60 4 = tk.pop → field wd 52 4 = tk.push → field wd 36 4 = qs → field wd 32 4 = qd → field wd 27 5 = g → field wd 21 6 = fl → field wd 20 1 = fe → field wd 8 12 = n → field wd 5 3 = rm → rawDecode wd = some (.ldg tk qs qd g fl fe n rm) := by
    intro _ e0 e1 e2 e3 e4 e5 e6 e7 e8 e9 e10; simp only [rawDecode, rawIn, e0, e1, e2, e3, e4, e5, e6, e7, e8, e9, e10]
  exact ⟨l0, key _ (peel 60 tk.pop.toNat rfl <| peel 52 tk.push.toNat rfl <| place_part 40 68 5 l3 rfl rfl)
    (peel 60 tk.pop.toNat rfl <| peel 52 tk.push.toNat rfl <| place_part 40 68 0 l3 rfl rfl)
    (field_eq <| place_hit tk.pop.isLt l1)
    (field_eq <| peel 60 tk.pop.toNat rfl <| place_hit tk.push.isLt l2)
    (field_eq <| peel 60 tk.pop.toNat rfl <| peel 52 tk.push.toNat rfl <| peel 40 68 rfl <| place_hit qs.isLt l4)
    (field_eq <| peel 60 tk.pop.toNat rfl <| peel 52 tk.push.toNat rfl <| peel 40 68 rfl <| peel 36 qs.toNat rfl <| place_hit qd.isLt l5)
    (field_eq <| peel 60 tk.pop.toNat rfl <| peel 52 tk.push.toNat rfl <| peel 40 68 rfl <| peel 36 qs.toNat rfl <| peel 32 qd.toNat rfl <| place_hit g.isLt l6)
    (field_eq <| peel 60 tk.pop.toNat rfl <| peel 52 tk.push.toNat rfl <| peel 40 68 rfl <| peel 36 qs.toNat rfl <| peel 32 qd.toNat rfl <| peel 27 g.toNat rfl <| place_hit fl.isLt l7)
    (field_eq <| peel 60 tk.pop.toNat rfl <| peel 52 tk.push.toNat rfl <| peel 40 68 rfl <| peel 36 qs.toNat rfl <| peel 32 qd.toNat rfl <| peel 27 g.toNat rfl <| peel 21 fl.toNat rfl <| place_hit fe.isLt l8)
    (field_eq <| peel 60 tk.pop.toNat rfl <| peel 52 tk.push.toNat rfl <| peel 40 68 rfl <| peel 36 qs.toNat rfl <| peel 32 qd.toNat rfl <| peel 27 g.toNat rfl <| peel 21 fl.toNat rfl <| peel 20 fe.toNat rfl <| place_hit n.isLt l9)
    (field_eq <| peel 60 tk.pop.toNat rfl <| peel 52 tk.push.toNat rfl <| peel 40 68 rfl <| peel 36 qs.toNat rfl <| peel 32 qd.toNat rfl <| peel 27 g.toNat rfl <| peel 21 fl.toNat rfl <| peel 20 fe.toNat rfl <| peel 8 n.toNat rfl <| place_hit rm.isLt l10)⟩

theorem Encoding.qmark (tk : Tok) (fl : BitVec 6) (fe : BitVec 1) : Encoding.Statement (.qmark tk fl fe) := by
  intro wd h
  have h0 : pack _ _ _ = wd := Option.some.inj h
  rw [pack_place] at h0; subst h0
  have l5 : place [] < 2 ^ 20 := Nat.two_pow_pos _
  have l4 := place_lt 21 fe.isLt l5 rfl
  have l3 := place_lt 40 fl.isLt l4 rfl
  have l2 := place_lt 52 (show 69 < 2 ^ 8 by decide) l3 rfl
  have l1 := place_lt 60 tk.push.isLt l2 rfl
  have l0 := place_lt 64 tk.pop.isLt l1 rfl
  have key : ∀ wd, nfield wd 45 3 = 2 → nfield wd 40 5 = 5 → field wd 60 4 = tk.pop → field wd 52 4 = tk.push → field wd 21 6 = fl → field wd 20 1 = fe → rawDecode wd = some (.qmark tk fl fe) := by
    intro _ e0 e1 e2 e3 e4 e5; simp only [rawDecode, rawIn, e0, e1, e2, e3, e4, e5]
  exact ⟨l0, key _ (peel 60 tk.pop.toNat rfl <| peel 52 tk.push.toNat rfl <| place_part 40 69 5 l3 rfl rfl)
    (peel 60 tk.pop.toNat rfl <| peel 52 tk.push.toNat rfl <| place_part 40 69 0 l3 rfl rfl)
    (field_eq <| place_hit tk.pop.isLt l1)
    (field_eq <| peel 60 tk.pop.toNat rfl <| place_hit tk.push.isLt l2)
    (field_eq <| peel 60 tk.pop.toNat rfl <| peel 52 tk.push.toNat rfl <| peel 40 69 rfl <| place_hit fl.isLt l4)
    (field_eq <| peel 60 tk.pop.toNat rfl <| peel 52 tk.push.toNat rfl <| peel 40 69 rfl <| peel 21 fl.toNat rfl <| place_hit fe.isLt l5)⟩

theorem Encoding.stt (tk : Tok) (qs qd : BitVec 4) (g : BitVec 5) (fl : BitVec 6) (fe : BitVec 1) (n : BitVec 12) (rm : BitVec 3) : Encoding.Statement (.stt tk qs qd g fl fe n rm) := by
  intro wd h
  have h0 : pack _ _ _ = wd := Option.some.inj h
  rw [pack_place] at h0; subst h0
  have l10 : place [] < 2 ^ 5 := Nat.two_pow_pos _
  have l9 := place_lt 8 rm.isLt l10 rfl
  have l8 := place_lt 20 n.isLt l9 rfl
  have l7 := place_lt 21 fe.isLt l8 rfl
  have l6 := place_lt 27 fl.isLt l7 rfl
  have l5 := place_lt 32 g.isLt l6 rfl
  have l4 := place_lt 36 qd.isLt l5 rfl
  have l3 := place_lt 40 qs.isLt l4 rfl
  have l2 := place_lt 52 (show 96 < 2 ^ 8 by decide) l3 rfl
  have l1 := place_lt 60 tk.push.isLt l2 rfl
  have l0 := place_lt 64 tk.pop.isLt l1 rfl
  have key : ∀ wd, nfield wd 45 3 = 3 → nfield wd 40 5 = 0 → field wd 60 4 = tk.pop → field wd 52 4 = tk.push → field wd 36 4 = qs → field wd 32 4 = qd → field wd 27 5 = g → field wd 21 6 = fl → field wd 20 1 = fe → field wd 8 12 = n → field wd 5 3 = rm → rawDecode wd = some (.stt tk qs qd g fl fe n rm) := by
    intro _ e0 e1 e2 e3 e4 e5 e6 e7 e8 e9 e10; simp only [rawDecode, rawOut, e0, e1, e2, e3, e4, e5, e6, e7, e8, e9, e10]
  exact ⟨l0, key _ (peel 60 tk.pop.toNat rfl <| peel 52 tk.push.toNat rfl <| place_part 40 96 5 l3 rfl rfl)
    (peel 60 tk.pop.toNat rfl <| peel 52 tk.push.toNat rfl <| place_part 40 96 0 l3 rfl rfl)
    (field_eq <| place_hit tk.pop.isLt l1)
    (field_eq <| peel 60 tk.pop.toNat rfl <| place_hit tk.push.isLt l2)
    (field_eq <| peel 60 tk.pop.toNat rfl <| peel 52 tk.push.toNat rfl <| peel 40 96 rfl <| place_hit qs.isLt l4)
    (field_eq <| peel 60 tk.pop.toNat rfl <| peel 52 tk.push.toNat rfl <| peel 40 96 rfl <| peel 36 qs.toNat rfl <| place_hit qd.isLt l5)
    (field_eq <| peel 60 tk.pop.toNat rfl <| peel 52 tk.push.toNat rfl <| peel 40 96 rfl <| peel 36 qs.toNat rfl <| peel 32 qd.toNat rfl <| place_hit g.isLt l6)
    (field_eq <| peel 60 tk.pop.toNat rfl <| peel 52 tk.push.toNat rfl <| peel 40 96 rfl <| peel 36 qs.toNat rfl <| peel 32 qd.toNat rfl <| peel 27 g.toNat rfl <| place_hit fl.isLt l7)
    (field_eq <| peel 60 tk.pop.toNat rfl <| peel 52 tk.push.toNat rfl <| peel 40 96 rfl <| peel 36 qs.toNat rfl <| peel 32 qd.toNat rfl <| peel 27 g.toNat rfl <| peel 21 fl.toNat rfl <| place_hit fe.isLt l8)
    (field_eq <| peel 60 tk.pop.toNat rfl <| peel 52 tk.push.toNat rfl <| peel 40 96 rfl <| peel 36 qs.toNat rfl <| peel 32 qd.toNat rfl <| peel 27 g.toNat rfl <| peel 21 fl.toNat rfl <| peel 20 fe.toNat rfl <| place_hit n.isLt l9)
    (field_eq <| peel 60 tk.pop.toNat rfl <| peel 52 tk.push.toNat rfl <| peel 40 96 rfl <| peel 36 qs.toNat rfl <| peel 32 qd.toNat rfl <| peel 27 g.toNat rfl <| peel 21 fl.toNat rfl <| peel 20 fe.toNat rfl <| peel 8 n.toNat rfl <| place_hit rm.isLt l10)⟩

theorem Encoding.cpys (tk : Tok) (qs qd : BitVec 4) (g : BitVec 5) (fl : BitVec 6) (fe : BitVec 1) (n : BitVec 12) (rm : BitVec 3) : Encoding.Statement (.cpys tk qs qd g fl fe n rm) := by
  intro wd h
  have h0 : pack _ _ _ = wd := Option.some.inj h
  rw [pack_place] at h0; subst h0
  have l10 : place [] < 2 ^ 5 := Nat.two_pow_pos _
  have l9 := place_lt 8 rm.isLt l10 rfl
  have l8 := place_lt 20 n.isLt l9 rfl
  have l7 := place_lt 21 fe.isLt l8 rfl
  have l6 := place_lt 27 fl.isLt l7 rfl
  have l5 := place_lt 32 g.isLt l6 rfl
  have l4 := place_lt 36 qd.isLt l5 rfl
  have l3 := place_lt 40 qs.isLt l4 rfl
  have l2 := place_lt 52 (show 97 < 2 ^ 8 by decide) l3 rfl
  have l1 := place_lt 60 tk.push.isLt l2 rfl
  have l0 := place_lt 64 tk.pop.isLt l1 rfl
  have key : ∀ wd, nfield wd 45 3 = 3 → nfield wd 40 5 = 1 → field wd 60 4 = tk.pop → field wd 52 4 = tk.push → field wd 36 4 = qs → field wd 32 4 = qd → field wd 27 5 = g → field wd 21 6 = fl → field wd 20 1 = fe → field wd 8 12 = n → field wd 5 3 = rm → rawDecode wd = some (.cpys tk qs qd g fl fe n rm) := by
    intro _ e0 e1 e2 e3 e4 e5 e6 e7 e8 e9 e10; simp only [rawDecode, rawOut, e0, e1, e2, e3, e4, e5, e6, e7, e8, e9, e10]
  exact ⟨l0, key _ (peel 60 tk.pop.toNat rfl <| peel 52 tk.push.toNat rfl <| place_part 40 97 5 l3 rfl rfl)
    (peel 60 tk.pop.toNat rfl <| peel 52 tk.push.toNat rfl <| place_part 40 97 0 l3 rfl rfl)
    (field_eq <| place_hit tk.pop.isLt l1)
    (field_eq <| peel 60 tk.pop.toNat rfl <| place_hit tk.push.isLt l2)
    (field_eq <| peel 60 tk.pop.toNat rfl <| peel 52 tk.push.toNat rfl <| peel 40 97 rfl <| place_hit qs.isLt l4)
    (field_eq <| peel 60 tk.pop.toNat rfl <| peel 52 tk.push.toNat rfl <| peel 40 97 rfl <| peel 36 qs.toNat rfl <| place_hit qd.isLt l5)
    (field_eq <| peel 60 tk.pop.toNat rfl <| peel 52 tk.push.toNat rfl <| peel 40 97 rfl <| peel 36 qs.toNat rfl <| peel 32 qd.toNat rfl <| place_hit g.isLt l6)
    (field_eq <| peel 60 tk.pop.toNat rfl <| peel 52 tk.push.toNat rfl <| peel 40 97 rfl <| peel 36 qs.toNat rfl <| peel 32 qd.toNat rfl <| peel 27 g.toNat rfl <| place_hit fl.isLt l7)
    (field_eq <| peel 60 tk.pop.toNat rfl <| peel 52 tk.push.toNat rfl <| peel 40 97 rfl <| peel 36 qs.toNat rfl <| peel 32 qd.toNat rfl <| peel 27 g.toNat rfl <| peel 21 fl.toNat rfl <| place_hit fe.isLt l8)
    (field_eq <| peel 60 tk.pop.toNat rfl <| peel 52 tk.push.toNat rfl <| peel 40 97 rfl <| peel 36 qs.toNat rfl <| peel 32 qd.toNat rfl <| peel 27 g.toNat rfl <| peel 21 fl.toNat rfl <| peel 20 fe.toNat rfl <| place_hit n.isLt l9)
    (field_eq <| peel 60 tk.pop.toNat rfl <| peel 52 tk.push.toNat rfl <| peel 40 97 rfl <| peel 36 qs.toNat rfl <| peel 32 qd.toNat rfl <| peel 27 g.toNat rfl <| peel 21 fl.toNat rfl <| peel 20 fe.toNat rfl <| peel 8 n.toNat rfl <| place_hit rm.isLt l10)⟩

theorem Encoding.redSt (tk : Tok) (qs qd : BitVec 4) (g : BitVec 5) (fl : BitVec 6) (fe : BitVec 1) (n : BitVec 12) (rm op : BitVec 3) : Encoding.Statement (.redSt tk qs qd g fl fe n rm op) := by
  intro wd h
  have h0 : pack _ _ _ = wd := Option.some.inj h
  rw [pack_place] at h0; subst h0
  have l11 : place [] < 2 ^ 0 := Nat.two_pow_pos _
  have l10 := place_lt 5 op.isLt l11 rfl
  have l9 := place_lt 8 rm.isLt l10 rfl
  have l8 := place_lt 20 n.isLt l9 rfl
  have l7 := place_lt 21 fe.isLt l8 rfl
  have l6 := place_lt 27 fl.isLt l7 rfl
  have l5 := place_lt 32 g.isLt l6 rfl
  have l4 := place_lt 36 qd.isLt l5 rfl
  have l3 := place_lt 40 qs.isLt l4 rfl
  have l2 := place_lt 52 (show 98 < 2 ^ 8 by decide) l3 rfl
  have l1 := place_lt 60 tk.push.isLt l2 rfl
  have l0 := place_lt 64 tk.pop.isLt l1 rfl
  have key : ∀ wd, nfield wd 45 3 = 3 → nfield wd 40 5 = 2 → field wd 60 4 = tk.pop → field wd 52 4 = tk.push → field wd 36 4 = qs → field wd 32 4 = qd → field wd 27 5 = g → field wd 21 6 = fl → field wd 20 1 = fe → field wd 8 12 = n → field wd 5 3 = rm → field wd 0 3 = op → rawDecode wd = some (.redSt tk qs qd g fl fe n rm op) := by
    intro _ e0 e1 e2 e3 e4 e5 e6 e7 e8 e9 e10 e11; simp only [rawDecode, rawOut, e0, e1, e2, e3, e4, e5, e6, e7, e8, e9, e10, e11]
  exact ⟨l0, key _ (peel 60 tk.pop.toNat rfl <| peel 52 tk.push.toNat rfl <| place_part 40 98 5 l3 rfl rfl)
    (peel 60 tk.pop.toNat rfl <| peel 52 tk.push.toNat rfl <| place_part 40 98 0 l3 rfl rfl)
    (field_eq <| place_hit tk.pop.isLt l1)
    (field_eq <| peel 60 tk.pop.toNat rfl <| place_hit tk.push.isLt l2)
    (field_eq <| peel 60 tk.pop.toNat rfl <| peel 52 tk.push.toNat rfl <| peel 40 98 rfl <| place_hit qs.isLt l4)
    (field_eq <| peel 60 tk.pop.toNat rfl <| peel 52 tk.push.toNat rfl <| peel 40 98 rfl <| peel 36 qs.toNat rfl <| place_hit qd.isLt l5)
    (field_eq <| peel 60 tk.pop.toNat rfl <| peel 52 tk.push.toNat rfl <| peel 40 98 rfl <| peel 36 qs.toNat rfl <| peel 32 qd.toNat rfl <| place_hit g.isLt l6)
    (field_eq <| peel 60 tk.pop.toNat rfl <| peel 52 tk.push.toNat rfl <| peel 40 98 rfl <| peel 36 qs.toNat rfl <| peel 32 qd.toNat rfl <| peel 27 g.toNat rfl <| place_hit fl.isLt l7)
    (field_eq <| peel 60 tk.pop.toNat rfl <| peel 52 tk.push.toNat rfl <| peel 40 98 rfl <| peel 36 qs.toNat rfl <| peel 32 qd.toNat rfl <| peel 27 g.toNat rfl <| peel 21 fl.toNat rfl <| place_hit fe.isLt l8)
    (field_eq <| peel 60 tk.pop.toNat rfl <| peel 52 tk.push.toNat rfl <| peel 40 98 rfl <| peel 36 qs.toNat rfl <| peel 32 qd.toNat rfl <| peel 27 g.toNat rfl <| peel 21 fl.toNat rfl <| peel 20 fe.toNat rfl <| place_hit n.isLt l9)
    (field_eq <| peel 60 tk.pop.toNat rfl <| peel 52 tk.push.toNat rfl <| peel 40 98 rfl <| peel 36 qs.toNat rfl <| peel 32 qd.toNat rfl <| peel 27 g.toNat rfl <| peel 21 fl.toNat rfl <| peel 20 fe.toNat rfl <| peel 8 n.toNat rfl <| place_hit rm.isLt l10)
    (field_eq <| peel 60 tk.pop.toNat rfl <| peel 52 tk.push.toNat rfl <| peel 40 98 rfl <| peel 36 qs.toNat rfl <| peel 32 qd.toNat rfl <| peel 27 g.toNat rfl <| peel 21 fl.toNat rfl <| peel 20 fe.toNat rfl <| peel 8 n.toNat rfl <| peel 5 rm.toNat rfl <| place_hit op.isLt l11)⟩

theorem Encoding.sct (tk : Tok) (qs qd : BitVec 4) (g : BitVec 5) (fl : BitVec 6) (fe : BitVec 1) (n : BitVec 12) (rm : BitVec 3) : Encoding.Statement (.sct tk qs qd g fl fe n rm) := by
  intro wd h
  have h0 : pack _ _ _ = wd := Option.some.inj h
  rw [pack_place] at h0; subst h0
  have l10 : place [] < 2 ^ 5 := Nat.two_pow_pos _
  have l9 := place_lt 8 rm.isLt l10 rfl
  have l8 := place_lt 20 n.isLt l9 rfl
  have l7 := place_lt 21 fe.isLt l8 rfl
  have l6 := place_lt 27 fl.isLt l7 rfl
  have l5 := place_lt 32 g.isLt l6 rfl
  have l4 := place_lt 36 qd.isLt l5 rfl
  have l3 := place_lt 40 qs.isLt l4 rfl
  have l2 := place_lt 52 (show 99 < 2 ^ 8 by decide) l3 rfl
  have l1 := place_lt 60 tk.push.isLt l2 rfl
  have l0 := place_lt 64 tk.pop.isLt l1 rfl
  have key : ∀ wd, nfield wd 45 3 = 3 → nfield wd 40 5 = 3 → field wd 60 4 = tk.pop → field wd 52 4 = tk.push → field wd 36 4 = qs → field wd 32 4 = qd → field wd 27 5 = g → field wd 21 6 = fl → field wd 20 1 = fe → field wd 8 12 = n → field wd 5 3 = rm → rawDecode wd = some (.sct tk qs qd g fl fe n rm) := by
    intro _ e0 e1 e2 e3 e4 e5 e6 e7 e8 e9 e10; simp only [rawDecode, rawOut, e0, e1, e2, e3, e4, e5, e6, e7, e8, e9, e10]
  exact ⟨l0, key _ (peel 60 tk.pop.toNat rfl <| peel 52 tk.push.toNat rfl <| place_part 40 99 5 l3 rfl rfl)
    (peel 60 tk.pop.toNat rfl <| peel 52 tk.push.toNat rfl <| place_part 40 99 0 l3 rfl rfl)
    (field_eq <| place_hit tk.pop.isLt l1)
    (field_eq <| peel 60 tk.pop.toNat rfl <| place_hit tk.push.isLt l2)
    (field_eq <| peel 60 tk.pop.toNat rfl <| peel 52 tk.push.toNat rfl <| peel 40 99 rfl <| place_hit qs.isLt l4)
    (field_eq <| peel 60 tk.pop.toNat rfl <| peel 52 tk.push.toNat rfl <| peel 40 99 rfl <| peel 36 qs.toNat rfl <| place_hit qd.isLt l5)
    (field_eq <| peel 60 tk.pop.toNat rfl <| peel 52 tk.push.toNat rfl <| peel 40 99 rfl <| peel 36 qs.toNat rfl <| peel 32 qd.toNat rfl <| place_hit g.isLt l6)
    (field_eq <| peel 60 tk.pop.toNat rfl <| peel 52 tk.push.toNat rfl <| peel 40 99 rfl <| peel 36 qs.toNat rfl <| peel 32 qd.toNat rfl <| peel 27 g.toNat rfl <| place_hit fl.isLt l7)
    (field_eq <| peel 60 tk.pop.toNat rfl <| peel 52 tk.push.toNat rfl <| peel 40 99 rfl <| peel 36 qs.toNat rfl <| peel 32 qd.toNat rfl <| peel 27 g.toNat rfl <| peel 21 fl.toNat rfl <| place_hit fe.isLt l8)
    (field_eq <| peel 60 tk.pop.toNat rfl <| peel 52 tk.push.toNat rfl <| peel 40 99 rfl <| peel 36 qs.toNat rfl <| peel 32 qd.toNat rfl <| peel 27 g.toNat rfl <| peel 21 fl.toNat rfl <| peel 20 fe.toNat rfl <| place_hit n.isLt l9)
    (field_eq <| peel 60 tk.pop.toNat rfl <| peel 52 tk.push.toNat rfl <| peel 40 99 rfl <| peel 36 qs.toNat rfl <| peel 32 qd.toNat rfl <| peel 27 g.toNat rfl <| peel 21 fl.toNat rfl <| peel 20 fe.toNat rfl <| peel 8 n.toNat rfl <| place_hit rm.isLt l10)⟩

theorem Encoding.chpop (tk : Tok) (qd : BitVec 4) (g : BitVec 5) (fl : BitVec 6) (fe : BitVec 1) (n : BitVec 12) : Encoding.Statement (.chpop tk qd g fl fe n) := by
  intro wd h
  have h0 : pack _ _ _ = wd := Option.some.inj h
  rw [pack_place] at h0; subst h0
  have l8 : place [] < 2 ^ 8 := Nat.two_pow_pos _
  have l7 := place_lt 20 n.isLt l8 rfl
  have l6 := place_lt 21 fe.isLt l7 rfl
  have l5 := place_lt 27 fl.isLt l6 rfl
  have l4 := place_lt 32 g.isLt l5 rfl
  have l3 := place_lt 40 qd.isLt l4 rfl
  have l2 := place_lt 52 (show 100 < 2 ^ 8 by decide) l3 rfl
  have l1 := place_lt 60 tk.push.isLt l2 rfl
  have l0 := place_lt 64 tk.pop.isLt l1 rfl
  have key : ∀ wd, nfield wd 45 3 = 3 → nfield wd 40 5 = 4 → field wd 60 4 = tk.pop → field wd 52 4 = tk.push → field wd 32 4 = qd → field wd 27 5 = g → field wd 21 6 = fl → field wd 20 1 = fe → field wd 8 12 = n → rawDecode wd = some (.chpop tk qd g fl fe n) := by
    intro _ e0 e1 e2 e3 e4 e5 e6 e7 e8; simp only [rawDecode, rawOut, e0, e1, e2, e3, e4, e5, e6, e7, e8]
  exact ⟨l0, key _ (peel 60 tk.pop.toNat rfl <| peel 52 tk.push.toNat rfl <| place_part 40 100 5 l3 rfl rfl)
    (peel 60 tk.pop.toNat rfl <| peel 52 tk.push.toNat rfl <| place_part 40 100 0 l3 rfl rfl)
    (field_eq <| place_hit tk.pop.isLt l1)
    (field_eq <| peel 60 tk.pop.toNat rfl <| place_hit tk.push.isLt l2)
    (field_eq <| peel 60 tk.pop.toNat rfl <| peel 52 tk.push.toNat rfl <| peel 40 100 rfl <| place_hit qd.isLt l4)
    (field_eq <| peel 60 tk.pop.toNat rfl <| peel 52 tk.push.toNat rfl <| peel 40 100 rfl <| peel 32 qd.toNat rfl <| place_hit g.isLt l5)
    (field_eq <| peel 60 tk.pop.toNat rfl <| peel 52 tk.push.toNat rfl <| peel 40 100 rfl <| peel 32 qd.toNat rfl <| peel 27 g.toNat rfl <| place_hit fl.isLt l6)
    (field_eq <| peel 60 tk.pop.toNat rfl <| peel 52 tk.push.toNat rfl <| peel 40 100 rfl <| peel 32 qd.toNat rfl <| peel 27 g.toNat rfl <| peel 21 fl.toNat rfl <| place_hit fe.isLt l7)
    (field_eq <| peel 60 tk.pop.toNat rfl <| peel 52 tk.push.toNat rfl <| peel 40 100 rfl <| peel 32 qd.toNat rfl <| peel 27 g.toNat rfl <| peel 21 fl.toNat rfl <| peel 20 fe.toNat rfl <| place_hit n.isLt l8)⟩

theorem Encoding.vld (tk : Tok) (d a b : BitVec 5) (mk : BitVec 3) (mf : BitVec 4) : Encoding.Statement (.vld tk d a b mk mf) := by
  intro wd h
  have h0 : pack _ _ _ = wd := Option.some.inj h
  rw [pack_place] at h0; subst h0
  have l8 : place [] < 2 ^ 0 := Nat.two_pow_pos _
  have l7 := place_lt 22 mf.isLt l8 rfl
  have l6 := place_lt 25 mk.isLt l7 rfl
  have l5 := place_lt 30 b.isLt l6 rfl
  have l4 := place_lt 35 a.isLt l5 rfl
  have l3 := place_lt 40 d.isLt l4 rfl
  have l2 := place_lt 52 (show 128 < 2 ^ 8 by decide) l3 rfl
  have l1 := place_lt 60 tk.push.isLt l2 rfl
  have l0 := place_lt 64 tk.pop.isLt l1 rfl
  have key : ∀ wd, nfield wd 45 3 = 4 → nfield wd 40 5 = 0 → field wd 60 4 = tk.pop → field wd 52 4 = tk.push → field wd 35 5 = d → field wd 30 5 = a → field wd 25 5 = b → field wd 22 3 = mk → field wd 0 4 = mf → rawDecode wd = some (.vld tk d a b mk mf) := by
    intro _ e0 e1 e2 e3 e4 e5 e6 e7 e8; simp only [rawDecode, rawVec, e0, e1, e2, e3, e4, e5, e6, e7, e8]
  exact ⟨l0, key _ (peel 60 tk.pop.toNat rfl <| peel 52 tk.push.toNat rfl <| place_part 40 128 5 l3 rfl rfl)
    (peel 60 tk.pop.toNat rfl <| peel 52 tk.push.toNat rfl <| place_part 40 128 0 l3 rfl rfl)
    (field_eq <| place_hit tk.pop.isLt l1)
    (field_eq <| peel 60 tk.pop.toNat rfl <| place_hit tk.push.isLt l2)
    (field_eq <| peel 60 tk.pop.toNat rfl <| peel 52 tk.push.toNat rfl <| peel 40 128 rfl <| place_hit d.isLt l4)
    (field_eq <| peel 60 tk.pop.toNat rfl <| peel 52 tk.push.toNat rfl <| peel 40 128 rfl <| peel 35 d.toNat rfl <| place_hit a.isLt l5)
    (field_eq <| peel 60 tk.pop.toNat rfl <| peel 52 tk.push.toNat rfl <| peel 40 128 rfl <| peel 35 d.toNat rfl <| peel 30 a.toNat rfl <| place_hit b.isLt l6)
    (field_eq <| peel 60 tk.pop.toNat rfl <| peel 52 tk.push.toNat rfl <| peel 40 128 rfl <| peel 35 d.toNat rfl <| peel 30 a.toNat rfl <| peel 25 b.toNat rfl <| place_hit mk.isLt l7)
    (field_eq <| peel 60 tk.pop.toNat rfl <| peel 52 tk.push.toNat rfl <| peel 40 128 rfl <| peel 35 d.toNat rfl <| peel 30 a.toNat rfl <| peel 25 b.toNat rfl <| peel 22 mk.toNat rfl <| place_hit mf.isLt l8)⟩

theorem Encoding.vst (tk : Tok) (d a b : BitVec 5) (mk rd : BitVec 3) (mf : BitVec 4) : Encoding.Statement (.vst tk d a b mk rd mf) := by
  intro wd h
  have h0 : pack _ _ _ = wd := Option.some.inj h
  rw [pack_place] at h0; subst h0
  have l9 : place [] < 2 ^ 0 := Nat.two_pow_pos _
  have l8 := place_lt 16 mf.isLt l9 rfl
  have l7 := place_lt 22 rd.isLt l8 rfl
  have l6 := place_lt 25 mk.isLt l7 rfl
  have l5 := place_lt 30 b.isLt l6 rfl
  have l4 := place_lt 35 a.isLt l5 rfl
  have l3 := place_lt 40 d.isLt l4 rfl
  have l2 := place_lt 52 (show 129 < 2 ^ 8 by decide) l3 rfl
  have l1 := place_lt 60 tk.push.isLt l2 rfl
  have l0 := place_lt 64 tk.pop.isLt l1 rfl
  have key : ∀ wd, nfield wd 45 3 = 4 → nfield wd 40 5 = 1 → field wd 60 4 = tk.pop → field wd 52 4 = tk.push → field wd 35 5 = d → field wd 30 5 = a → field wd 25 5 = b → field wd 22 3 = mk → field wd 16 3 = rd → field wd 0 4 = mf → rawDecode wd = some (.vst tk d a b mk rd mf) := by
    intro _ e0 e1 e2 e3 e4 e5 e6 e7 e8 e9; simp only [rawDecode, rawVec, e0, e1, e2, e3, e4, e5, e6, e7, e8, e9]
  exact ⟨l0, key _ (peel 60 tk.pop.toNat rfl <| peel 52 tk.push.toNat rfl <| place_part 40 129 5 l3 rfl rfl)
    (peel 60 tk.pop.toNat rfl <| peel 52 tk.push.toNat rfl <| place_part 40 129 0 l3 rfl rfl)
    (field_eq <| place_hit tk.pop.isLt l1)
    (field_eq <| peel 60 tk.pop.toNat rfl <| place_hit tk.push.isLt l2)
    (field_eq <| peel 60 tk.pop.toNat rfl <| peel 52 tk.push.toNat rfl <| peel 40 129 rfl <| place_hit d.isLt l4)
    (field_eq <| peel 60 tk.pop.toNat rfl <| peel 52 tk.push.toNat rfl <| peel 40 129 rfl <| peel 35 d.toNat rfl <| place_hit a.isLt l5)
    (field_eq <| peel 60 tk.pop.toNat rfl <| peel 52 tk.push.toNat rfl <| peel 40 129 rfl <| peel 35 d.toNat rfl <| peel 30 a.toNat rfl <| place_hit b.isLt l6)
    (field_eq <| peel 60 tk.pop.toNat rfl <| peel 52 tk.push.toNat rfl <| peel 40 129 rfl <| peel 35 d.toNat rfl <| peel 30 a.toNat rfl <| peel 25 b.toNat rfl <| place_hit mk.isLt l7)
    (field_eq <| peel 60 tk.pop.toNat rfl <| peel 52 tk.push.toNat rfl <| peel 40 129 rfl <| peel 35 d.toNat rfl <| peel 30 a.toNat rfl <| peel 25 b.toNat rfl <| peel 22 mk.toNat rfl <| place_hit rd.isLt l8)
    (field_eq <| peel 60 tk.pop.toNat rfl <| peel 52 tk.push.toNat rfl <| peel 40 129 rfl <| peel 35 d.toNat rfl <| peel 30 a.toNat rfl <| peel 25 b.toNat rfl <| peel 22 mk.toNat rfl <| peel 16 rd.toNat rfl <| place_hit mf.isLt l9)⟩

theorem Encoding.vmov (tk : Tok) (d a : BitVec 5) (mk : BitVec 3) : Encoding.Statement (.vmov tk d a mk) := by
  intro wd h
  have h0 : pack _ _ _ = wd := Option.some.inj h
  rw [pack_place] at h0; subst h0
  have l6 : place [] < 2 ^ 22 := Nat.two_pow_pos _
  have l5 := place_lt 30 mk.isLt l6 rfl
  have l4 := place_lt 35 a.isLt l5 rfl
  have l3 := place_lt 40 d.isLt l4 rfl
  have l2 := place_lt 52 (show 130 < 2 ^ 8 by decide) l3 rfl
  have l1 := place_lt 60 tk.push.isLt l2 rfl
  have l0 := place_lt 64 tk.pop.isLt l1 rfl
  have key : ∀ wd, nfield wd 45 3 = 4 → nfield wd 40 5 = 2 → field wd 60 4 = tk.pop → field wd 52 4 = tk.push → field wd 35 5 = d → field wd 30 5 = a → field wd 22 3 = mk → field wd 0 1 = 0#1 → rawDecode wd = some (.vmov tk d a mk) := by
    intro _ e0 e1 e2 e3 e4 e5 e6 e7; simp only [rawDecode, rawVec, e0, e1, e2, e3, e4, e5, e6, e7]; rfl
  exact ⟨l0, key _ (peel 60 tk.pop.toNat rfl <| peel 52 tk.push.toNat rfl <| place_part 40 130 5 l3 rfl rfl)
    (peel 60 tk.pop.toNat rfl <| peel 52 tk.push.toNat rfl <| place_part 40 130 0 l3 rfl rfl)
    (field_eq <| place_hit tk.pop.isLt l1)
    (field_eq <| peel 60 tk.pop.toNat rfl <| place_hit tk.push.isLt l2)
    (field_eq <| peel 60 tk.pop.toNat rfl <| peel 52 tk.push.toNat rfl <| peel 40 130 rfl <| place_hit d.isLt l4)
    (field_eq <| peel 60 tk.pop.toNat rfl <| peel 52 tk.push.toNat rfl <| peel 40 130 rfl <| peel 35 d.toNat rfl <| place_hit a.isLt l5)
    (field_eq <| peel 60 tk.pop.toNat rfl <| peel 52 tk.push.toNat rfl <| peel 40 130 rfl <| peel 35 d.toNat rfl <| peel 30 a.toNat rfl <| place_hit mk.isLt l6)
    (field_eq <| peel 60 tk.pop.toNat rfl <| peel 52 tk.push.toNat rfl <| peel 40 130 rfl <| peel 35 d.toNat rfl <| peel 30 a.toNat rfl <| peel 22 mk.toNat rfl <| place_zero (r := []) (Nat.two_pow_pos _))⟩

theorem Encoding.vmovg (tk : Tok) (d a : BitVec 5) (mk : BitVec 3) : Encoding.Statement (.vmovg tk d a mk) := by
  intro wd h
  have h0 : pack _ _ _ = wd := Option.some.inj h
  rw [pack_place] at h0; subst h0
  have l7 : place [] < 2 ^ 0 := Nat.two_pow_pos _
  have l6 := place_lt 22 (show 1 < 2 ^ 1 by decide) l7 rfl
  have l5 := place_lt 30 mk.isLt l6 rfl
  have l4 := place_lt 35 a.isLt l5 rfl
  have l3 := place_lt 40 d.isLt l4 rfl
  have l2 := place_lt 52 (show 130 < 2 ^ 8 by decide) l3 rfl
  have l1 := place_lt 60 tk.push.isLt l2 rfl
  have l0 := place_lt 64 tk.pop.isLt l1 rfl
  have key : ∀ wd, nfield wd 45 3 = 4 → nfield wd 40 5 = 2 → field wd 60 4 = tk.pop → field wd 52 4 = tk.push → field wd 35 5 = d → field wd 30 5 = a → field wd 22 3 = mk → field wd 0 1 = 1#1 → rawDecode wd = some (.vmovg tk d a mk) := by
    intro _ e0 e1 e2 e3 e4 e5 e6 e7; simp only [rawDecode, rawVec, e0, e1, e2, e3, e4, e5, e6, e7]; rfl
  exact ⟨l0, key _ (peel 60 tk.pop.toNat rfl <| peel 52 tk.push.toNat rfl <| place_part 40 130 5 l3 rfl rfl)
    (peel 60 tk.pop.toNat rfl <| peel 52 tk.push.toNat rfl <| place_part 40 130 0 l3 rfl rfl)
    (field_eq <| place_hit tk.pop.isLt l1)
    (field_eq <| peel 60 tk.pop.toNat rfl <| place_hit tk.push.isLt l2)
    (field_eq <| peel 60 tk.pop.toNat rfl <| peel 52 tk.push.toNat rfl <| peel 40 130 rfl <| place_hit d.isLt l4)
    (field_eq <| peel 60 tk.pop.toNat rfl <| peel 52 tk.push.toNat rfl <| peel 40 130 rfl <| peel 35 d.toNat rfl <| place_hit a.isLt l5)
    (field_eq <| peel 60 tk.pop.toNat rfl <| peel 52 tk.push.toNat rfl <| peel 40 130 rfl <| peel 35 d.toNat rfl <| peel 30 a.toNat rfl <| place_hit mk.isLt l6)
    (field_eq <| peel 60 tk.pop.toNat rfl <| peel 52 tk.push.toNat rfl <| peel 40 130 rfl <| peel 35 d.toNat rfl <| peel 30 a.toNat rfl <| peel 22 mk.toNat rfl <| place_hit (v := 1) (show 1 < 2 ^ 1 by decide) l7)⟩

theorem Encoding.vbcr (tk : Tok) (d a : BitVec 5) (mk : BitVec 3) (i : BitVec 6) : Encoding.Statement (.vbcr tk d a mk i) := by
  intro wd h
  have h0 : pack _ _ _ = wd := Option.some.inj h
  rw [pack_place] at h0; subst h0
  have l7 : place [] < 2 ^ 0 := Nat.two_pow_pos _
  have l6 := place_lt 22 i.isLt l7 rfl
  have l5 := place_lt 30 mk.isLt l6 rfl
  have l4 := place_lt 35 a.isLt l5 rfl
  have l3 := place_lt 40 d.isLt l4 rfl
  have l2 := place_lt 52 (show 131 < 2 ^ 8 by decide) l3 rfl
  have l1 := place_lt 60 tk.push.isLt l2 rfl
  have l0 := place_lt 64 tk.pop.isLt l1 rfl
  have key : ∀ wd, nfield wd 45 3 = 4 → nfield wd 40 5 = 3 → field wd 60 4 = tk.pop → field wd 52 4 = tk.push → field wd 35 5 = d → field wd 30 5 = a → field wd 22 3 = mk → field wd 0 6 = i → field wd 6 1 = 0#1 → rawDecode wd = some (.vbcr tk d a mk i) := by
    intro _ e0 e1 e2 e3 e4 e5 e6 e7 e8; simp only [rawDecode, rawVec, e0, e1, e2, e3, e4, e5, e6, e7, e8]; rfl
  exact ⟨l0, key _ (peel 60 tk.pop.toNat rfl <| peel 52 tk.push.toNat rfl <| place_part 40 131 5 l3 rfl rfl)
    (peel 60 tk.pop.toNat rfl <| peel 52 tk.push.toNat rfl <| place_part 40 131 0 l3 rfl rfl)
    (field_eq <| place_hit tk.pop.isLt l1)
    (field_eq <| peel 60 tk.pop.toNat rfl <| place_hit tk.push.isLt l2)
    (field_eq <| peel 60 tk.pop.toNat rfl <| peel 52 tk.push.toNat rfl <| peel 40 131 rfl <| place_hit d.isLt l4)
    (field_eq <| peel 60 tk.pop.toNat rfl <| peel 52 tk.push.toNat rfl <| peel 40 131 rfl <| peel 35 d.toNat rfl <| place_hit a.isLt l5)
    (field_eq <| peel 60 tk.pop.toNat rfl <| peel 52 tk.push.toNat rfl <| peel 40 131 rfl <| peel 35 d.toNat rfl <| peel 30 a.toNat rfl <| place_hit mk.isLt l6)
    (field_eq <| peel 60 tk.pop.toNat rfl <| peel 52 tk.push.toNat rfl <| peel 40 131 rfl <| peel 35 d.toNat rfl <| peel 30 a.toNat rfl <| peel 22 mk.toNat rfl <| place_hit i.isLt l7)
    (field_eq <| peel 60 tk.pop.toNat rfl <| peel 52 tk.push.toNat rfl <| peel 40 131 rfl <| peel 35 d.toNat rfl <| peel 30 a.toNat rfl <| peel 22 mk.toNat rfl <| place_zero (place_lt 6 i.isLt l7 rfl))⟩

theorem Encoding.vbcc (tk : Tok) (d a : BitVec 5) (mk : BitVec 3) (i : BitVec 6) : Encoding.Statement (.vbcc tk d a mk i) := by
  intro wd h
  have h0 : pack _ _ _ = wd := Option.some.inj h
  rw [pack_place] at h0; subst h0
  have l8 : place [] < 2 ^ 0 := Nat.two_pow_pos _
  have l7 := place_lt 6 i.isLt l8 rfl
  have l6 := place_lt 22 (show 1 < 2 ^ 1 by decide) l7 rfl
  have l5 := place_lt 30 mk.isLt l6 rfl
  have l4 := place_lt 35 a.isLt l5 rfl
  have l3 := place_lt 40 d.isLt l4 rfl
  have l2 := place_lt 52 (show 131 < 2 ^ 8 by decide) l3 rfl
  have l1 := place_lt 60 tk.push.isLt l2 rfl
  have l0 := place_lt 64 tk.pop.isLt l1 rfl
  have key : ∀ wd, nfield wd 45 3 = 4 → nfield wd 40 5 = 3 → field wd 60 4 = tk.pop → field wd 52 4 = tk.push → field wd 35 5 = d → field wd 30 5 = a → field wd 22 3 = mk → field wd 6 1 = 1#1 → field wd 0 6 = i → rawDecode wd = some (.vbcc tk d a mk i) := by
    intro _ e0 e1 e2 e3 e4 e5 e6 e7 e8; simp only [rawDecode, rawVec, e0, e1, e2, e3, e4, e5, e6, e7, e8]; rfl
  exact ⟨l0, key _ (peel 60 tk.pop.toNat rfl <| peel 52 tk.push.toNat rfl <| place_part 40 131 5 l3 rfl rfl)
    (peel 60 tk.pop.toNat rfl <| peel 52 tk.push.toNat rfl <| place_part 40 131 0 l3 rfl rfl)
    (field_eq <| place_hit tk.pop.isLt l1)
    (field_eq <| peel 60 tk.pop.toNat rfl <| place_hit tk.push.isLt l2)
    (field_eq <| peel 60 tk.pop.toNat rfl <| peel 52 tk.push.toNat rfl <| peel 40 131 rfl <| place_hit d.isLt l4)
    (field_eq <| peel 60 tk.pop.toNat rfl <| peel 52 tk.push.toNat rfl <| peel 40 131 rfl <| peel 35 d.toNat rfl <| place_hit a.isLt l5)
    (field_eq <| peel 60 tk.pop.toNat rfl <| peel 52 tk.push.toNat rfl <| peel 40 131 rfl <| peel 35 d.toNat rfl <| peel 30 a.toNat rfl <| place_hit mk.isLt l6)
    (field_eq <| peel 60 tk.pop.toNat rfl <| peel 52 tk.push.toNat rfl <| peel 40 131 rfl <| peel 35 d.toNat rfl <| peel 30 a.toNat rfl <| peel 22 mk.toNat rfl <| place_hit (v := 1) (show 1 < 2 ^ 1 by decide) l7)
    (field_eq <| peel 60 tk.pop.toNat rfl <| peel 52 tk.push.toNat rfl <| peel 40 131 rfl <| peel 35 d.toNat rfl <| peel 30 a.toNat rfl <| peel 22 mk.toNat rfl <| peel 6 1 rfl <| place_hit i.isLt l8)⟩

theorem Encoding.vrotr (tk : Tok) (d a : BitVec 5) (mk : BitVec 3) (z : BitVec 1) (k : BitVec 6) : Encoding.Statement (.vrotr tk d a mk z k) := by
  intro wd h
  have h0 : pack _ _ _ = wd := Option.some.inj h
  rw [pack_place] at h0; subst h0
  have l8 : place [] < 2 ^ 0 := Nat.two_pow_pos _
  have l7 := place_lt 7 k.isLt l8 rfl
  have l6 := place_lt 22 z.isLt l7 rfl
  have l5 := place_lt 30 mk.isLt l6 rfl
  have l4 := place_lt 35 a.isLt l5 rfl
  have l3 := place_lt 40 d.isLt l4 rfl
  have l2 := place_lt 52 (show 132 < 2 ^ 8 by decide) l3 rfl
  have l1 := place_lt 60 tk.push.isLt l2 rfl
  have l0 := place_lt 64 tk.pop.isLt l1 rfl
  have key : ∀ wd, nfield wd 45 3 = 4 → nfield wd 40 5 = 4 → field wd 60 4 = tk.pop → field wd 52 4 = tk.push → field wd 35 5 = d → field wd 30 5 = a → field wd 22 3 = mk → field wd 7 1 = z → field wd 0 6 = k → field wd 6 1 = 0#1 → rawDecode wd = some (.vrotr tk d a mk z k) := by
    intro _ e0 e1 e2 e3 e4 e5 e6 e7 e8 e9; simp only [rawDecode, rawVec, e0, e1, e2, e3, e4, e5, e6, e7, e8, e9]; rfl
  exact ⟨l0, key _ (peel 60 tk.pop.toNat rfl <| peel 52 tk.push.toNat rfl <| place_part 40 132 5 l3 rfl rfl)
    (peel 60 tk.pop.toNat rfl <| peel 52 tk.push.toNat rfl <| place_part 40 132 0 l3 rfl rfl)
    (field_eq <| place_hit tk.pop.isLt l1)
    (field_eq <| peel 60 tk.pop.toNat rfl <| place_hit tk.push.isLt l2)
    (field_eq <| peel 60 tk.pop.toNat rfl <| peel 52 tk.push.toNat rfl <| peel 40 132 rfl <| place_hit d.isLt l4)
    (field_eq <| peel 60 tk.pop.toNat rfl <| peel 52 tk.push.toNat rfl <| peel 40 132 rfl <| peel 35 d.toNat rfl <| place_hit a.isLt l5)
    (field_eq <| peel 60 tk.pop.toNat rfl <| peel 52 tk.push.toNat rfl <| peel 40 132 rfl <| peel 35 d.toNat rfl <| peel 30 a.toNat rfl <| place_hit mk.isLt l6)
    (field_eq <| peel 60 tk.pop.toNat rfl <| peel 52 tk.push.toNat rfl <| peel 40 132 rfl <| peel 35 d.toNat rfl <| peel 30 a.toNat rfl <| peel 22 mk.toNat rfl <| place_hit z.isLt l7)
    (field_eq <| peel 60 tk.pop.toNat rfl <| peel 52 tk.push.toNat rfl <| peel 40 132 rfl <| peel 35 d.toNat rfl <| peel 30 a.toNat rfl <| peel 22 mk.toNat rfl <| peel 7 z.toNat rfl <| place_hit k.isLt l8)
    (field_eq <| peel 60 tk.pop.toNat rfl <| peel 52 tk.push.toNat rfl <| peel 40 132 rfl <| peel 35 d.toNat rfl <| peel 30 a.toNat rfl <| peel 22 mk.toNat rfl <| peel 7 z.toNat rfl <| place_zero (place_lt 6 k.isLt l8 rfl))⟩

theorem Encoding.vrotc (tk : Tok) (d a : BitVec 5) (mk : BitVec 3) (z : BitVec 1) (k : BitVec 6) : Encoding.Statement (.vrotc tk d a mk z k) := by
  intro wd h
  have h0 : pack _ _ _ = wd := Option.some.inj h
  rw [pack_place] at h0; subst h0
  have l9 : place [] < 2 ^ 0 := Nat.two_pow_pos _
  have l8 := place_lt 6 k.isLt l9 rfl
  have l7 := place_lt 7 (show 1 < 2 ^ 1 by decide) l8 rfl
  have l6 := place_lt 22 z.isLt l7 rfl
  have l5 := place_lt 30 mk.isLt l6 rfl
  have l4 := place_lt 35 a.isLt l5 rfl
  have l3 := place_lt 40 d.isLt l4 rfl
  have l2 := place_lt 52 (show 132 < 2 ^ 8 by decide) l3 rfl
  have l1 := place_lt 60 tk.push.isLt l2 rfl
  have l0 := place_lt 64 tk.pop.isLt l1 rfl
  have key : ∀ wd, nfield wd 45 3 = 4 → nfield wd 40 5 = 4 → field wd 60 4 = tk.pop → field wd 52 4 = tk.push → field wd 35 5 = d → field wd 30 5 = a → field wd 22 3 = mk → field wd 7 1 = z → field wd 6 1 = 1#1 → field wd 0 6 = k → rawDecode wd = some (.vrotc tk d a mk z k) := by
    intro _ e0 e1 e2 e3 e4 e5 e6 e7 e8 e9; simp only [rawDecode, rawVec, e0, e1, e2, e3, e4, e5, e6, e7, e8, e9]; rfl
  exact ⟨l0, key _ (peel 60 tk.pop.toNat rfl <| peel 52 tk.push.toNat rfl <| place_part 40 132 5 l3 rfl rfl)
    (peel 60 tk.pop.toNat rfl <| peel 52 tk.push.toNat rfl <| place_part 40 132 0 l3 rfl rfl)
    (field_eq <| place_hit tk.pop.isLt l1)
    (field_eq <| peel 60 tk.pop.toNat rfl <| place_hit tk.push.isLt l2)
    (field_eq <| peel 60 tk.pop.toNat rfl <| peel 52 tk.push.toNat rfl <| peel 40 132 rfl <| place_hit d.isLt l4)
    (field_eq <| peel 60 tk.pop.toNat rfl <| peel 52 tk.push.toNat rfl <| peel 40 132 rfl <| peel 35 d.toNat rfl <| place_hit a.isLt l5)
    (field_eq <| peel 60 tk.pop.toNat rfl <| peel 52 tk.push.toNat rfl <| peel 40 132 rfl <| peel 35 d.toNat rfl <| peel 30 a.toNat rfl <| place_hit mk.isLt l6)
    (field_eq <| peel 60 tk.pop.toNat rfl <| peel 52 tk.push.toNat rfl <| peel 40 132 rfl <| peel 35 d.toNat rfl <| peel 30 a.toNat rfl <| peel 22 mk.toNat rfl <| place_hit z.isLt l7)
    (field_eq <| peel 60 tk.pop.toNat rfl <| peel 52 tk.push.toNat rfl <| peel 40 132 rfl <| peel 35 d.toNat rfl <| peel 30 a.toNat rfl <| peel 22 mk.toNat rfl <| peel 7 z.toNat rfl <| place_hit (v := 1) (show 1 < 2 ^ 1 by decide) l8)
    (field_eq <| peel 60 tk.pop.toNat rfl <| peel 52 tk.push.toNat rfl <| peel 40 132 rfl <| peel 35 d.toNat rfl <| peel 30 a.toNat rfl <| peel 22 mk.toNat rfl <| peel 7 z.toNat rfl <| peel 6 1 rfl <| place_hit k.isLt l9)⟩

theorem Encoding.valu (tk : Tok) (d a b : BitVec 5) (mk ty rd : BitVec 3) (sat : BitVec 1) (op : BitVec 4) : Encoding.Statement (.valu tk d a b mk ty rd sat op) := by
  intro wd h
  have h0 : pack _ _ _ = wd := Option.some.inj h
  rw [pack_place] at h0; subst h0
  have l11 : place [] < 2 ^ 0 := Nat.two_pow_pos _
  have l10 := place_lt 4 op.isLt l11 rfl
  have l9 := place_lt 16 sat.isLt l10 rfl
  have l8 := place_lt 19 rd.isLt l9 rfl
  have l7 := place_lt 22 ty.isLt l8 rfl
  have l6 := place_lt 25 mk.isLt l7 rfl
  have l5 := place_lt 30 b.isLt l6 rfl
  have l4 := place_lt 35 a.isLt l5 rfl
  have l3 := place_lt 40 d.isLt l4 rfl
  have l2 := place_lt 52 (show 133 < 2 ^ 8 by decide) l3 rfl
  have l1 := place_lt 60 tk.push.isLt l2 rfl
  have l0 := place_lt 64 tk.pop.isLt l1 rfl
  have key : ∀ wd, nfield wd 45 3 = 4 → nfield wd 40 5 = 5 → field wd 60 4 = tk.pop → field wd 52 4 = tk.push → field wd 35 5 = d → field wd 30 5 = a → field wd 25 5 = b → field wd 22 3 = mk → field wd 19 3 = ty → field wd 16 3 = rd → field wd 4 1 = sat → field wd 0 4 = op → rawDecode wd = some (.valu tk d a b mk ty rd sat op) := by
    intro _ e0 e1 e2 e3 e4 e5 e6 e7 e8 e9 e10 e11; simp only [rawDecode, rawVec, e0, e1, e2, e3, e4, e5, e6, e7, e8, e9, e10, e11]
  exact ⟨l0, key _ (peel 60 tk.pop.toNat rfl <| peel 52 tk.push.toNat rfl <| place_part 40 133 5 l3 rfl rfl)
    (peel 60 tk.pop.toNat rfl <| peel 52 tk.push.toNat rfl <| place_part 40 133 0 l3 rfl rfl)
    (field_eq <| place_hit tk.pop.isLt l1)
    (field_eq <| peel 60 tk.pop.toNat rfl <| place_hit tk.push.isLt l2)
    (field_eq <| peel 60 tk.pop.toNat rfl <| peel 52 tk.push.toNat rfl <| peel 40 133 rfl <| place_hit d.isLt l4)
    (field_eq <| peel 60 tk.pop.toNat rfl <| peel 52 tk.push.toNat rfl <| peel 40 133 rfl <| peel 35 d.toNat rfl <| place_hit a.isLt l5)
    (field_eq <| peel 60 tk.pop.toNat rfl <| peel 52 tk.push.toNat rfl <| peel 40 133 rfl <| peel 35 d.toNat rfl <| peel 30 a.toNat rfl <| place_hit b.isLt l6)
    (field_eq <| peel 60 tk.pop.toNat rfl <| peel 52 tk.push.toNat rfl <| peel 40 133 rfl <| peel 35 d.toNat rfl <| peel 30 a.toNat rfl <| peel 25 b.toNat rfl <| place_hit mk.isLt l7)
    (field_eq <| peel 60 tk.pop.toNat rfl <| peel 52 tk.push.toNat rfl <| peel 40 133 rfl <| peel 35 d.toNat rfl <| peel 30 a.toNat rfl <| peel 25 b.toNat rfl <| peel 22 mk.toNat rfl <| place_hit ty.isLt l8)
    (field_eq <| peel 60 tk.pop.toNat rfl <| peel 52 tk.push.toNat rfl <| peel 40 133 rfl <| peel 35 d.toNat rfl <| peel 30 a.toNat rfl <| peel 25 b.toNat rfl <| peel 22 mk.toNat rfl <| peel 19 ty.toNat rfl <| place_hit rd.isLt l9)
    (field_eq <| peel 60 tk.pop.toNat rfl <| peel 52 tk.push.toNat rfl <| peel 40 133 rfl <| peel 35 d.toNat rfl <| peel 30 a.toNat rfl <| peel 25 b.toNat rfl <| peel 22 mk.toNat rfl <| peel 19 ty.toNat rfl <| peel 16 rd.toNat rfl <| place_hit sat.isLt l10)
    (field_eq <| peel 60 tk.pop.toNat rfl <| peel 52 tk.push.toNat rfl <| peel 40 133 rfl <| peel 35 d.toNat rfl <| peel 30 a.toNat rfl <| peel 25 b.toNat rfl <| peel 22 mk.toNat rfl <| peel 19 ty.toNat rfl <| peel 16 rd.toNat rfl <| peel 4 sat.toNat rfl <| place_hit op.isLt l11)⟩

theorem Encoding.vfma (tk : Tok) (d a b : BitVec 5) (mk ty rd : BitVec 3) (op : BitVec 2) : Encoding.Statement (.vfma tk d a b mk ty rd op) := by
  intro wd h
  have h0 : pack _ _ _ = wd := Option.some.inj h
  rw [pack_place] at h0; subst h0
  have l10 : place [] < 2 ^ 0 := Nat.two_pow_pos _
  have l9 := place_lt 16 op.isLt l10 rfl
  have l8 := place_lt 19 rd.isLt l9 rfl
  have l7 := place_lt 22 ty.isLt l8 rfl
  have l6 := place_lt 25 mk.isLt l7 rfl
  have l5 := place_lt 30 b.isLt l6 rfl
  have l4 := place_lt 35 a.isLt l5 rfl
  have l3 := place_lt 40 d.isLt l4 rfl
  have l2 := place_lt 52 (show 134 < 2 ^ 8 by decide) l3 rfl
  have l1 := place_lt 60 tk.push.isLt l2 rfl
  have l0 := place_lt 64 tk.pop.isLt l1 rfl
  have key : ∀ wd, nfield wd 45 3 = 4 → nfield wd 40 5 = 6 → field wd 60 4 = tk.pop → field wd 52 4 = tk.push → field wd 35 5 = d → field wd 30 5 = a → field wd 25 5 = b → field wd 22 3 = mk → field wd 19 3 = ty → field wd 16 3 = rd → field wd 0 2 = op → rawDecode wd = some (.vfma tk d a b mk ty rd op) := by
    intro _ e0 e1 e2 e3 e4 e5 e6 e7 e8 e9 e10; simp only [rawDecode, rawVec, e0, e1, e2, e3, e4, e5, e6, e7, e8, e9, e10]
  exact ⟨l0, key _ (peel 60 tk.pop.toNat rfl <| peel 52 tk.push.toNat rfl <| place_part 40 134 5 l3 rfl rfl)
    (peel 60 tk.pop.toNat rfl <| peel 52 tk.push.toNat rfl <| place_part 40 134 0 l3 rfl rfl)
    (field_eq <| place_hit tk.pop.isLt l1)
    (field_eq <| peel 60 tk.pop.toNat rfl <| place_hit tk.push.isLt l2)
    (field_eq <| peel 60 tk.pop.toNat rfl <| peel 52 tk.push.toNat rfl <| peel 40 134 rfl <| place_hit d.isLt l4)
    (field_eq <| peel 60 tk.pop.toNat rfl <| peel 52 tk.push.toNat rfl <| peel 40 134 rfl <| peel 35 d.toNat rfl <| place_hit a.isLt l5)
    (field_eq <| peel 60 tk.pop.toNat rfl <| peel 52 tk.push.toNat rfl <| peel 40 134 rfl <| peel 35 d.toNat rfl <| peel 30 a.toNat rfl <| place_hit b.isLt l6)
    (field_eq <| peel 60 tk.pop.toNat rfl <| peel 52 tk.push.toNat rfl <| peel 40 134 rfl <| peel 35 d.toNat rfl <| peel 30 a.toNat rfl <| peel 25 b.toNat rfl <| place_hit mk.isLt l7)
    (field_eq <| peel 60 tk.pop.toNat rfl <| peel 52 tk.push.toNat rfl <| peel 40 134 rfl <| peel 35 d.toNat rfl <| peel 30 a.toNat rfl <| peel 25 b.toNat rfl <| peel 22 mk.toNat rfl <| place_hit ty.isLt l8)
    (field_eq <| peel 60 tk.pop.toNat rfl <| peel 52 tk.push.toNat rfl <| peel 40 134 rfl <| peel 35 d.toNat rfl <| peel 30 a.toNat rfl <| peel 25 b.toNat rfl <| peel 22 mk.toNat rfl <| peel 19 ty.toNat rfl <| place_hit rd.isLt l9)
    (field_eq <| peel 60 tk.pop.toNat rfl <| peel 52 tk.push.toNat rfl <| peel 40 134 rfl <| peel 35 d.toNat rfl <| peel 30 a.toNat rfl <| peel 25 b.toNat rfl <| peel 22 mk.toNat rfl <| peel 19 ty.toNat rfl <| peel 16 rd.toNat rfl <| place_hit op.isLt l10)⟩

theorem Encoding.vlogic (tk : Tok) (d a b : BitVec 5) (mk : BitVec 3) (sh : BitVec 5) (im : BitVec 1) (op : BitVec 4) : Encoding.Statement (.vlogic tk d a b mk sh im op) := by
  intro wd h
  have h0 : pack _ _ _ = wd := Option.some.inj h
  rw [pack_place] at h0; subst h0
  have l10 : place [] < 2 ^ 0 := Nat.two_pow_pos _
  have l9 := place_lt 4 op.isLt l10 rfl
  have l8 := place_lt 5 im.isLt l9 rfl
  have l7 := place_lt 22 sh.isLt l8 rfl
  have l6 := place_lt 25 mk.isLt l7 rfl
  have l5 := place_lt 30 b.isLt l6 rfl
  have l4 := place_lt 35 a.isLt l5 rfl
  have l3 := place_lt 40 d.isLt l4 rfl
  have l2 := place_lt 52 (show 135 < 2 ^ 8 by decide) l3 rfl
  have l1 := place_lt 60 tk.push.isLt l2 rfl
  have l0 := place_lt 64 tk.pop.isLt l1 rfl
  have key : ∀ wd, nfield wd 45 3 = 4 → nfield wd 40 5 = 7 → field wd 60 4 = tk.pop → field wd 52 4 = tk.push → field wd 35 5 = d → field wd 30 5 = a → field wd 25 5 = b → field wd 22 3 = mk → field wd 5 5 = sh → field wd 4 1 = im → field wd 0 4 = op → rawDecode wd = some (.vlogic tk d a b mk sh im op) := by
    intro _ e0 e1 e2 e3 e4 e5 e6 e7 e8 e9 e10; simp only [rawDecode, rawVec, e0, e1, e2, e3, e4, e5, e6, e7, e8, e9, e10]
  exact ⟨l0, key _ (peel 60 tk.pop.toNat rfl <| peel 52 tk.push.toNat rfl <| place_part 40 135 5 l3 rfl rfl)
    (peel 60 tk.pop.toNat rfl <| peel 52 tk.push.toNat rfl <| place_part 40 135 0 l3 rfl rfl)
    (field_eq <| place_hit tk.pop.isLt l1)
    (field_eq <| peel 60 tk.pop.toNat rfl <| place_hit tk.push.isLt l2)
    (field_eq <| peel 60 tk.pop.toNat rfl <| peel 52 tk.push.toNat rfl <| peel 40 135 rfl <| place_hit d.isLt l4)
    (field_eq <| peel 60 tk.pop.toNat rfl <| peel 52 tk.push.toNat rfl <| peel 40 135 rfl <| peel 35 d.toNat rfl <| place_hit a.isLt l5)
    (field_eq <| peel 60 tk.pop.toNat rfl <| peel 52 tk.push.toNat rfl <| peel 40 135 rfl <| peel 35 d.toNat rfl <| peel 30 a.toNat rfl <| place_hit b.isLt l6)
    (field_eq <| peel 60 tk.pop.toNat rfl <| peel 52 tk.push.toNat rfl <| peel 40 135 rfl <| peel 35 d.toNat rfl <| peel 30 a.toNat rfl <| peel 25 b.toNat rfl <| place_hit mk.isLt l7)
    (field_eq <| peel 60 tk.pop.toNat rfl <| peel 52 tk.push.toNat rfl <| peel 40 135 rfl <| peel 35 d.toNat rfl <| peel 30 a.toNat rfl <| peel 25 b.toNat rfl <| peel 22 mk.toNat rfl <| place_hit sh.isLt l8)
    (field_eq <| peel 60 tk.pop.toNat rfl <| peel 52 tk.push.toNat rfl <| peel 40 135 rfl <| peel 35 d.toNat rfl <| peel 30 a.toNat rfl <| peel 25 b.toNat rfl <| peel 22 mk.toNat rfl <| peel 5 sh.toNat rfl <| place_hit im.isLt l9)
    (field_eq <| peel 60 tk.pop.toNat rfl <| peel 52 tk.push.toNat rfl <| peel 40 135 rfl <| peel 35 d.toNat rfl <| peel 30 a.toNat rfl <| peel 25 b.toNat rfl <| peel 22 mk.toNat rfl <| peel 5 sh.toNat rfl <| peel 4 im.toNat rfl <| place_hit op.isLt l10)⟩

theorem Encoding.vcmp (tk : Tok) (d a b : BitVec 5) (mk ty cond : BitVec 3) : Encoding.Statement (.vcmp tk d a b mk ty cond) := by
  intro wd h
  have h0 : pack _ _ _ = wd := Option.some.inj h
  rw [pack_place] at h0; subst h0
  have l9 : place [] < 2 ^ 0 := Nat.two_pow_pos _
  have l8 := place_lt 19 cond.isLt l9 rfl
  have l7 := place_lt 22 ty.isLt l8 rfl
  have l6 := place_lt 25 mk.isLt l7 rfl
  have l5 := place_lt 30 b.isLt l6 rfl
  have l4 := place_lt 35 a.isLt l5 rfl
  have l3 := place_lt 40 d.isLt l4 rfl
  have l2 := place_lt 52 (show 136 < 2 ^ 8 by decide) l3 rfl
  have l1 := place_lt 60 tk.push.isLt l2 rfl
  have l0 := place_lt 64 tk.pop.isLt l1 rfl
  have key : ∀ wd, nfield wd 45 3 = 4 → nfield wd 40 5 = 8 → field wd 60 4 = tk.pop → field wd 52 4 = tk.push → field wd 35 5 = d → field wd 30 5 = a → field wd 25 5 = b → field wd 22 3 = mk → field wd 19 3 = ty → field wd 0 3 = cond → rawDecode wd = some (.vcmp tk d a b mk ty cond) := by
    intro _ e0 e1 e2 e3 e4 e5 e6 e7 e8 e9; simp only [rawDecode, rawVec, e0, e1, e2, e3, e4, e5, e6, e7, e8, e9]
  exact ⟨l0, key _ (peel 60 tk.pop.toNat rfl <| peel 52 tk.push.toNat rfl <| place_part 40 136 5 l3 rfl rfl)
    (peel 60 tk.pop.toNat rfl <| peel 52 tk.push.toNat rfl <| place_part 40 136 0 l3 rfl rfl)
    (field_eq <| place_hit tk.pop.isLt l1)
    (field_eq <| peel 60 tk.pop.toNat rfl <| place_hit tk.push.isLt l2)
    (field_eq <| peel 60 tk.pop.toNat rfl <| peel 52 tk.push.toNat rfl <| peel 40 136 rfl <| place_hit d.isLt l4)
    (field_eq <| peel 60 tk.pop.toNat rfl <| peel 52 tk.push.toNat rfl <| peel 40 136 rfl <| peel 35 d.toNat rfl <| place_hit a.isLt l5)
    (field_eq <| peel 60 tk.pop.toNat rfl <| peel 52 tk.push.toNat rfl <| peel 40 136 rfl <| peel 35 d.toNat rfl <| peel 30 a.toNat rfl <| place_hit b.isLt l6)
    (field_eq <| peel 60 tk.pop.toNat rfl <| peel 52 tk.push.toNat rfl <| peel 40 136 rfl <| peel 35 d.toNat rfl <| peel 30 a.toNat rfl <| peel 25 b.toNat rfl <| place_hit mk.isLt l7)
    (field_eq <| peel 60 tk.pop.toNat rfl <| peel 52 tk.push.toNat rfl <| peel 40 136 rfl <| peel 35 d.toNat rfl <| peel 30 a.toNat rfl <| peel 25 b.toNat rfl <| peel 22 mk.toNat rfl <| place_hit ty.isLt l8)
    (field_eq <| peel 60 tk.pop.toNat rfl <| peel 52 tk.push.toNat rfl <| peel 40 136 rfl <| peel 35 d.toNat rfl <| peel 30 a.toNat rfl <| peel 25 b.toNat rfl <| peel 22 mk.toNat rfl <| peel 19 ty.toNat rfl <| place_hit cond.isLt l9)⟩

theorem Encoding.vsel (tk : Tok) (d a b : BitVec 5) (mk : BitVec 3) : Encoding.Statement (.vsel tk d a b mk) := by
  intro wd h
  have h0 : pack _ _ _ = wd := Option.some.inj h
  rw [pack_place] at h0; subst h0
  have l7 : place [] < 2 ^ 22 := Nat.two_pow_pos _
  have l6 := place_lt 25 mk.isLt l7 rfl
  have l5 := place_lt 30 b.isLt l6 rfl
  have l4 := place_lt 35 a.isLt l5 rfl
  have l3 := place_lt 40 d.isLt l4 rfl
  have l2 := place_lt 52 (show 137 < 2 ^ 8 by decide) l3 rfl
  have l1 := place_lt 60 tk.push.isLt l2 rfl
  have l0 := place_lt 64 tk.pop.isLt l1 rfl
  have key : ∀ wd, nfield wd 45 3 = 4 → nfield wd 40 5 = 9 → field wd 60 4 = tk.pop → field wd 52 4 = tk.push → field wd 35 5 = d → field wd 30 5 = a → field wd 25 5 = b → field wd 22 3 = mk → rawDecode wd = some (.vsel tk d a b mk) := by
    intro _ e0 e1 e2 e3 e4 e5 e6 e7; simp only [rawDecode, rawVec, e0, e1, e2, e3, e4, e5, e6, e7]
  exact ⟨l0, key _ (peel 60 tk.pop.toNat rfl <| peel 52 tk.push.toNat rfl <| place_part 40 137 5 l3 rfl rfl)
    (peel 60 tk.pop.toNat rfl <| peel 52 tk.push.toNat rfl <| place_part 40 137 0 l3 rfl rfl)
    (field_eq <| place_hit tk.pop.isLt l1)
    (field_eq <| peel 60 tk.pop.toNat rfl <| place_hit tk.push.isLt l2)
    (field_eq <| peel 60 tk.pop.toNat rfl <| peel 52 tk.push.toNat rfl <| peel 40 137 rfl <| place_hit d.isLt l4)
    (field_eq <| peel 60 tk.pop.toNat rfl <| peel 52 tk.push.toNat rfl <| peel 40 137 rfl <| peel 35 d.toNat rfl <| place_hit a.isLt l5)
    (field_eq <| peel 60 tk.pop.toNat rfl <| peel 52 tk.push.toNat rfl <| peel 40 137 rfl <| peel 35 d.toNat rfl <| peel 30 a.toNat rfl <| place_hit b.isLt l6)
    (field_eq <| peel 60 tk.pop.toNat rfl <| peel 52 tk.push.toNat rfl <| peel 40 137 rfl <| peel 35 d.toNat rfl <| peel 30 a.toNat rfl <| peel 25 b.toNat rfl <| place_hit mk.isLt l7)⟩

theorem Encoding.vredr (tk : Tok) (d a : BitVec 5) (mk ty rd : BitVec 3) (bc : BitVec 1) (op : BitVec 3) : Encoding.Statement (.vredr tk d a mk ty rd bc op) := by
  intro wd h
  have h0 : pack _ _ _ = wd := Option.some.inj h
  rw [pack_place] at h0; subst h0
  have l10 : place [] < 2 ^ 0 := Nat.two_pow_pos _
  have l9 := place_lt 4 op.isLt l10 rfl
  have l8 := place_lt 16 bc.isLt l9 rfl
  have l7 := place_lt 19 rd.isLt l8 rfl
  have l6 := place_lt 22 ty.isLt l7 rfl
  have l5 := place_lt 30 mk.isLt l6 rfl
  have l4 := place_lt 35 a.isLt l5 rfl
  have l3 := place_lt 40 d.isLt l4 rfl
  have l2 := place_lt 52 (show 138 < 2 ^ 8 by decide) l3 rfl
  have l1 := place_lt 60 tk.push.isLt l2 rfl
  have l0 := place_lt 64 tk.pop.isLt l1 rfl
  have key : ∀ wd, nfield wd 45 3 = 4 → nfield wd 40 5 = 10 → field wd 60 4 = tk.pop → field wd 52 4 = tk.push → field wd 35 5 = d → field wd 30 5 = a → field wd 22 3 = mk → field wd 19 3 = ty → field wd 16 3 = rd → field wd 4 1 = bc → field wd 0 3 = op → field wd 3 1 = 0#1 → rawDecode wd = some (.vredr tk d a mk ty rd bc op) := by
    intro _ e0 e1 e2 e3 e4 e5 e6 e7 e8 e9 e10 e11; simp only [rawDecode, rawVec, e0, e1, e2, e3, e4, e5, e6, e7, e8, e9, e10, e11]; rfl
  exact ⟨l0, key _ (peel 60 tk.pop.toNat rfl <| peel 52 tk.push.toNat rfl <| place_part 40 138 5 l3 rfl rfl)
    (peel 60 tk.pop.toNat rfl <| peel 52 tk.push.toNat rfl <| place_part 40 138 0 l3 rfl rfl)
    (field_eq <| place_hit tk.pop.isLt l1)
    (field_eq <| peel 60 tk.pop.toNat rfl <| place_hit tk.push.isLt l2)
    (field_eq <| peel 60 tk.pop.toNat rfl <| peel 52 tk.push.toNat rfl <| peel 40 138 rfl <| place_hit d.isLt l4)
    (field_eq <| peel 60 tk.pop.toNat rfl <| peel 52 tk.push.toNat rfl <| peel 40 138 rfl <| peel 35 d.toNat rfl <| place_hit a.isLt l5)
    (field_eq <| peel 60 tk.pop.toNat rfl <| peel 52 tk.push.toNat rfl <| peel 40 138 rfl <| peel 35 d.toNat rfl <| peel 30 a.toNat rfl <| place_hit mk.isLt l6)
    (field_eq <| peel 60 tk.pop.toNat rfl <| peel 52 tk.push.toNat rfl <| peel 40 138 rfl <| peel 35 d.toNat rfl <| peel 30 a.toNat rfl <| peel 22 mk.toNat rfl <| place_hit ty.isLt l7)
    (field_eq <| peel 60 tk.pop.toNat rfl <| peel 52 tk.push.toNat rfl <| peel 40 138 rfl <| peel 35 d.toNat rfl <| peel 30 a.toNat rfl <| peel 22 mk.toNat rfl <| peel 19 ty.toNat rfl <| place_hit rd.isLt l8)
    (field_eq <| peel 60 tk.pop.toNat rfl <| peel 52 tk.push.toNat rfl <| peel 40 138 rfl <| peel 35 d.toNat rfl <| peel 30 a.toNat rfl <| peel 22 mk.toNat rfl <| peel 19 ty.toNat rfl <| peel 16 rd.toNat rfl <| place_hit bc.isLt l9)
    (field_eq <| peel 60 tk.pop.toNat rfl <| peel 52 tk.push.toNat rfl <| peel 40 138 rfl <| peel 35 d.toNat rfl <| peel 30 a.toNat rfl <| peel 22 mk.toNat rfl <| peel 19 ty.toNat rfl <| peel 16 rd.toNat rfl <| peel 4 bc.toNat rfl <| place_hit op.isLt l10)
    (field_eq <| peel 60 tk.pop.toNat rfl <| peel 52 tk.push.toNat rfl <| peel 40 138 rfl <| peel 35 d.toNat rfl <| peel 30 a.toNat rfl <| peel 22 mk.toNat rfl <| peel 19 ty.toNat rfl <| peel 16 rd.toNat rfl <| peel 4 bc.toNat rfl <| place_zero (place_lt 3 op.isLt l10 rfl))⟩

theorem Encoding.vredc (tk : Tok) (d a : BitVec 5) (mk ty rd : BitVec 3) (bc : BitVec 1) (op : BitVec 3) : Encoding.Statement (.vredc tk d a mk ty rd bc op) := by
  intro wd h
  have h0 : pack _ _ _ = wd := Option.some.inj h
  rw [pack_place] at h0; subst h0
  have l11 : place [] < 2 ^ 0 := Nat.two_pow_pos _
  have l10 := place_lt 3 op.isLt l11 rfl
  have l9 := place_lt 4 (show 1 < 2 ^ 1 by decide) l10 rfl
  have l8 := place_lt 16 bc.isLt l9 rfl
  have l7 := place_lt 19 rd.isLt l8 rfl
  have l6 := place_lt 22 ty.isLt l7 rfl
  have l5 := place_lt 30 mk.isLt l6 rfl
  have l4 := place_lt 35 a.isLt l5 rfl
  have l3 := place_lt 40 d.isLt l4 rfl
  have l2 := place_lt 52 (show 138 < 2 ^ 8 by decide) l3 rfl
  have l1 := place_lt 60 tk.push.isLt l2 rfl
  have l0 := place_lt 64 tk.pop.isLt l1 rfl
  have key : ∀ wd, nfield wd 45 3 = 4 → nfield wd 40 5 = 10 → field wd 60 4 = tk.pop → field wd 52 4 = tk.push → field wd 35 5 = d → field wd 30 5 = a → field wd 22 3 = mk → field wd 19 3 = ty → field wd 16 3 = rd → field wd 4 1 = bc → field wd 3 1 = 1#1 → field wd 0 3 = op → rawDecode wd = some (.vredc tk d a mk ty rd bc op) := by
    intro _ e0 e1 e2 e3 e4 e5 e6 e7 e8 e9 e10 e11; simp only [rawDecode, rawVec, e0, e1, e2, e3, e4, e5, e6, e7, e8, e9, e10, e11]; rfl
  exact ⟨l0, key _ (peel 60 tk.pop.toNat rfl <| peel 52 tk.push.toNat rfl <| place_part 40 138 5 l3 rfl rfl)
    (peel 60 tk.pop.toNat rfl <| peel 52 tk.push.toNat rfl <| place_part 40 138 0 l3 rfl rfl)
    (field_eq <| place_hit tk.pop.isLt l1)
    (field_eq <| peel 60 tk.pop.toNat rfl <| place_hit tk.push.isLt l2)
    (field_eq <| peel 60 tk.pop.toNat rfl <| peel 52 tk.push.toNat rfl <| peel 40 138 rfl <| place_hit d.isLt l4)
    (field_eq <| peel 60 tk.pop.toNat rfl <| peel 52 tk.push.toNat rfl <| peel 40 138 rfl <| peel 35 d.toNat rfl <| place_hit a.isLt l5)
    (field_eq <| peel 60 tk.pop.toNat rfl <| peel 52 tk.push.toNat rfl <| peel 40 138 rfl <| peel 35 d.toNat rfl <| peel 30 a.toNat rfl <| place_hit mk.isLt l6)
    (field_eq <| peel 60 tk.pop.toNat rfl <| peel 52 tk.push.toNat rfl <| peel 40 138 rfl <| peel 35 d.toNat rfl <| peel 30 a.toNat rfl <| peel 22 mk.toNat rfl <| place_hit ty.isLt l7)
    (field_eq <| peel 60 tk.pop.toNat rfl <| peel 52 tk.push.toNat rfl <| peel 40 138 rfl <| peel 35 d.toNat rfl <| peel 30 a.toNat rfl <| peel 22 mk.toNat rfl <| peel 19 ty.toNat rfl <| place_hit rd.isLt l8)
    (field_eq <| peel 60 tk.pop.toNat rfl <| peel 52 tk.push.toNat rfl <| peel 40 138 rfl <| peel 35 d.toNat rfl <| peel 30 a.toNat rfl <| peel 22 mk.toNat rfl <| peel 19 ty.toNat rfl <| peel 16 rd.toNat rfl <| place_hit bc.isLt l9)
    (field_eq <| peel 60 tk.pop.toNat rfl <| peel 52 tk.push.toNat rfl <| peel 40 138 rfl <| peel 35 d.toNat rfl <| peel 30 a.toNat rfl <| peel 22 mk.toNat rfl <| peel 19 ty.toNat rfl <| peel 16 rd.toNat rfl <| peel 4 bc.toNat rfl <| place_hit (v := 1) (show 1 < 2 ^ 1 by decide) l10)
    (field_eq <| peel 60 tk.pop.toNat rfl <| peel 52 tk.push.toNat rfl <| peel 40 138 rfl <| peel 35 d.toNat rfl <| peel 30 a.toNat rfl <| peel 22 mk.toNat rfl <| peel 19 ty.toNat rfl <| peel 16 rd.toNat rfl <| peel 4 bc.toNat rfl <| peel 3 1 rfl <| place_hit op.isLt l11)⟩

theorem Encoding.vscan (tk : Tok) (d a : BitVec 5) (mk ty rd : BitVec 3) (ex axis : BitVec 1) (op : BitVec 3) : Encoding.Statement (.vscan tk d a mk ty rd ex axis op) := by
  intro wd h
  have h0 : pack _ _ _ = wd := Option.some.inj h
  rw [pack_place] at h0; subst h0
  have l11 : place [] < 2 ^ 0 := Nat.two_pow_pos _
  have l10 := place_lt 3 op.isLt l11 rfl
  have l9 := place_lt 4 axis.isLt l10 rfl
  have l8 := place_lt 16 ex.isLt l9 rfl
  have l7 := place_lt 19 rd.isLt l8 rfl
  have l6 := place_lt 22 ty.isLt l7 rfl
  have l5 := place_lt 30 mk.isLt l6 rfl
  have l4 := place_lt 35 a.isLt l5 rfl
  have l3 := place_lt 40 d.isLt l4 rfl
  have l2 := place_lt 52 (show 139 < 2 ^ 8 by decide) l3 rfl
  have l1 := place_lt 60 tk.push.isLt l2 rfl
  have l0 := place_lt 64 tk.pop.isLt l1 rfl
  have key : ∀ wd, nfield wd 45 3 = 4 → nfield wd 40 5 = 11 → field wd 60 4 = tk.pop → field wd 52 4 = tk.push → field wd 35 5 = d → field wd 30 5 = a → field wd 22 3 = mk → field wd 19 3 = ty → field wd 16 3 = rd → field wd 4 1 = ex → field wd 3 1 = axis → field wd 0 3 = op → rawDecode wd = some (.vscan tk d a mk ty rd ex axis op) := by
    intro _ e0 e1 e2 e3 e4 e5 e6 e7 e8 e9 e10 e11; simp only [rawDecode, rawVec, e0, e1, e2, e3, e4, e5, e6, e7, e8, e9, e10, e11]
  exact ⟨l0, key _ (peel 60 tk.pop.toNat rfl <| peel 52 tk.push.toNat rfl <| place_part 40 139 5 l3 rfl rfl)
    (peel 60 tk.pop.toNat rfl <| peel 52 tk.push.toNat rfl <| place_part 40 139 0 l3 rfl rfl)
    (field_eq <| place_hit tk.pop.isLt l1)
    (field_eq <| peel 60 tk.pop.toNat rfl <| place_hit tk.push.isLt l2)
    (field_eq <| peel 60 tk.pop.toNat rfl <| peel 52 tk.push.toNat rfl <| peel 40 139 rfl <| place_hit d.isLt l4)
    (field_eq <| peel 60 tk.pop.toNat rfl <| peel 52 tk.push.toNat rfl <| peel 40 139 rfl <| peel 35 d.toNat rfl <| place_hit a.isLt l5)
    (field_eq <| peel 60 tk.pop.toNat rfl <| peel 52 tk.push.toNat rfl <| peel 40 139 rfl <| peel 35 d.toNat rfl <| peel 30 a.toNat rfl <| place_hit mk.isLt l6)
    (field_eq <| peel 60 tk.pop.toNat rfl <| peel 52 tk.push.toNat rfl <| peel 40 139 rfl <| peel 35 d.toNat rfl <| peel 30 a.toNat rfl <| peel 22 mk.toNat rfl <| place_hit ty.isLt l7)
    (field_eq <| peel 60 tk.pop.toNat rfl <| peel 52 tk.push.toNat rfl <| peel 40 139 rfl <| peel 35 d.toNat rfl <| peel 30 a.toNat rfl <| peel 22 mk.toNat rfl <| peel 19 ty.toNat rfl <| place_hit rd.isLt l8)
    (field_eq <| peel 60 tk.pop.toNat rfl <| peel 52 tk.push.toNat rfl <| peel 40 139 rfl <| peel 35 d.toNat rfl <| peel 30 a.toNat rfl <| peel 22 mk.toNat rfl <| peel 19 ty.toNat rfl <| peel 16 rd.toNat rfl <| place_hit ex.isLt l9)
    (field_eq <| peel 60 tk.pop.toNat rfl <| peel 52 tk.push.toNat rfl <| peel 40 139 rfl <| peel 35 d.toNat rfl <| peel 30 a.toNat rfl <| peel 22 mk.toNat rfl <| peel 19 ty.toNat rfl <| peel 16 rd.toNat rfl <| peel 4 ex.toNat rfl <| place_hit axis.isLt l10)
    (field_eq <| peel 60 tk.pop.toNat rfl <| peel 52 tk.push.toNat rfl <| peel 40 139 rfl <| peel 35 d.toNat rfl <| peel 30 a.toNat rfl <| peel 22 mk.toNat rfl <| peel 19 ty.toNat rfl <| peel 16 rd.toNat rfl <| peel 4 ex.toNat rfl <| peel 3 axis.toNat rfl <| place_hit op.isLt l11)⟩

theorem Encoding.vcvt (tk : Tok) (d a : BitVec 5) (mk ty rd : BitVec 3) (dir : BitVec 1) (code : BitVec 3) : Encoding.Statement (.vcvt tk d a mk ty rd dir code) := by
  intro wd h
  have h0 : pack _ _ _ = wd := Option.some.inj h
  rw [pack_place] at h0; subst h0
  have l10 : place [] < 2 ^ 0 := Nat.two_pow_pos _
  have l9 := place_lt 3 code.isLt l10 rfl
  have l8 := place_lt 16 dir.isLt l9 rfl
  have l7 := place_lt 19 rd.isLt l8 rfl
  have l6 := place_lt 22 ty.isLt l7 rfl
  have l5 := place_lt 30 mk.isLt l6 rfl
  have l4 := place_lt 35 a.isLt l5 rfl
  have l3 := place_lt 40 d.isLt l4 rfl
  have l2 := place_lt 52 (show 140 < 2 ^ 8 by decide) l3 rfl
  have l1 := place_lt 60 tk.push.isLt l2 rfl
  have l0 := place_lt 64 tk.pop.isLt l1 rfl
  have key : ∀ wd, nfield wd 45 3 = 4 → nfield wd 40 5 = 12 → field wd 60 4 = tk.pop → field wd 52 4 = tk.push → field wd 35 5 = d → field wd 30 5 = a → field wd 22 3 = mk → field wd 19 3 = ty → field wd 16 3 = rd → field wd 3 1 = dir → field wd 0 3 = code → rawDecode wd = some (.vcvt tk d a mk ty rd dir code) := by
    intro _ e0 e1 e2 e3 e4 e5 e6 e7 e8 e9 e10; simp only [rawDecode, rawVec, e0, e1, e2, e3, e4, e5, e6, e7, e8, e9, e10]
  exact ⟨l0, key _ (peel 60 tk.pop.toNat rfl <| peel 52 tk.push.toNat rfl <| place_part 40 140 5 l3 rfl rfl)
    (peel 60 tk.pop.toNat rfl <| peel 52 tk.push.toNat rfl <| place_part 40 140 0 l3 rfl rfl)
    (field_eq <| place_hit tk.pop.isLt l1)
    (field_eq <| peel 60 tk.pop.toNat rfl <| place_hit tk.push.isLt l2)
    (field_eq <| peel 60 tk.pop.toNat rfl <| peel 52 tk.push.toNat rfl <| peel 40 140 rfl <| place_hit d.isLt l4)
    (field_eq <| peel 60 tk.pop.toNat rfl <| peel 52 tk.push.toNat rfl <| peel 40 140 rfl <| peel 35 d.toNat rfl <| place_hit a.isLt l5)
    (field_eq <| peel 60 tk.pop.toNat rfl <| peel 52 tk.push.toNat rfl <| peel 40 140 rfl <| peel 35 d.toNat rfl <| peel 30 a.toNat rfl <| place_hit mk.isLt l6)
    (field_eq <| peel 60 tk.pop.toNat rfl <| peel 52 tk.push.toNat rfl <| peel 40 140 rfl <| peel 35 d.toNat rfl <| peel 30 a.toNat rfl <| peel 22 mk.toNat rfl <| place_hit ty.isLt l7)
    (field_eq <| peel 60 tk.pop.toNat rfl <| peel 52 tk.push.toNat rfl <| peel 40 140 rfl <| peel 35 d.toNat rfl <| peel 30 a.toNat rfl <| peel 22 mk.toNat rfl <| peel 19 ty.toNat rfl <| place_hit rd.isLt l8)
    (field_eq <| peel 60 tk.pop.toNat rfl <| peel 52 tk.push.toNat rfl <| peel 40 140 rfl <| peel 35 d.toNat rfl <| peel 30 a.toNat rfl <| peel 22 mk.toNat rfl <| peel 19 ty.toNat rfl <| peel 16 rd.toNat rfl <| place_hit dir.isLt l9)
    (field_eq <| peel 60 tk.pop.toNat rfl <| peel 52 tk.push.toNat rfl <| peel 40 140 rfl <| peel 35 d.toNat rfl <| peel 30 a.toNat rfl <| peel 22 mk.toNat rfl <| peel 19 ty.toNat rfl <| peel 16 rd.toNat rfl <| peel 3 dir.toNat rfl <| place_hit code.isLt l10)⟩

theorem Encoding.vrcp (tk : Tok) (d a : BitVec 5) (mk : BitVec 3) : Encoding.Statement (.vrcp tk d a mk) := by
  intro wd h
  have h0 : pack _ _ _ = wd := Option.some.inj h
  rw [pack_place] at h0; subst h0
  have l6 : place [] < 2 ^ 22 := Nat.two_pow_pos _
  have l5 := place_lt 30 mk.isLt l6 rfl
  have l4 := place_lt 35 a.isLt l5 rfl
  have l3 := place_lt 40 d.isLt l4 rfl
  have l2 := place_lt 52 (show 141 < 2 ^ 8 by decide) l3 rfl
  have l1 := place_lt 60 tk.push.isLt l2 rfl
  have l0 := place_lt 64 tk.pop.isLt l1 rfl
  have key : ∀ wd, nfield wd 45 3 = 4 → nfield wd 40 5 = 13 → field wd 60 4 = tk.pop → field wd 52 4 = tk.push → field wd 35 5 = d → field wd 30 5 = a → field wd 22 3 = mk → rawDecode wd = some (.vrcp tk d a mk) := by
    intro _ e0 e1 e2 e3 e4 e5 e6; simp only [rawDecode, rawVec, e0, e1, e2, e3, e4, e5, e6]
  exact ⟨l0, key _ (peel 60 tk.pop.toNat rfl <| peel 52 tk.push.toNat rfl <| place_part 40 141 5 l3 rfl rfl)
    (peel 60 tk.pop.toNat rfl <| peel 52 tk.push.toNat rfl <| place_part 40 141 0 l3 rfl rfl)
    (field_eq <| place_hit tk.pop.isLt l1)
    (field_eq <| peel 60 tk.pop.toNat rfl <| place_hit tk.push.isLt l2)
    (field_eq <| peel 60 tk.pop.toNat rfl <| peel 52 tk.push.toNat rfl <| peel 40 141 rfl <| place_hit d.isLt l4)
    (field_eq <| peel 60 tk.pop.toNat rfl <| peel 52 tk.push.toNat rfl <| peel 40 141 rfl <| peel 35 d.toNat rfl <| place_hit a.isLt l5)
    (field_eq <| peel 60 tk.pop.toNat rfl <| peel 52 tk.push.toNat rfl <| peel 40 141 rfl <| peel 35 d.toNat rfl <| peel 30 a.toNat rfl <| place_hit mk.isLt l6)⟩

theorem Encoding.vrsq (tk : Tok) (d a : BitVec 5) (mk : BitVec 3) : Encoding.Statement (.vrsq tk d a mk) := by
  intro wd h
  have h0 : pack _ _ _ = wd := Option.some.inj h
  rw [pack_place] at h0; subst h0
  have l6 : place [] < 2 ^ 22 := Nat.two_pow_pos _
  have l5 := place_lt 30 mk.isLt l6 rfl
  have l4 := place_lt 35 a.isLt l5 rfl
  have l3 := place_lt 40 d.isLt l4 rfl
  have l2 := place_lt 52 (show 142 < 2 ^ 8 by decide) l3 rfl
  have l1 := place_lt 60 tk.push.isLt l2 rfl
  have l0 := place_lt 64 tk.pop.isLt l1 rfl
  have key : ∀ wd, nfield wd 45 3 = 4 → nfield wd 40 5 = 14 → field wd 60 4 = tk.pop → field wd 52 4 = tk.push → field wd 35 5 = d → field wd 30 5 = a → field wd 22 3 = mk → rawDecode wd = some (.vrsq tk d a mk) := by
    intro _ e0 e1 e2 e3 e4 e5 e6; simp only [rawDecode, rawVec, e0, e1, e2, e3, e4, e5, e6]
  exact ⟨l0, key _ (peel 60 tk.pop.toNat rfl <| peel 52 tk.push.toNat rfl <| place_part 40 142 5 l3 rfl rfl)
    (peel 60 tk.pop.toNat rfl <| peel 52 tk.push.toNat rfl <| place_part 40 142 0 l3 rfl rfl)
    (field_eq <| place_hit tk.pop.isLt l1)
    (field_eq <| peel 60 tk.pop.toNat rfl <| place_hit tk.push.isLt l2)
    (field_eq <| peel 60 tk.pop.toNat rfl <| peel 52 tk.push.toNat rfl <| peel 40 142 rfl <| place_hit d.isLt l4)
    (field_eq <| peel 60 tk.pop.toNat rfl <| peel 52 tk.push.toNat rfl <| peel 40 142 rfl <| peel 35 d.toNat rfl <| place_hit a.isLt l5)
    (field_eq <| peel 60 tk.pop.toNat rfl <| peel 52 tk.push.toNat rfl <| peel 40 142 rfl <| peel 35 d.toNat rfl <| peel 30 a.toNat rfl <| place_hit mk.isLt l6)⟩

theorem Encoding.vrcps (tk : Tok) (d a b : BitVec 5) (mk rd : BitVec 3) : Encoding.Statement (.vrcps tk d a b mk rd) := by
  intro wd h
  have h0 : pack _ _ _ = wd := Option.some.inj h
  rw [pack_place] at h0; subst h0
  have l8 : place [] < 2 ^ 16 := Nat.two_pow_pos _
  have l7 := place_lt 22 rd.isLt l8 rfl
  have l6 := place_lt 25 mk.isLt l7 rfl
  have l5 := place_lt 30 b.isLt l6 rfl
  have l4 := place_lt 35 a.isLt l5 rfl
  have l3 := place_lt 40 d.isLt l4 rfl
  have l2 := place_lt 52 (show 143 < 2 ^ 8 by decide) l3 rfl
  have l1 := place_lt 60 tk.push.isLt l2 rfl
  have l0 := place_lt 64 tk.pop.isLt l1 rfl
  have key : ∀ wd, nfield wd 45 3 = 4 → nfield wd 40 5 = 15 → field wd 60 4 = tk.pop → field wd 52 4 = tk.push → field wd 35 5 = d → field wd 30 5 = a → field wd 25 5 = b → field wd 22 3 = mk → field wd 16 3 = rd → rawDecode wd = some (.vrcps tk d a b mk rd) := by
    intro _ e0 e1 e2 e3 e4 e5 e6 e7 e8; simp only [rawDecode, rawVec, e0, e1, e2, e3, e4, e5, e6, e7, e8]
  exact ⟨l0, key _ (peel 60 tk.pop.toNat rfl <| peel 52 tk.push.toNat rfl <| place_part 40 143 5 l3 rfl rfl)
    (peel 60 tk.pop.toNat rfl <| peel 52 tk.push.toNat rfl <| place_part 40 143 0 l3 rfl rfl)
    (field_eq <| place_hit tk.pop.isLt l1)
    (field_eq <| peel 60 tk.pop.toNat rfl <| place_hit tk.push.isLt l2)
    (field_eq <| peel 60 tk.pop.toNat rfl <| peel 52 tk.push.toNat rfl <| peel 40 143 rfl <| place_hit d.isLt l4)
    (field_eq <| peel 60 tk.pop.toNat rfl <| peel 52 tk.push.toNat rfl <| peel 40 143 rfl <| peel 35 d.toNat rfl <| place_hit a.isLt l5)
    (field_eq <| peel 60 tk.pop.toNat rfl <| peel 52 tk.push.toNat rfl <| peel 40 143 rfl <| peel 35 d.toNat rfl <| peel 30 a.toNat rfl <| place_hit b.isLt l6)
    (field_eq <| peel 60 tk.pop.toNat rfl <| peel 52 tk.push.toNat rfl <| peel 40 143 rfl <| peel 35 d.toNat rfl <| peel 30 a.toNat rfl <| peel 25 b.toNat rfl <| place_hit mk.isLt l7)
    (field_eq <| peel 60 tk.pop.toNat rfl <| peel 52 tk.push.toNat rfl <| peel 40 143 rfl <| peel 35 d.toNat rfl <| peel 30 a.toNat rfl <| peel 25 b.toNat rfl <| peel 22 mk.toNat rfl <| place_hit rd.isLt l8)⟩

theorem Encoding.vrsqs (tk : Tok) (d a b : BitVec 5) (mk rd : BitVec 3) : Encoding.Statement (.vrsqs tk d a b mk rd) := by
  intro wd h
  have h0 : pack _ _ _ = wd := Option.some.inj h
  rw [pack_place] at h0; subst h0
  have l8 : place [] < 2 ^ 16 := Nat.two_pow_pos _
  have l7 := place_lt 22 rd.isLt l8 rfl
  have l6 := place_lt 25 mk.isLt l7 rfl
  have l5 := place_lt 30 b.isLt l6 rfl
  have l4 := place_lt 35 a.isLt l5 rfl
  have l3 := place_lt 40 d.isLt l4 rfl
  have l2 := place_lt 52 (show 144 < 2 ^ 8 by decide) l3 rfl
  have l1 := place_lt 60 tk.push.isLt l2 rfl
  have l0 := place_lt 64 tk.pop.isLt l1 rfl
  have key : ∀ wd, nfield wd 45 3 = 4 → nfield wd 40 5 = 16 → field wd 60 4 = tk.pop → field wd 52 4 = tk.push → field wd 35 5 = d → field wd 30 5 = a → field wd 25 5 = b → field wd 22 3 = mk → field wd 16 3 = rd → rawDecode wd = some (.vrsqs tk d a b mk rd) := by
    intro _ e0 e1 e2 e3 e4 e5 e6 e7 e8; simp only [rawDecode, rawVec, e0, e1, e2, e3, e4, e5, e6, e7, e8]
  exact ⟨l0, key _ (peel 60 tk.pop.toNat rfl <| peel 52 tk.push.toNat rfl <| place_part 40 144 5 l3 rfl rfl)
    (peel 60 tk.pop.toNat rfl <| peel 52 tk.push.toNat rfl <| place_part 40 144 0 l3 rfl rfl)
    (field_eq <| place_hit tk.pop.isLt l1)
    (field_eq <| peel 60 tk.pop.toNat rfl <| place_hit tk.push.isLt l2)
    (field_eq <| peel 60 tk.pop.toNat rfl <| peel 52 tk.push.toNat rfl <| peel 40 144 rfl <| place_hit d.isLt l4)
    (field_eq <| peel 60 tk.pop.toNat rfl <| peel 52 tk.push.toNat rfl <| peel 40 144 rfl <| peel 35 d.toNat rfl <| place_hit a.isLt l5)
    (field_eq <| peel 60 tk.pop.toNat rfl <| peel 52 tk.push.toNat rfl <| peel 40 144 rfl <| peel 35 d.toNat rfl <| peel 30 a.toNat rfl <| place_hit b.isLt l6)
    (field_eq <| peel 60 tk.pop.toNat rfl <| peel 52 tk.push.toNat rfl <| peel 40 144 rfl <| peel 35 d.toNat rfl <| peel 30 a.toNat rfl <| peel 25 b.toNat rfl <| place_hit mk.isLt l7)
    (field_eq <| peel 60 tk.pop.toNat rfl <| peel 52 tk.push.toNat rfl <| peel 40 144 rfl <| peel 35 d.toNat rfl <| peel 30 a.toNat rfl <| peel 25 b.toNat rfl <| peel 22 mk.toNat rfl <| place_hit rd.isLt l8)⟩

theorem Encoding.vexp2 (tk : Tok) (d a : BitVec 5) (mk : BitVec 3) : Encoding.Statement (.vexp2 tk d a mk) := by
  intro wd h
  have h0 : pack _ _ _ = wd := Option.some.inj h
  rw [pack_place] at h0; subst h0
  have l6 : place [] < 2 ^ 22 := Nat.two_pow_pos _
  have l5 := place_lt 30 mk.isLt l6 rfl
  have l4 := place_lt 35 a.isLt l5 rfl
  have l3 := place_lt 40 d.isLt l4 rfl
  have l2 := place_lt 52 (show 145 < 2 ^ 8 by decide) l3 rfl
  have l1 := place_lt 60 tk.push.isLt l2 rfl
  have l0 := place_lt 64 tk.pop.isLt l1 rfl
  have key : ∀ wd, nfield wd 45 3 = 4 → nfield wd 40 5 = 17 → field wd 60 4 = tk.pop → field wd 52 4 = tk.push → field wd 35 5 = d → field wd 30 5 = a → field wd 22 3 = mk → rawDecode wd = some (.vexp2 tk d a mk) := by
    intro _ e0 e1 e2 e3 e4 e5 e6; simp only [rawDecode, rawVec, e0, e1, e2, e3, e4, e5, e6]
  exact ⟨l0, key _ (peel 60 tk.pop.toNat rfl <| peel 52 tk.push.toNat rfl <| place_part 40 145 5 l3 rfl rfl)
    (peel 60 tk.pop.toNat rfl <| peel 52 tk.push.toNat rfl <| place_part 40 145 0 l3 rfl rfl)
    (field_eq <| place_hit tk.pop.isLt l1)
    (field_eq <| peel 60 tk.pop.toNat rfl <| place_hit tk.push.isLt l2)
    (field_eq <| peel 60 tk.pop.toNat rfl <| peel 52 tk.push.toNat rfl <| peel 40 145 rfl <| place_hit d.isLt l4)
    (field_eq <| peel 60 tk.pop.toNat rfl <| peel 52 tk.push.toNat rfl <| peel 40 145 rfl <| peel 35 d.toNat rfl <| place_hit a.isLt l5)
    (field_eq <| peel 60 tk.pop.toNat rfl <| peel 52 tk.push.toNat rfl <| peel 40 145 rfl <| peel 35 d.toNat rfl <| peel 30 a.toNat rfl <| place_hit mk.isLt l6)⟩

theorem Encoding.vlog2 (tk : Tok) (d a : BitVec 5) (mk : BitVec 3) : Encoding.Statement (.vlog2 tk d a mk) := by
  intro wd h
  have h0 : pack _ _ _ = wd := Option.some.inj h
  rw [pack_place] at h0; subst h0
  have l6 : place [] < 2 ^ 22 := Nat.two_pow_pos _
  have l5 := place_lt 30 mk.isLt l6 rfl
  have l4 := place_lt 35 a.isLt l5 rfl
  have l3 := place_lt 40 d.isLt l4 rfl
  have l2 := place_lt 52 (show 146 < 2 ^ 8 by decide) l3 rfl
  have l1 := place_lt 60 tk.push.isLt l2 rfl
  have l0 := place_lt 64 tk.pop.isLt l1 rfl
  have key : ∀ wd, nfield wd 45 3 = 4 → nfield wd 40 5 = 18 → field wd 60 4 = tk.pop → field wd 52 4 = tk.push → field wd 35 5 = d → field wd 30 5 = a → field wd 22 3 = mk → rawDecode wd = some (.vlog2 tk d a mk) := by
    intro _ e0 e1 e2 e3 e4 e5 e6; simp only [rawDecode, rawVec, e0, e1, e2, e3, e4, e5, e6]
  exact ⟨l0, key _ (peel 60 tk.pop.toNat rfl <| peel 52 tk.push.toNat rfl <| place_part 40 146 5 l3 rfl rfl)
    (peel 60 tk.pop.toNat rfl <| peel 52 tk.push.toNat rfl <| place_part 40 146 0 l3 rfl rfl)
    (field_eq <| place_hit tk.pop.isLt l1)
    (field_eq <| peel 60 tk.pop.toNat rfl <| place_hit tk.push.isLt l2)
    (field_eq <| peel 60 tk.pop.toNat rfl <| peel 52 tk.push.toNat rfl <| peel 40 146 rfl <| place_hit d.isLt l4)
    (field_eq <| peel 60 tk.pop.toNat rfl <| peel 52 tk.push.toNat rfl <| peel 40 146 rfl <| peel 35 d.toNat rfl <| place_hit a.isLt l5)
    (field_eq <| peel 60 tk.pop.toNat rfl <| peel 52 tk.push.toNat rfl <| peel 40 146 rfl <| peel 35 d.toNat rfl <| peel 30 a.toNat rfl <| place_hit mk.isLt l6)⟩

theorem Encoding.vmask (tk : Tok) (d a b : BitVec 5) (ty : BitVec 3) (n : BitVec 11) (op : BitVec 4) : Encoding.Statement (.vmask tk d a b ty n op) := by
  intro wd h
  have h0 : pack _ _ _ = wd := Option.some.inj h
  rw [pack_place] at h0; subst h0
  have l9 : place [] < 2 ^ 0 := Nat.two_pow_pos _
  have l8 := place_lt 5 op.isLt l9 rfl
  have l7 := place_lt 19 n.isLt l8 rfl
  have l6 := place_lt 25 ty.isLt l7 rfl
  have l5 := place_lt 30 b.isLt l6 rfl
  have l4 := place_lt 35 a.isLt l5 rfl
  have l3 := place_lt 40 d.isLt l4 rfl
  have l2 := place_lt 52 (show 147 < 2 ^ 8 by decide) l3 rfl
  have l1 := place_lt 60 tk.push.isLt l2 rfl
  have l0 := place_lt 64 tk.pop.isLt l1 rfl
  have key : ∀ wd, nfield wd 45 3 = 4 → nfield wd 40 5 = 19 → field wd 60 4 = tk.pop → field wd 52 4 = tk.push → field wd 35 5 = d → field wd 30 5 = a → field wd 25 5 = b → field wd 19 3 = ty → field wd 5 11 = n → field wd 0 4 = op → rawDecode wd = some (.vmask tk d a b ty n op) := by
    intro _ e0 e1 e2 e3 e4 e5 e6 e7 e8 e9; simp only [rawDecode, rawVec, e0, e1, e2, e3, e4, e5, e6, e7, e8, e9]
  exact ⟨l0, key _ (peel 60 tk.pop.toNat rfl <| peel 52 tk.push.toNat rfl <| place_part 40 147 5 l3 rfl rfl)
    (peel 60 tk.pop.toNat rfl <| peel 52 tk.push.toNat rfl <| place_part 40 147 0 l3 rfl rfl)
    (field_eq <| place_hit tk.pop.isLt l1)
    (field_eq <| peel 60 tk.pop.toNat rfl <| place_hit tk.push.isLt l2)
    (field_eq <| peel 60 tk.pop.toNat rfl <| peel 52 tk.push.toNat rfl <| peel 40 147 rfl <| place_hit d.isLt l4)
    (field_eq <| peel 60 tk.pop.toNat rfl <| peel 52 tk.push.toNat rfl <| peel 40 147 rfl <| peel 35 d.toNat rfl <| place_hit a.isLt l5)
    (field_eq <| peel 60 tk.pop.toNat rfl <| peel 52 tk.push.toNat rfl <| peel 40 147 rfl <| peel 35 d.toNat rfl <| peel 30 a.toNat rfl <| place_hit b.isLt l6)
    (field_eq <| peel 60 tk.pop.toNat rfl <| peel 52 tk.push.toNat rfl <| peel 40 147 rfl <| peel 35 d.toNat rfl <| peel 30 a.toNat rfl <| peel 25 b.toNat rfl <| place_hit ty.isLt l7)
    (field_eq <| peel 60 tk.pop.toNat rfl <| peel 52 tk.push.toNat rfl <| peel 40 147 rfl <| peel 35 d.toNat rfl <| peel 30 a.toNat rfl <| peel 25 b.toNat rfl <| peel 19 ty.toNat rfl <| place_hit n.isLt l8)
    (field_eq <| peel 60 tk.pop.toNat rfl <| peel 52 tk.push.toNat rfl <| peel 40 147 rfl <| peel 35 d.toNat rfl <| peel 30 a.toNat rfl <| peel 25 b.toNat rfl <| peel 19 ty.toNat rfl <| peel 5 n.toNat rfl <| place_hit op.isLt l9)⟩

theorem Encoding.vpopc (tk : Tok) (d a : BitVec 5) (mode : BitVec 2) : Encoding.Statement (.vpopc tk d a mode) := by
  intro wd h
  have h0 : pack _ _ _ = wd := Option.some.inj h
  rw [pack_place] at h0; subst h0
  have l6 : place [] < 2 ^ 0 := Nat.two_pow_pos _
  have l5 := place_lt 30 mode.isLt l6 rfl
  have l4 := place_lt 35 a.isLt l5 rfl
  have l3 := place_lt 40 d.isLt l4 rfl
  have l2 := place_lt 52 (show 148 < 2 ^ 8 by decide) l3 rfl
  have l1 := place_lt 60 tk.push.isLt l2 rfl
  have l0 := place_lt 64 tk.pop.isLt l1 rfl
  have key : ∀ wd, nfield wd 45 3 = 4 → nfield wd 40 5 = 20 → field wd 60 4 = tk.pop → field wd 52 4 = tk.push → field wd 35 5 = d → field wd 30 5 = a → field wd 0 2 = mode → rawDecode wd = some (.vpopc tk d a mode) := by
    intro _ e0 e1 e2 e3 e4 e5 e6; simp only [rawDecode, rawVec, e0, e1, e2, e3, e4, e5, e6]
  exact ⟨l0, key _ (peel 60 tk.pop.toNat rfl <| peel 52 tk.push.toNat rfl <| place_part 40 148 5 l3 rfl rfl)
    (peel 60 tk.pop.toNat rfl <| peel 52 tk.push.toNat rfl <| place_part 40 148 0 l3 rfl rfl)
    (field_eq <| place_hit tk.pop.isLt l1)
    (field_eq <| peel 60 tk.pop.toNat rfl <| place_hit tk.push.isLt l2)
    (field_eq <| peel 60 tk.pop.toNat rfl <| peel 52 tk.push.toNat rfl <| peel 40 148 rfl <| place_hit d.isLt l4)
    (field_eq <| peel 60 tk.pop.toNat rfl <| peel 52 tk.push.toNat rfl <| peel 40 148 rfl <| peel 35 d.toNat rfl <| place_hit a.isLt l5)
    (field_eq <| peel 60 tk.pop.toNat rfl <| peel 52 tk.push.toNat rfl <| peel 40 148 rfl <| peel 35 d.toNat rfl <| peel 30 a.toNat rfl <| place_hit mode.isLt l6)⟩

theorem Encoding.vtog (tk : Tok) (a : BitVec 5) (ty : BitVec 3) (src : BitVec 1) (col : BitVec 6) (row : BitVec 4) : Encoding.Statement (.vtog tk a ty src col row) := by
  intro wd h
  have h0 : pack _ _ _ = wd := Option.some.inj h
  rw [pack_place] at h0; subst h0
  have l8 : place [] < 2 ^ 0 := Nat.two_pow_pos _
  have l7 := place_lt 4 row.isLt l8 rfl
  have l6 := place_lt 10 col.isLt l7 rfl
  have l5 := place_lt 19 src.isLt l6 rfl
  have l4 := place_lt 30 ty.isLt l5 rfl
  have l3 := place_lt 40 a.isLt l4 rfl
  have l2 := place_lt 52 (show 149 < 2 ^ 8 by decide) l3 rfl
  have l1 := place_lt 60 tk.push.isLt l2 rfl
  have l0 := place_lt 64 tk.pop.isLt l1 rfl
  have key : ∀ wd, nfield wd 45 3 = 4 → nfield wd 40 5 = 21 → field wd 60 4 = tk.pop → field wd 52 4 = tk.push → field wd 30 5 = a → field wd 19 3 = ty → field wd 10 1 = src → field wd 4 6 = col → field wd 0 4 = row → rawDecode wd = some (.vtog tk a ty src col row) := by
    intro _ e0 e1 e2 e3 e4 e5 e6 e7 e8; simp only [rawDecode, rawVec, e0, e1, e2, e3, e4, e5, e6, e7, e8]
  exact ⟨l0, key _ (peel 60 tk.pop.toNat rfl <| peel 52 tk.push.toNat rfl <| place_part 40 149 5 l3 rfl rfl)
    (peel 60 tk.pop.toNat rfl <| peel 52 tk.push.toNat rfl <| place_part 40 149 0 l3 rfl rfl)
    (field_eq <| place_hit tk.pop.isLt l1)
    (field_eq <| peel 60 tk.pop.toNat rfl <| place_hit tk.push.isLt l2)
    (field_eq <| peel 60 tk.pop.toNat rfl <| peel 52 tk.push.toNat rfl <| peel 40 149 rfl <| place_hit a.isLt l4)
    (field_eq <| peel 60 tk.pop.toNat rfl <| peel 52 tk.push.toNat rfl <| peel 40 149 rfl <| peel 30 a.toNat rfl <| place_hit ty.isLt l5)
    (field_eq <| peel 60 tk.pop.toNat rfl <| peel 52 tk.push.toNat rfl <| peel 40 149 rfl <| peel 30 a.toNat rfl <| peel 19 ty.toNat rfl <| place_hit src.isLt l6)
    (field_eq <| peel 60 tk.pop.toNat rfl <| peel 52 tk.push.toNat rfl <| peel 40 149 rfl <| peel 30 a.toNat rfl <| peel 19 ty.toNat rfl <| peel 10 src.toNat rfl <| place_hit col.isLt l7)
    (field_eq <| peel 60 tk.pop.toNat rfl <| peel 52 tk.push.toNat rfl <| peel 40 149 rfl <| peel 30 a.toNat rfl <| peel 19 ty.toNat rfl <| peel 10 src.toNat rfl <| peel 4 col.toNat rfl <| place_hit row.isLt l8)⟩

theorem Encoding.vmeanE (tk : Tok) (d a : BitVec 5) (mk : BitVec 3) : Encoding.Statement (.vmeanE tk d a mk) := by
  intro wd h
  have h0 : pack _ _ _ = wd := Option.some.inj h
  rw [pack_place] at h0; subst h0
  have l6 : place [] < 2 ^ 22 := Nat.two_pow_pos _
  have l5 := place_lt 30 mk.isLt l6 rfl
  have l4 := place_lt 35 a.isLt l5 rfl
  have l3 := place_lt 40 d.isLt l4 rfl
  have l2 := place_lt 52 (show 150 < 2 ^ 8 by decide) l3 rfl
  have l1 := place_lt 60 tk.push.isLt l2 rfl
  have l0 := place_lt 64 tk.pop.isLt l1 rfl
  have key : ∀ wd, nfield wd 45 3 = 4 → nfield wd 40 5 = 22 → field wd 60 4 = tk.pop → field wd 52 4 = tk.push → field wd 35 5 = d → field wd 30 5 = a → field wd 22 3 = mk → rawDecode wd = some (.vmeanE tk d a mk) := by
    intro _ e0 e1 e2 e3 e4 e5 e6; simp only [rawDecode, rawVec, e0, e1, e2, e3, e4, e5, e6]
  exact ⟨l0, key _ (peel 60 tk.pop.toNat rfl <| peel 52 tk.push.toNat rfl <| place_part 40 150 5 l3 rfl rfl)
    (peel 60 tk.pop.toNat rfl <| peel 52 tk.push.toNat rfl <| place_part 40 150 0 l3 rfl rfl)
    (field_eq <| place_hit tk.pop.isLt l1)
    (field_eq <| peel 60 tk.pop.toNat rfl <| place_hit tk.push.isLt l2)
    (field_eq <| peel 60 tk.pop.toNat rfl <| peel 52 tk.push.toNat rfl <| peel 40 150 rfl <| place_hit d.isLt l4)
    (field_eq <| peel 60 tk.pop.toNat rfl <| peel 52 tk.push.toNat rfl <| peel 40 150 rfl <| peel 35 d.toNat rfl <| place_hit a.isLt l5)
    (field_eq <| peel 60 tk.pop.toNat rfl <| peel 52 tk.push.toNat rfl <| peel 40 150 rfl <| peel 35 d.toNat rfl <| peel 30 a.toNat rfl <| place_hit mk.isLt l6)⟩

theorem Encoding.vmeanM (tk : Tok) (d a : BitVec 5) (mk : BitVec 3) : Encoding.Statement (.vmeanM tk d a mk) := by
  intro wd h
  have h0 : pack _ _ _ = wd := Option.some.inj h
  rw [pack_place] at h0; subst h0
  have l6 : place [] < 2 ^ 22 := Nat.two_pow_pos _
  have l5 := place_lt 30 mk.isLt l6 rfl
  have l4 := place_lt 35 a.isLt l5 rfl
  have l3 := place_lt 40 d.isLt l4 rfl
  have l2 := place_lt 52 (show 151 < 2 ^ 8 by decide) l3 rfl
  have l1 := place_lt 60 tk.push.isLt l2 rfl
  have l0 := place_lt 64 tk.pop.isLt l1 rfl
  have key : ∀ wd, nfield wd 45 3 = 4 → nfield wd 40 5 = 23 → field wd 60 4 = tk.pop → field wd 52 4 = tk.push → field wd 35 5 = d → field wd 30 5 = a → field wd 22 3 = mk → rawDecode wd = some (.vmeanM tk d a mk) := by
    intro _ e0 e1 e2 e3 e4 e5 e6; simp only [rawDecode, rawVec, e0, e1, e2, e3, e4, e5, e6]
  exact ⟨l0, key _ (peel 60 tk.pop.toNat rfl <| peel 52 tk.push.toNat rfl <| place_part 40 151 5 l3 rfl rfl)
    (peel 60 tk.pop.toNat rfl <| peel 52 tk.push.toNat rfl <| place_part 40 151 0 l3 rfl rfl)
    (field_eq <| place_hit tk.pop.isLt l1)
    (field_eq <| peel 60 tk.pop.toNat rfl <| place_hit tk.push.isLt l2)
    (field_eq <| peel 60 tk.pop.toNat rfl <| peel 52 tk.push.toNat rfl <| peel 40 151 rfl <| place_hit d.isLt l4)
    (field_eq <| peel 60 tk.pop.toNat rfl <| peel 52 tk.push.toNat rfl <| peel 40 151 rfl <| peel 35 d.toNat rfl <| place_hit a.isLt l5)
    (field_eq <| peel 60 tk.pop.toNat rfl <| peel 52 tk.push.toNat rfl <| peel 40 151 rfl <| peel 35 d.toNat rfl <| peel 30 a.toNat rfl <| place_hit mk.isLt l6)⟩

theorem Encoding.vmeanX (tk : Tok) (d a : BitVec 5) (mk : BitVec 3) : Encoding.Statement (.vmeanX tk d a mk) := by
  intro wd h
  have h0 : pack _ _ _ = wd := Option.some.inj h
  rw [pack_place] at h0; subst h0
  have l6 : place [] < 2 ^ 22 := Nat.two_pow_pos _
  have l5 := place_lt 30 mk.isLt l6 rfl
  have l4 := place_lt 35 a.isLt l5 rfl
  have l3 := place_lt 40 d.isLt l4 rfl
  have l2 := place_lt 52 (show 152 < 2 ^ 8 by decide) l3 rfl
  have l1 := place_lt 60 tk.push.isLt l2 rfl
  have l0 := place_lt 64 tk.pop.isLt l1 rfl
  have key : ∀ wd, nfield wd 45 3 = 4 → nfield wd 40 5 = 24 → field wd 60 4 = tk.pop → field wd 52 4 = tk.push → field wd 35 5 = d → field wd 30 5 = a → field wd 22 3 = mk → rawDecode wd = some (.vmeanX tk d a mk) := by
    intro _ e0 e1 e2 e3 e4 e5 e6; simp only [rawDecode, rawVec, e0, e1, e2, e3, e4, e5, e6]
  exact ⟨l0, key _ (peel 60 tk.pop.toNat rfl <| peel 52 tk.push.toNat rfl <| place_part 40 152 5 l3 rfl rfl)
    (peel 60 tk.pop.toNat rfl <| peel 52 tk.push.toNat rfl <| place_part 40 152 0 l3 rfl rfl)
    (field_eq <| place_hit tk.pop.isLt l1)
    (field_eq <| peel 60 tk.pop.toNat rfl <| place_hit tk.push.isLt l2)
    (field_eq <| peel 60 tk.pop.toNat rfl <| peel 52 tk.push.toNat rfl <| peel 40 152 rfl <| place_hit d.isLt l4)
    (field_eq <| peel 60 tk.pop.toNat rfl <| peel 52 tk.push.toNat rfl <| peel 40 152 rfl <| peel 35 d.toNat rfl <| place_hit a.isLt l5)
    (field_eq <| peel 60 tk.pop.toNat rfl <| peel 52 tk.push.toNat rfl <| peel 40 152 rfl <| peel 35 d.toNat rfl <| peel 30 a.toNat rfl <| place_hit mk.isLt l6)⟩

theorem Encoding.vmtld (tk : Tok) (a : BitVec 5) (pair : BitVec 4) : Encoding.Statement (.vmtld tk a pair) := by
  intro wd h
  have h0 : pack _ _ _ = wd := Option.some.inj h
  rw [pack_place] at h0; subst h0
  have l5 : place [] < 2 ^ 0 := Nat.two_pow_pos _
  have l4 := place_lt 30 pair.isLt l5 rfl
  have l3 := place_lt 40 a.isLt l4 rfl
  have l2 := place_lt 52 (show 153 < 2 ^ 8 by decide) l3 rfl
  have l1 := place_lt 60 tk.push.isLt l2 rfl
  have l0 := place_lt 64 tk.pop.isLt l1 rfl
  have key : ∀ wd, nfield wd 45 3 = 4 → nfield wd 40 5 = 25 → field wd 60 4 = tk.pop → field wd 52 4 = tk.push → field wd 30 5 = a → field wd 0 4 = pair → rawDecode wd = some (.vmtld tk a pair) := by
    intro _ e0 e1 e2 e3 e4 e5; simp only [rawDecode, rawVec, e0, e1, e2, e3, e4, e5]
  exact ⟨l0, key _ (peel 60 tk.pop.toNat rfl <| peel 52 tk.push.toNat rfl <| place_part 40 153 5 l3 rfl rfl)
    (peel 60 tk.pop.toNat rfl <| peel 52 tk.push.toNat rfl <| place_part 40 153 0 l3 rfl rfl)
    (field_eq <| place_hit tk.pop.isLt l1)
    (field_eq <| peel 60 tk.pop.toNat rfl <| place_hit tk.push.isLt l2)
    (field_eq <| peel 60 tk.pop.toNat rfl <| peel 52 tk.push.toNat rfl <| peel 40 153 rfl <| place_hit a.isLt l4)
    (field_eq <| peel 60 tk.pop.toNat rfl <| peel 52 tk.push.toNat rfl <| peel 40 153 rfl <| peel 30 a.toNat rfl <| place_hit pair.isLt l5)⟩

theorem Encoding.vmsh (tk : Tok) (d a : BitVec 5) (mk : BitVec 3) : Encoding.Statement (.vmsh tk d a mk) := by
  intro wd h
  have h0 : pack _ _ _ = wd := Option.some.inj h
  rw [pack_place] at h0; subst h0
  have l6 : place [] < 2 ^ 22 := Nat.two_pow_pos _
  have l5 := place_lt 30 mk.isLt l6 rfl
  have l4 := place_lt 35 a.isLt l5 rfl
  have l3 := place_lt 40 d.isLt l4 rfl
  have l2 := place_lt 52 (show 154 < 2 ^ 8 by decide) l3 rfl
  have l1 := place_lt 60 tk.push.isLt l2 rfl
  have l0 := place_lt 64 tk.pop.isLt l1 rfl
  have key : ∀ wd, nfield wd 45 3 = 4 → nfield wd 40 5 = 26 → field wd 60 4 = tk.pop → field wd 52 4 = tk.push → field wd 35 5 = d → field wd 30 5 = a → field wd 22 3 = mk → rawDecode wd = some (.vmsh tk d a mk) := by
    intro _ e0 e1 e2 e3 e4 e5 e6; simp only [rawDecode, rawVec, e0, e1, e2, e3, e4, e5, e6]
  exact ⟨l0, key _ (peel 60 tk.pop.toNat rfl <| peel 52 tk.push.toNat rfl <| place_part 40 154 5 l3 rfl rfl)
    (peel 60 tk.pop.toNat rfl <| peel 52 tk.push.toNat rfl <| place_part 40 154 0 l3 rfl rfl)
    (field_eq <| place_hit tk.pop.isLt l1)
    (field_eq <| peel 60 tk.pop.toNat rfl <| place_hit tk.push.isLt l2)
    (field_eq <| peel 60 tk.pop.toNat rfl <| peel 52 tk.push.toNat rfl <| peel 40 154 rfl <| place_hit d.isLt l4)
    (field_eq <| peel 60 tk.pop.toNat rfl <| peel 52 tk.push.toNat rfl <| peel 40 154 rfl <| peel 35 d.toNat rfl <| place_hit a.isLt l5)
    (field_eq <| peel 60 tk.pop.toNat rfl <| peel 52 tk.push.toNat rfl <| peel 40 154 rfl <| peel 35 d.toNat rfl <| peel 30 a.toNat rfl <| place_hit mk.isLt l6)⟩

theorem Encoding.vupd (tk : Tok) (d a b : BitVec 5) (mk ty rd : BitVec 3) (gh : BitVec 5) : Encoding.Statement (.vupd tk d a b mk ty rd gh) := by
  intro wd h
  have h0 : pack _ _ _ = wd := Option.some.inj h
  rw [pack_place] at h0; subst h0
  have l10 : place [] < 2 ^ 0 := Nat.two_pow_pos _
  have l9 := place_lt 16 gh.isLt l10 rfl
  have l8 := place_lt 19 rd.isLt l9 rfl
  have l7 := place_lt 22 ty.isLt l8 rfl
  have l6 := place_lt 25 mk.isLt l7 rfl
  have l5 := place_lt 30 b.isLt l6 rfl
  have l4 := place_lt 35 a.isLt l5 rfl
  have l3 := place_lt 40 d.isLt l4 rfl
  have l2 := place_lt 52 (show 155 < 2 ^ 8 by decide) l3 rfl
  have l1 := place_lt 60 tk.push.isLt l2 rfl
  have l0 := place_lt 64 tk.pop.isLt l1 rfl
  have key : ∀ wd, nfield wd 45 3 = 4 → nfield wd 40 5 = 27 → field wd 60 4 = tk.pop → field wd 52 4 = tk.push → field wd 35 5 = d → field wd 30 5 = a → field wd 25 5 = b → field wd 22 3 = mk → field wd 19 3 = ty → field wd 16 3 = rd → field wd 0 5 = gh → rawDecode wd = some (.vupd tk d a b mk ty rd gh) := by
    intro _ e0 e1 e2 e3 e4 e5 e6 e7 e8 e9 e10; simp only [rawDecode, rawVec, e0, e1, e2, e3, e4, e5, e6, e7, e8, e9, e10]
  exact ⟨l0, key _ (peel 60 tk.pop.toNat rfl <| peel 52 tk.push.toNat rfl <| place_part 40 155 5 l3 rfl rfl)
    (peel 60 tk.pop.toNat rfl <| peel 52 tk.push.toNat rfl <| place_part 40 155 0 l3 rfl rfl)
    (field_eq <| place_hit tk.pop.isLt l1)
    (field_eq <| peel 60 tk.pop.toNat rfl <| place_hit tk.push.isLt l2)
    (field_eq <| peel 60 tk.pop.toNat rfl <| peel 52 tk.push.toNat rfl <| peel 40 155 rfl <| place_hit d.isLt l4)
    (field_eq <| peel 60 tk.pop.toNat rfl <| peel 52 tk.push.toNat rfl <| peel 40 155 rfl <| peel 35 d.toNat rfl <| place_hit a.isLt l5)
    (field_eq <| peel 60 tk.pop.toNat rfl <| peel 52 tk.push.toNat rfl <| peel 40 155 rfl <| peel 35 d.toNat rfl <| peel 30 a.toNat rfl <| place_hit b.isLt l6)
    (field_eq <| peel 60 tk.pop.toNat rfl <| peel 52 tk.push.toNat rfl <| peel 40 155 rfl <| peel 35 d.toNat rfl <| peel 30 a.toNat rfl <| peel 25 b.toNat rfl <| place_hit mk.isLt l7)
    (field_eq <| peel 60 tk.pop.toNat rfl <| peel 52 tk.push.toNat rfl <| peel 40 155 rfl <| peel 35 d.toNat rfl <| peel 30 a.toNat rfl <| peel 25 b.toNat rfl <| peel 22 mk.toNat rfl <| place_hit ty.isLt l8)
    (field_eq <| peel 60 tk.pop.toNat rfl <| peel 52 tk.push.toNat rfl <| peel 40 155 rfl <| peel 35 d.toNat rfl <| peel 30 a.toNat rfl <| peel 25 b.toNat rfl <| peel 22 mk.toNat rfl <| peel 19 ty.toNat rfl <| place_hit rd.isLt l9)
    (field_eq <| peel 60 tk.pop.toNat rfl <| peel 52 tk.push.toNat rfl <| peel 40 155 rfl <| peel 35 d.toNat rfl <| peel 30 a.toNat rfl <| peel 25 b.toNat rfl <| peel 22 mk.toNat rfl <| peel 19 ty.toNat rfl <| peel 16 rd.toNat rfl <| place_hit gh.isLt l10)⟩

theorem Encoding.vkey (tk : Tok) (d a : BitVec 5) (mk ty : BitVec 3) (hil three : BitVec 1) (k gh : BitVec 5) : Encoding.Statement (.vkey tk d a mk ty hil three k gh) := by
  intro wd h
  have h0 : pack _ _ _ = wd := Option.some.inj h
  rw [pack_place] at h0; subst h0
  have l11 : place [] < 2 ^ 0 := Nat.two_pow_pos _
  have l10 := place_lt 5 gh.isLt l11 rfl
  have l9 := place_lt 10 k.isLt l10 rfl
  have l8 := place_lt 11 three.isLt l9 rfl
  have l7 := place_lt 19 hil.isLt l8 rfl
  have l6 := place_lt 22 ty.isLt l7 rfl
  have l5 := place_lt 30 mk.isLt l6 rfl
  have l4 := place_lt 35 a.isLt l5 rfl
  have l3 := place_lt 40 d.isLt l4 rfl
  have l2 := place_lt 52 (show 156 < 2 ^ 8 by decide) l3 rfl
  have l1 := place_lt 60 tk.push.isLt l2 rfl
  have l0 := place_lt 64 tk.pop.isLt l1 rfl
  have key : ∀ wd, nfield wd 45 3 = 4 → nfield wd 40 5 = 28 → field wd 60 4 = tk.pop → field wd 52 4 = tk.push → field wd 35 5 = d → field wd 30 5 = a → field wd 22 3 = mk → field wd 19 3 = ty → field wd 11 1 = hil → field wd 10 1 = three → field wd 5 5 = k → field wd 0 5 = gh → rawDecode wd = some (.vkey tk d a mk ty hil three k gh) := by
    intro _ e0 e1 e2 e3 e4 e5 e6 e7 e8 e9 e10 e11; simp only [rawDecode, rawVec, e0, e1, e2, e3, e4, e5, e6, e7, e8, e9, e10, e11]
  exact ⟨l0, key _ (peel 60 tk.pop.toNat rfl <| peel 52 tk.push.toNat rfl <| place_part 40 156 5 l3 rfl rfl)
    (peel 60 tk.pop.toNat rfl <| peel 52 tk.push.toNat rfl <| place_part 40 156 0 l3 rfl rfl)
    (field_eq <| place_hit tk.pop.isLt l1)
    (field_eq <| peel 60 tk.pop.toNat rfl <| place_hit tk.push.isLt l2)
    (field_eq <| peel 60 tk.pop.toNat rfl <| peel 52 tk.push.toNat rfl <| peel 40 156 rfl <| place_hit d.isLt l4)
    (field_eq <| peel 60 tk.pop.toNat rfl <| peel 52 tk.push.toNat rfl <| peel 40 156 rfl <| peel 35 d.toNat rfl <| place_hit a.isLt l5)
    (field_eq <| peel 60 tk.pop.toNat rfl <| peel 52 tk.push.toNat rfl <| peel 40 156 rfl <| peel 35 d.toNat rfl <| peel 30 a.toNat rfl <| place_hit mk.isLt l6)
    (field_eq <| peel 60 tk.pop.toNat rfl <| peel 52 tk.push.toNat rfl <| peel 40 156 rfl <| peel 35 d.toNat rfl <| peel 30 a.toNat rfl <| peel 22 mk.toNat rfl <| place_hit ty.isLt l7)
    (field_eq <| peel 60 tk.pop.toNat rfl <| peel 52 tk.push.toNat rfl <| peel 40 156 rfl <| peel 35 d.toNat rfl <| peel 30 a.toNat rfl <| peel 22 mk.toNat rfl <| peel 19 ty.toNat rfl <| place_hit hil.isLt l8)
    (field_eq <| peel 60 tk.pop.toNat rfl <| peel 52 tk.push.toNat rfl <| peel 40 156 rfl <| peel 35 d.toNat rfl <| peel 30 a.toNat rfl <| peel 22 mk.toNat rfl <| peel 19 ty.toNat rfl <| peel 11 hil.toNat rfl <| place_hit three.isLt l9)
    (field_eq <| peel 60 tk.pop.toNat rfl <| peel 52 tk.push.toNat rfl <| peel 40 156 rfl <| peel 35 d.toNat rfl <| peel 30 a.toNat rfl <| peel 22 mk.toNat rfl <| peel 19 ty.toNat rfl <| peel 11 hil.toNat rfl <| peel 10 three.toNat rfl <| place_hit k.isLt l10)
    (field_eq <| peel 60 tk.pop.toNat rfl <| peel 52 tk.push.toNat rfl <| peel 40 156 rfl <| peel 35 d.toNat rfl <| peel 30 a.toNat rfl <| peel 22 mk.toNat rfl <| peel 19 ty.toNat rfl <| peel 11 hil.toNat rfl <| peel 10 three.toNat rfl <| peel 5 k.toNat rfl <| place_hit gh.isLt l11)⟩

theorem Encoding.chpush (tk : Tok) (a : BitVec 5) (rd : BitVec 3) (fmt : BitVec 2) (r : BitVec 4) (c : BitVec 3) : Encoding.Statement (.chpush tk a rd fmt r c) := by
  intro wd h
  have h0 : pack _ _ _ = wd := Option.some.inj h
  rw [pack_place] at h0; subst h0
  have l8 : place [] < 2 ^ 0 := Nat.two_pow_pos _
  have l7 := place_lt 4 c.isLt l8 rfl
  have l6 := place_lt 8 r.isLt l7 rfl
  have l5 := place_lt 16 fmt.isLt l6 rfl
  have l4 := place_lt 30 rd.isLt l5 rfl
  have l3 := place_lt 40 a.isLt l4 rfl
  have l2 := place_lt 52 (show 157 < 2 ^ 8 by decide) l3 rfl
  have l1 := place_lt 60 tk.push.isLt l2 rfl
  have l0 := place_lt 64 tk.pop.isLt l1 rfl
  have key : ∀ wd, nfield wd 45 3 = 4 → nfield wd 40 5 = 29 → field wd 60 4 = tk.pop → field wd 52 4 = tk.push → field wd 30 5 = a → field wd 16 3 = rd → field wd 8 2 = fmt → field wd 4 4 = r → field wd 0 3 = c → rawDecode wd = some (.chpush tk a rd fmt r c) := by
    intro _ e0 e1 e2 e3 e4 e5 e6 e7 e8; simp only [rawDecode, rawVec, e0, e1, e2, e3, e4, e5, e6, e7, e8]
  exact ⟨l0, key _ (peel 60 tk.pop.toNat rfl <| peel 52 tk.push.toNat rfl <| place_part 40 157 5 l3 rfl rfl)
    (peel 60 tk.pop.toNat rfl <| peel 52 tk.push.toNat rfl <| place_part 40 157 0 l3 rfl rfl)
    (field_eq <| place_hit tk.pop.isLt l1)
    (field_eq <| peel 60 tk.pop.toNat rfl <| place_hit tk.push.isLt l2)
    (field_eq <| peel 60 tk.pop.toNat rfl <| peel 52 tk.push.toNat rfl <| peel 40 157 rfl <| place_hit a.isLt l4)
    (field_eq <| peel 60 tk.pop.toNat rfl <| peel 52 tk.push.toNat rfl <| peel 40 157 rfl <| peel 30 a.toNat rfl <| place_hit rd.isLt l5)
    (field_eq <| peel 60 tk.pop.toNat rfl <| peel 52 tk.push.toNat rfl <| peel 40 157 rfl <| peel 30 a.toNat rfl <| peel 16 rd.toNat rfl <| place_hit fmt.isLt l6)
    (field_eq <| peel 60 tk.pop.toNat rfl <| peel 52 tk.push.toNat rfl <| peel 40 157 rfl <| peel 30 a.toNat rfl <| peel 16 rd.toNat rfl <| peel 8 fmt.toNat rfl <| place_hit r.isLt l7)
    (field_eq <| peel 60 tk.pop.toNat rfl <| peel 52 tk.push.toNat rfl <| peel 40 157 rfl <| peel 30 a.toNat rfl <| peel 16 rd.toNat rfl <| peel 8 fmt.toNat rfl <| peel 4 r.toNat rfl <| place_hit c.isLt l8)⟩

theorem Encoding.pdir (tk : Tok) (g : BitVec 5) (slot : BitVec 3) (role : BitVec 1) : Encoding.Statement (.pdir tk g slot role) := by
  intro wd h
  have h0 : pack _ _ _ = wd := Option.some.inj h
  rw [pack_place] at h0; subst h0
  have l6 : place [] < 2 ^ 9 := Nat.two_pow_pos _
  have l5 := place_lt 10 role.isLt l6 rfl
  have l4 := place_lt 22 slot.isLt l5 rfl
  have l3 := place_lt 40 g.isLt l4 rfl
  have l2 := place_lt 52 (show 160 < 2 ^ 8 by decide) l3 rfl
  have l1 := place_lt 60 tk.push.isLt l2 rfl
  have l0 := place_lt 64 tk.pop.isLt l1 rfl
  have key : ∀ wd, nfield wd 45 3 = 5 → nfield wd 40 5 = 0 → field wd 60 4 = tk.pop → field wd 52 4 = tk.push → field wd 22 5 = g → field wd 10 3 = slot → field wd 9 1 = role → rawDecode wd = some (.pdir tk g slot role) := by
    intro _ e0 e1 e2 e3 e4 e5 e6; simp only [rawDecode, rawMat, e0, e1, e2, e3, e4, e5, e6]
  exact ⟨l0, key _ (peel 60 tk.pop.toNat rfl <| peel 52 tk.push.toNat rfl <| place_part 40 160 5 l3 rfl rfl)
    (peel 60 tk.pop.toNat rfl <| peel 52 tk.push.toNat rfl <| place_part 40 160 0 l3 rfl rfl)
    (field_eq <| place_hit tk.pop.isLt l1)
    (field_eq <| peel 60 tk.pop.toNat rfl <| place_hit tk.push.isLt l2)
    (field_eq <| peel 60 tk.pop.toNat rfl <| peel 52 tk.push.toNat rfl <| peel 40 160 rfl <| place_hit g.isLt l4)
    (field_eq <| peel 60 tk.pop.toNat rfl <| peel 52 tk.push.toNat rfl <| peel 40 160 rfl <| peel 22 g.toNat rfl <| place_hit slot.isLt l5)
    (field_eq <| peel 60 tk.pop.toNat rfl <| peel 52 tk.push.toNat rfl <| peel 40 160 rfl <| peel 22 g.toNat rfl <| peel 10 slot.toNat rfl <| place_hit role.isLt l6)⟩

theorem Encoding.pload (tk : Tok) (qa : BitVec 4) (g : BitVec 5) (rows : BitVec 9) (slot : BitVec 3) : Encoding.Statement (.pload tk qa g rows slot) := by
  intro wd h
  have h0 : pack _ _ _ = wd := Option.some.inj h
  rw [pack_place] at h0; subst h0
  have l7 : place [] < 2 ^ 10 := Nat.two_pow_pos _
  have l6 := place_lt 13 slot.isLt l7 rfl
  have l5 := place_lt 22 rows.isLt l6 rfl
  have l4 := place_lt 36 g.isLt l5 rfl
  have l3 := place_lt 40 qa.isLt l4 rfl
  have l2 := place_lt 52 (show 161 < 2 ^ 8 by decide) l3 rfl
  have l1 := place_lt 60 tk.push.isLt l2 rfl
  have l0 := place_lt 64 tk.pop.isLt l1 rfl
  have key : ∀ wd, nfield wd 45 3 = 5 → nfield wd 40 5 = 1 → field wd 60 4 = tk.pop → field wd 52 4 = tk.push → field wd 36 4 = qa → field wd 22 5 = g → field wd 13 9 = rows → field wd 10 3 = slot → rawDecode wd = some (.pload tk qa g rows slot) := by
    intro _ e0 e1 e2 e3 e4 e5 e6 e7; simp only [rawDecode, rawMat, e0, e1, e2, e3, e4, e5, e6, e7]
  exact ⟨l0, key _ (peel 60 tk.pop.toNat rfl <| peel 52 tk.push.toNat rfl <| place_part 40 161 5 l3 rfl rfl)
    (peel 60 tk.pop.toNat rfl <| peel 52 tk.push.toNat rfl <| place_part 40 161 0 l3 rfl rfl)
    (field_eq <| place_hit tk.pop.isLt l1)
    (field_eq <| peel 60 tk.pop.toNat rfl <| place_hit tk.push.isLt l2)
    (field_eq <| peel 60 tk.pop.toNat rfl <| peel 52 tk.push.toNat rfl <| peel 40 161 rfl <| place_hit qa.isLt l4)
    (field_eq <| peel 60 tk.pop.toNat rfl <| peel 52 tk.push.toNat rfl <| peel 40 161 rfl <| peel 36 qa.toNat rfl <| place_hit g.isLt l5)
    (field_eq <| peel 60 tk.pop.toNat rfl <| peel 52 tk.push.toNat rfl <| peel 40 161 rfl <| peel 36 qa.toNat rfl <| peel 22 g.toNat rfl <| place_hit rows.isLt l6)
    (field_eq <| peel 60 tk.pop.toNat rfl <| peel 52 tk.push.toNat rfl <| peel 40 161 rfl <| peel 36 qa.toNat rfl <| peel 22 g.toNat rfl <| peel 13 rows.toNat rfl <| place_hit slot.isLt l7)⟩

theorem Encoding.pstore (tk : Tok) (qb : BitVec 4) (g : BitVec 5) (rows : BitVec 9) (slot rm : BitVec 3) : Encoding.Statement (.pstore tk qb g rows slot rm) := by
  intro wd h
  have h0 : pack _ _ _ = wd := Option.some.inj h
  rw [pack_place] at h0; subst h0
  have l8 : place [] < 2 ^ 0 := Nat.two_pow_pos _
  have l7 := place_lt 10 rm.isLt l8 rfl
  have l6 := place_lt 13 slot.isLt l7 rfl
  have l5 := place_lt 22 rows.isLt l6 rfl
  have l4 := place_lt 32 g.isLt l5 rfl
  have l3 := place_lt 40 qb.isLt l4 rfl
  have l2 := place_lt 52 (show 162 < 2 ^ 8 by decide) l3 rfl
  have l1 := place_lt 60 tk.push.isLt l2 rfl
  have l0 := place_lt 64 tk.pop.isLt l1 rfl
  have key : ∀ wd, nfield wd 45 3 = 5 → nfield wd 40 5 = 2 → field wd 60 4 = tk.pop → field wd 52 4 = tk.push → field wd 32 4 = qb → field wd 22 5 = g → field wd 13 9 = rows → field wd 10 3 = slot → field wd 0 3 = rm → rawDecode wd = some (.pstore tk qb g rows slot rm) := by
    intro _ e0 e1 e2 e3 e4 e5 e6 e7 e8; simp only [rawDecode, rawMat, e0, e1, e2, e3, e4, e5, e6, e7, e8]
  exact ⟨l0, key _ (peel 60 tk.pop.toNat rfl <| peel 52 tk.push.toNat rfl <| place_part 40 162 5 l3 rfl rfl)
    (peel 60 tk.pop.toNat rfl <| peel 52 tk.push.toNat rfl <| place_part 40 162 0 l3 rfl rfl)
    (field_eq <| place_hit tk.pop.isLt l1)
    (field_eq <| peel 60 tk.pop.toNat rfl <| place_hit tk.push.isLt l2)
    (field_eq <| peel 60 tk.pop.toNat rfl <| peel 52 tk.push.toNat rfl <| peel 40 162 rfl <| place_hit qb.isLt l4)
    (field_eq <| peel 60 tk.pop.toNat rfl <| peel 52 tk.push.toNat rfl <| peel 40 162 rfl <| peel 32 qb.toNat rfl <| place_hit g.isLt l5)
    (field_eq <| peel 60 tk.pop.toNat rfl <| peel 52 tk.push.toNat rfl <| peel 40 162 rfl <| peel 32 qb.toNat rfl <| peel 22 g.toNat rfl <| place_hit rows.isLt l6)
    (field_eq <| peel 60 tk.pop.toNat rfl <| peel 52 tk.push.toNat rfl <| peel 40 162 rfl <| peel 32 qb.toNat rfl <| peel 22 g.toNat rfl <| peel 13 rows.toNat rfl <| place_hit slot.isLt l7)
    (field_eq <| peel 60 tk.pop.toNat rfl <| peel 52 tk.push.toNat rfl <| peel 40 162 rfl <| peel 32 qb.toNat rfl <| peel 22 g.toNat rfl <| peel 13 rows.toNat rfl <| peel 10 slot.toNat rfl <| place_hit rm.isLt l8)⟩

theorem Encoding.pclr (tk : Tok) (slot : BitVec 3) (e : BitVec 1) : Encoding.Statement (.pclr tk slot e) := by
  intro wd h
  have h0 : pack _ _ _ = wd := Option.some.inj h
  rw [pack_place] at h0; subst h0
  have l5 : place [] < 2 ^ 9 := Nat.two_pow_pos _
  have l4 := place_lt 10 e.isLt l5 rfl
  have l3 := place_lt 40 slot.isLt l4 rfl
  have l2 := place_lt 52 (show 163 < 2 ^ 8 by decide) l3 rfl
  have l1 := place_lt 60 tk.push.isLt l2 rfl
  have l0 := place_lt 64 tk.pop.isLt l1 rfl
  have key : ∀ wd, nfield wd 45 3 = 5 → nfield wd 40 5 = 3 → field wd 60 4 = tk.pop → field wd 52 4 = tk.push → field wd 10 3 = slot → field wd 9 1 = e → rawDecode wd = some (.pclr tk slot e) := by
    intro _ e0 e1 e2 e3 e4 e5; simp only [rawDecode, rawMat, e0, e1, e2, e3, e4, e5]
  exact ⟨l0, key _ (peel 60 tk.pop.toNat rfl <| peel 52 tk.push.toNat rfl <| place_part 40 163 5 l3 rfl rfl)
    (peel 60 tk.pop.toNat rfl <| peel 52 tk.push.toNat rfl <| place_part 40 163 0 l3 rfl rfl)
    (field_eq <| place_hit tk.pop.isLt l1)
    (field_eq <| peel 60 tk.pop.toNat rfl <| place_hit tk.push.isLt l2)
    (field_eq <| peel 60 tk.pop.toNat rfl <| peel 52 tk.push.toNat rfl <| peel 40 163 rfl <| place_hit slot.isLt l4)
    (field_eq <| peel 60 tk.pop.toNat rfl <| peel 52 tk.push.toNat rfl <| peel 40 163 rfl <| peel 10 slot.toNat rfl <| place_hit e.isLt l5)⟩

theorem Encoding.mxnest (tk : Tok) (g : BitVec 5) (level : BitVec 3) : Encoding.Statement (.mxnest tk g level) := by
  intro wd h
  have h0 : pack _ _ _ = wd := Option.some.inj h
  rw [pack_place] at h0; subst h0
  have l5 : place [] < 2 ^ 0 := Nat.two_pow_pos _
  have l4 := place_lt 22 level.isLt l5 rfl
  have l3 := place_lt 40 g.isLt l4 rfl
  have l2 := place_lt 52 (show 164 < 2 ^ 8 by decide) l3 rfl
  have l1 := place_lt 60 tk.push.isLt l2 rfl
  have l0 := place_lt 64 tk.pop.isLt l1 rfl
  have key : ∀ wd, nfield wd 45 3 = 5 → nfield wd 40 5 = 4 → field wd 60 4 = tk.pop → field wd 52 4 = tk.push → field wd 22 5 = g → field wd 0 3 = level → rawDecode wd = some (.mxnest tk g level) := by
    intro _ e0 e1 e2 e3 e4 e5; simp only [rawDecode, rawMat, e0, e1, e2, e3, e4, e5]
  exact ⟨l0, key _ (peel 60 tk.pop.toNat rfl <| peel 52 tk.push.toNat rfl <| place_part 40 164 5 l3 rfl rfl)
    (peel 60 tk.pop.toNat rfl <| peel 52 tk.push.toNat rfl <| place_part 40 164 0 l3 rfl rfl)
    (field_eq <| place_hit tk.pop.isLt l1)
    (field_eq <| peel 60 tk.pop.toNat rfl <| place_hit tk.push.isLt l2)
    (field_eq <| peel 60 tk.pop.toNat rfl <| peel 52 tk.push.toNat rfl <| peel 40 164 rfl <| place_hit g.isLt l4)
    (field_eq <| peel 60 tk.pop.toNat rfl <| peel 52 tk.push.toNat rfl <| peel 40 164 rfl <| peel 22 g.toNat rfl <| place_hit level.isLt l5)⟩

theorem Encoding.mxgo (tk : Tok) (qa qb : BitVec 4) (acc : BitVec 2) (sr : BitVec 3) (base n kc : BitVec 6) : Encoding.Statement (.mxgo tk qa qb acc sr base n kc) := by
  intro wd h
  have h0 : pack _ _ _ = wd := Option.some.inj h
  rw [pack_place] at h0; subst h0
  have l10 : place [] < 2 ^ 4 := Nat.two_pow_pos _
  have l9 := place_lt 10 kc.isLt l10 rfl
  have l8 := place_lt 16 n.isLt l9 rfl
  have l7 := place_lt 27 base.isLt l8 rfl
  have l6 := place_lt 30 sr.isLt l7 rfl
  have l5 := place_lt 32 acc.isLt l6 rfl
  have l4 := place_lt 36 qb.isLt l5 rfl
  have l3 := place_lt 40 qa.isLt l4 rfl
  have l2 := place_lt 52 (show 165 < 2 ^ 8 by decide) l3 rfl
  have l1 := place_lt 60 tk.push.isLt l2 rfl
  have l0 := place_lt 64 tk.pop.isLt l1 rfl
  have key : ∀ wd, nfield wd 45 3 = 5 → nfield wd 40 5 = 5 → field wd 60 4 = tk.pop → field wd 52 4 = tk.push → field wd 36 4 = qa → field wd 32 4 = qb → field wd 30 2 = acc → field wd 27 3 = sr → field wd 16 6 = base → field wd 10 6 = n → field wd 4 6 = kc → rawDecode wd = some (.mxgo tk qa qb acc sr base n kc) := by
    intro _ e0 e1 e2 e3 e4 e5 e6 e7 e8 e9 e10; simp only [rawDecode, rawMat, e0, e1, e2, e3, e4, e5, e6, e7, e8, e9, e10]
  exact ⟨l0, key _ (peel 60 tk.pop.toNat rfl <| peel 52 tk.push.toNat rfl <| place_part 40 165 5 l3 rfl rfl)
    (peel 60 tk.pop.toNat rfl <| peel 52 tk.push.toNat rfl <| place_part 40 165 0 l3 rfl rfl)
    (field_eq <| place_hit tk.pop.isLt l1)
    (field_eq <| peel 60 tk.pop.toNat rfl <| place_hit tk.push.isLt l2)
    (field_eq <| peel 60 tk.pop.toNat rfl <| peel 52 tk.push.toNat rfl <| peel 40 165 rfl <| place_hit qa.isLt l4)
    (field_eq <| peel 60 tk.pop.toNat rfl <| peel 52 tk.push.toNat rfl <| peel 40 165 rfl <| peel 36 qa.toNat rfl <| place_hit qb.isLt l5)
    (field_eq <| peel 60 tk.pop.toNat rfl <| peel 52 tk.push.toNat rfl <| peel 40 165 rfl <| peel 36 qa.toNat rfl <| peel 32 qb.toNat rfl <| place_hit acc.isLt l6)
    (field_eq <| peel 60 tk.pop.toNat rfl <| peel 52 tk.push.toNat rfl <| peel 40 165 rfl <| peel 36 qa.toNat rfl <| peel 32 qb.toNat rfl <| peel 30 acc.toNat rfl <| place_hit sr.isLt l7)
    (field_eq <| peel 60 tk.pop.toNat rfl <| peel 52 tk.push.toNat rfl <| peel 40 165 rfl <| peel 36 qa.toNat rfl <| peel 32 qb.toNat rfl <| peel 30 acc.toNat rfl <| peel 27 sr.toNat rfl <| place_hit base.isLt l8)
    (field_eq <| peel 60 tk.pop.toNat rfl <| peel 52 tk.push.toNat rfl <| peel 40 165 rfl <| peel 36 qa.toNat rfl <| peel 32 qb.toNat rfl <| peel 30 acc.toNat rfl <| peel 27 sr.toNat rfl <| peel 16 base.toNat rfl <| place_hit n.isLt l9)
    (field_eq <| peel 60 tk.pop.toNat rfl <| peel 52 tk.push.toNat rfl <| peel 40 165 rfl <| peel 36 qa.toNat rfl <| peel 32 qb.toNat rfl <| peel 30 acc.toNat rfl <| peel 27 sr.toNat rfl <| peel 16 base.toNat rfl <| peel 10 n.toNat rfl <| place_hit kc.isLt l10)⟩

theorem Encoding.mxrun (tk : Tok) (qa qb : BitVec 4) (acc : BitVec 2) (sr : BitVec 3) (g : BitVec 5) (base n kc : BitVec 6) (p : BitVec 1) : Encoding.Statement (.mxrun tk qa qb acc sr g base n kc p) := by
  intro wd h
  have h0 : pack _ _ _ = wd := Option.some.inj h
  rw [pack_place] at h0; subst h0
  have l12 : place [] < 2 ^ 3 := Nat.two_pow_pos _
  have l11 := place_lt 4 p.isLt l12 rfl
  have l10 := place_lt 10 kc.isLt l11 rfl
  have l9 := place_lt 16 n.isLt l10 rfl
  have l8 := place_lt 22 base.isLt l9 rfl
  have l7 := place_lt 27 g.isLt l8 rfl
  have l6 := place_lt 30 sr.isLt l7 rfl
  have l5 := place_lt 32 acc.isLt l6 rfl
  have l4 := place_lt 36 qb.isLt l5 rfl
  have l3 := place_lt 40 qa.isLt l4 rfl
  have l2 := place_lt 52 (show 166 < 2 ^ 8 by decide) l3 rfl
  have l1 := place_lt 60 tk.push.isLt l2 rfl
  have l0 := place_lt 64 tk.pop.isLt l1 rfl
  have key : ∀ wd, nfield wd 45 3 = 5 → nfield wd 40 5 = 6 → field wd 60 4 = tk.pop → field wd 52 4 = tk.push → field wd 36 4 = qa → field wd 32 4 = qb → field wd 30 2 = acc → field wd 27 3 = sr → field wd 22 5 = g → field wd 16 6 = base → field wd 10 6 = n → field wd 4 6 = kc → field wd 3 1 = p → rawDecode wd = some (.mxrun tk qa qb acc sr g base n kc p) := by
    intro _ e0 e1 e2 e3 e4 e5 e6 e7 e8 e9 e10 e11 e12; simp only [rawDecode, rawMat, e0, e1, e2, e3, e4, e5, e6, e7, e8, e9, e10, e11, e12]
  exact ⟨l0, key _ (peel 60 tk.pop.toNat rfl <| peel 52 tk.push.toNat rfl <| place_part 40 166 5 l3 rfl rfl)
    (peel 60 tk.pop.toNat rfl <| peel 52 tk.push.toNat rfl <| place_part 40 166 0 l3 rfl rfl)
    (field_eq <| place_hit tk.pop.isLt l1)
    (field_eq <| peel 60 tk.pop.toNat rfl <| place_hit tk.push.isLt l2)
    (field_eq <| peel 60 tk.pop.toNat rfl <| peel 52 tk.push.toNat rfl <| peel 40 166 rfl <| place_hit qa.isLt l4)
    (field_eq <| peel 60 tk.pop.toNat rfl <| peel 52 tk.push.toNat rfl <| peel 40 166 rfl <| peel 36 qa.toNat rfl <| place_hit qb.isLt l5)
    (field_eq <| peel 60 tk.pop.toNat rfl <| peel 52 tk.push.toNat rfl <| peel 40 166 rfl <| peel 36 qa.toNat rfl <| peel 32 qb.toNat rfl <| place_hit acc.isLt l6)
    (field_eq <| peel 60 tk.pop.toNat rfl <| peel 52 tk.push.toNat rfl <| peel 40 166 rfl <| peel 36 qa.toNat rfl <| peel 32 qb.toNat rfl <| peel 30 acc.toNat rfl <| place_hit sr.isLt l7)
    (field_eq <| peel 60 tk.pop.toNat rfl <| peel 52 tk.push.toNat rfl <| peel 40 166 rfl <| peel 36 qa.toNat rfl <| peel 32 qb.toNat rfl <| peel 30 acc.toNat rfl <| peel 27 sr.toNat rfl <| place_hit g.isLt l8)
    (field_eq <| peel 60 tk.pop.toNat rfl <| peel 52 tk.push.toNat rfl <| peel 40 166 rfl <| peel 36 qa.toNat rfl <| peel 32 qb.toNat rfl <| peel 30 acc.toNat rfl <| peel 27 sr.toNat rfl <| peel 22 g.toNat rfl <| place_hit base.isLt l9)
    (field_eq <| peel 60 tk.pop.toNat rfl <| peel 52 tk.push.toNat rfl <| peel 40 166 rfl <| peel 36 qa.toNat rfl <| peel 32 qb.toNat rfl <| peel 30 acc.toNat rfl <| peel 27 sr.toNat rfl <| peel 22 g.toNat rfl <| peel 16 base.toNat rfl <| place_hit n.isLt l10)
    (field_eq <| peel 60 tk.pop.toNat rfl <| peel 52 tk.push.toNat rfl <| peel 40 166 rfl <| peel 36 qa.toNat rfl <| peel 32 qb.toNat rfl <| peel 30 acc.toNat rfl <| peel 27 sr.toNat rfl <| peel 22 g.toNat rfl <| peel 16 base.toNat rfl <| peel 10 n.toNat rfl <| place_hit kc.isLt l11)
    (field_eq <| peel 60 tk.pop.toNat rfl <| peel 52 tk.push.toNat rfl <| peel 40 166 rfl <| peel 36 qa.toNat rfl <| peel 32 qb.toNat rfl <| peel 30 acc.toNat rfl <| peel 27 sr.toNat rfl <| peel 22 g.toNat rfl <| peel 16 base.toNat rfl <| peel 10 n.toNat rfl <| peel 4 kc.toNat rfl <| place_hit p.isLt l12)⟩

theorem Encoding.mxgrad (tk : Tok) (qa qb qt : BitVec 4) (n kx ky : BitVec 6) : Encoding.Statement (.mxgrad tk qa qb qt n kx ky) := by
  intro wd h
  have h0 : pack _ _ _ = wd := Option.some.inj h
  rw [pack_place] at h0; subst h0
  have l9 : place [] < 2 ^ 0 := Nat.two_pow_pos _
  have l8 := place_lt 6 ky.isLt l9 rfl
  have l7 := place_lt 12 kx.isLt l8 rfl
  have l6 := place_lt 18 n.isLt l7 rfl
  have l5 := place_lt 32 qt.isLt l6 rfl
  have l4 := place_lt 36 qb.isLt l5 rfl
  have l3 := place_lt 40 qa.isLt l4 rfl
  have l2 := place_lt 52 (show 167 < 2 ^ 8 by decide) l3 rfl
  have l1 := place_lt 60 tk.push.isLt l2 rfl
  have l0 := place_lt 64 tk.pop.isLt l1 rfl
  have key : ∀ wd, nfield wd 45 3 = 5 → nfield wd 40 5 = 7 → field wd 60 4 = tk.pop → field wd 52 4 = tk.push → field wd 36 4 = qa → field wd 32 4 = qb → field wd 18 4 = qt → field wd 12 6 = n → field wd 6 6 = kx → field wd 0 6 = ky → rawDecode wd = some (.mxgrad tk qa qb qt n kx ky) := by
    intro _ e0 e1 e2 e3 e4 e5 e6 e7 e8 e9; simp only [rawDecode, rawMat, e0, e1, e2, e3, e4, e5, e6, e7, e8, e9]
  exact ⟨l0, key _ (peel 60 tk.pop.toNat rfl <| peel 52 tk.push.toNat rfl <| place_part 40 167 5 l3 rfl rfl)
    (peel 60 tk.pop.toNat rfl <| peel 52 tk.push.toNat rfl <| place_part 40 167 0 l3 rfl rfl)
    (field_eq <| place_hit tk.pop.isLt l1)
    (field_eq <| peel 60 tk.pop.toNat rfl <| place_hit tk.push.isLt l2)
    (field_eq <| peel 60 tk.pop.toNat rfl <| peel 52 tk.push.toNat rfl <| peel 40 167 rfl <| place_hit qa.isLt l4)
    (field_eq <| peel 60 tk.pop.toNat rfl <| peel 52 tk.push.toNat rfl <| peel 40 167 rfl <| peel 36 qa.toNat rfl <| place_hit qb.isLt l5)
    (field_eq <| peel 60 tk.pop.toNat rfl <| peel 52 tk.push.toNat rfl <| peel 40 167 rfl <| peel 36 qa.toNat rfl <| peel 32 qb.toNat rfl <| place_hit qt.isLt l6)
    (field_eq <| peel 60 tk.pop.toNat rfl <| peel 52 tk.push.toNat rfl <| peel 40 167 rfl <| peel 36 qa.toNat rfl <| peel 32 qb.toNat rfl <| peel 18 qt.toNat rfl <| place_hit n.isLt l7)
    (field_eq <| peel 60 tk.pop.toNat rfl <| peel 52 tk.push.toNat rfl <| peel 40 167 rfl <| peel 36 qa.toNat rfl <| peel 32 qb.toNat rfl <| peel 18 qt.toNat rfl <| peel 12 n.toNat rfl <| place_hit kx.isLt l8)
    (field_eq <| peel 60 tk.pop.toNat rfl <| peel 52 tk.push.toNat rfl <| peel 40 167 rfl <| peel 36 qa.toNat rfl <| peel 32 qb.toNat rfl <| peel 18 qt.toNat rfl <| peel 12 n.toNat rfl <| peel 6 kx.toNat rfl <| place_hit ky.isLt l9)⟩

theorem Encoding.mxres (tk : Tok) : Encoding.Statement (.mxres tk) := by
  intro wd h
  have h0 : pack _ _ _ = wd := Option.some.inj h
  rw [pack_place] at h0; subst h0
  have l3 : place [] < 2 ^ 40 := Nat.two_pow_pos _
  have l2 := place_lt 52 (show 168 < 2 ^ 8 by decide) l3 rfl
  have l1 := place_lt 60 tk.push.isLt l2 rfl
  have l0 := place_lt 64 tk.pop.isLt l1 rfl
  have key : ∀ wd, nfield wd 45 3 = 5 → nfield wd 40 5 = 8 → field wd 60 4 = tk.pop → field wd 52 4 = tk.push → rawDecode wd = some (.mxres tk) := by
    intro _ e0 e1 e2 e3; simp only [rawDecode, rawMat, e0, e1, e2, e3]
  exact ⟨l0, key _ (peel 60 tk.pop.toNat rfl <| peel 52 tk.push.toNat rfl <| place_part 40 168 5 l3 rfl rfl)
    (peel 60 tk.pop.toNat rfl <| peel 52 tk.push.toNat rfl <| place_part 40 168 0 l3 rfl rfl)
    (field_eq <| place_hit tk.pop.isLt l1)
    (field_eq <| peel 60 tk.pop.toNat rfl <| place_hit tk.push.isLt l2)⟩

theorem Encoding.mxacl (tk : Tok) (acc : BitVec 2) (sr : BitVec 3) (i : BitVec 1) : Encoding.Statement (.mxacl tk acc sr i) := by
  intro wd h
  have h0 : pack _ _ _ = wd := Option.some.inj h
  rw [pack_place] at h0; subst h0
  have l6 : place [] < 2 ^ 0 := Nat.two_pow_pos _
  have l5 := place_lt 27 i.isLt l6 rfl
  have l4 := place_lt 30 sr.isLt l5 rfl
  have l3 := place_lt 40 acc.isLt l4 rfl
  have l2 := place_lt 52 (show 169 < 2 ^ 8 by decide) l3 rfl
  have l1 := place_lt 60 tk.push.isLt l2 rfl
  have l0 := place_lt 64 tk.pop.isLt l1 rfl
  have key : ∀ wd, nfield wd 45 3 = 5 → nfield wd 40 5 = 9 → field wd 60 4 = tk.pop → field wd 52 4 = tk.push → field wd 30 2 = acc → field wd 27 3 = sr → field wd 0 1 = i → rawDecode wd = some (.mxacl tk acc sr i) := by
    intro _ e0 e1 e2 e3 e4 e5 e6; simp only [rawDecode, rawMat, e0, e1, e2, e3, e4, e5, e6]
  exact ⟨l0, key _ (peel 60 tk.pop.toNat rfl <| peel 52 tk.push.toNat rfl <| place_part 40 169 5 l3 rfl rfl)
    (peel 60 tk.pop.toNat rfl <| peel 52 tk.push.toNat rfl <| place_part 40 169 0 l3 rfl rfl)
    (field_eq <| place_hit tk.pop.isLt l1)
    (field_eq <| peel 60 tk.pop.toNat rfl <| place_hit tk.push.isLt l2)
    (field_eq <| peel 60 tk.pop.toNat rfl <| peel 52 tk.push.toNat rfl <| peel 40 169 rfl <| place_hit acc.isLt l4)
    (field_eq <| peel 60 tk.pop.toNat rfl <| peel 52 tk.push.toNat rfl <| peel 40 169 rfl <| peel 30 acc.toNat rfl <| place_hit sr.isLt l5)
    (field_eq <| peel 60 tk.pop.toNat rfl <| peel 52 tk.push.toNat rfl <| peel 40 169 rfl <| peel 30 acc.toNat rfl <| peel 27 sr.toNat rfl <| place_hit i.isLt l6)⟩

theorem Encoding.mxacr (tk : Tok) (qb : BitVec 4) (acc : BitVec 2) (dst : BitVec 1) (vd : BitVec 5) (all : BitVec 1) (quarter : BitVec 2) (i z : BitVec 1) (rm : BitVec 3) : Encoding.Statement (.mxacr tk qb acc dst vd all quarter i z rm) := by
  intro wd h
  have h0 : pack _ _ _ = wd := Option.some.inj h
  rw [pack_place] at h0; subst h0
  have l12 : place [] < 2 ^ 0 := Nat.two_pow_pos _
  have l11 := place_lt 8 rm.isLt l12 rfl
  have l10 := place_lt 12 z.isLt l11 rfl
  have l9 := place_lt 13 i.isLt l10 rfl
  have l8 := place_lt 15 quarter.isLt l9 rfl
  have l7 := place_lt 16 all.isLt l8 rfl
  have l6 := place_lt 21 vd.isLt l7 rfl
  have l5 := place_lt 30 dst.isLt l6 rfl
  have l4 := place_lt 32 acc.isLt l5 rfl
  have l3 := place_lt 40 qb.isLt l4 rfl
  have l2 := place_lt 52 (show 170 < 2 ^ 8 by decide) l3 rfl
  have l1 := place_lt 60 tk.push.isLt l2 rfl
  have l0 := place_lt 64 tk.pop.isLt l1 rfl
  have key : ∀ wd, nfield wd 45 3 = 5 → nfield wd 40 5 = 10 → field wd 60 4 = tk.pop → field wd 52 4 = tk.push → field wd 32 4 = qb → field wd 30 2 = acc → field wd 21 1 = dst → field wd 16 5 = vd → field wd 15 1 = all → field wd 13 2 = quarter → field wd 12 1 = i → field wd 8 1 = z → field wd 0 3 = rm → rawDecode wd = some (.mxacr tk qb acc dst vd all quarter i z rm) := by
    intro _ e0 e1 e2 e3 e4 e5 e6 e7 e8 e9 e10 e11 e12; simp only [rawDecode, rawMat, e0, e1, e2, e3, e4, e5, e6, e7, e8, e9, e10, e11, e12]
  exact ⟨l0, key _ (peel 60 tk.pop.toNat rfl <| peel 52 tk.push.toNat rfl <| place_part 40 170 5 l3 rfl rfl)
    (peel 60 tk.pop.toNat rfl <| peel 52 tk.push.toNat rfl <| place_part 40 170 0 l3 rfl rfl)
    (field_eq <| place_hit tk.pop.isLt l1)
    (field_eq <| peel 60 tk.pop.toNat rfl <| place_hit tk.push.isLt l2)
    (field_eq <| peel 60 tk.pop.toNat rfl <| peel 52 tk.push.toNat rfl <| peel 40 170 rfl <| place_hit qb.isLt l4)
    (field_eq <| peel 60 tk.pop.toNat rfl <| peel 52 tk.push.toNat rfl <| peel 40 170 rfl <| peel 32 qb.toNat rfl <| place_hit acc.isLt l5)
    (field_eq <| peel 60 tk.pop.toNat rfl <| peel 52 tk.push.toNat rfl <| peel 40 170 rfl <| peel 32 qb.toNat rfl <| peel 30 acc.toNat rfl <| place_hit dst.isLt l6)
    (field_eq <| peel 60 tk.pop.toNat rfl <| peel 52 tk.push.toNat rfl <| peel 40 170 rfl <| peel 32 qb.toNat rfl <| peel 30 acc.toNat rfl <| peel 21 dst.toNat rfl <| place_hit vd.isLt l7)
    (field_eq <| peel 60 tk.pop.toNat rfl <| peel 52 tk.push.toNat rfl <| peel 40 170 rfl <| peel 32 qb.toNat rfl <| peel 30 acc.toNat rfl <| peel 21 dst.toNat rfl <| peel 16 vd.toNat rfl <| place_hit all.isLt l8)
    (field_eq <| peel 60 tk.pop.toNat rfl <| peel 52 tk.push.toNat rfl <| peel 40 170 rfl <| peel 32 qb.toNat rfl <| peel 30 acc.toNat rfl <| peel 21 dst.toNat rfl <| peel 16 vd.toNat rfl <| peel 15 all.toNat rfl <| place_hit quarter.isLt l9)
    (field_eq <| peel 60 tk.pop.toNat rfl <| peel 52 tk.push.toNat rfl <| peel 40 170 rfl <| peel 32 qb.toNat rfl <| peel 30 acc.toNat rfl <| peel 21 dst.toNat rfl <| peel 16 vd.toNat rfl <| peel 15 all.toNat rfl <| peel 13 quarter.toNat rfl <| place_hit i.isLt l10)
    (field_eq <| peel 60 tk.pop.toNat rfl <| peel 52 tk.push.toNat rfl <| peel 40 170 rfl <| peel 32 qb.toNat rfl <| peel 30 acc.toNat rfl <| peel 21 dst.toNat rfl <| peel 16 vd.toNat rfl <| peel 15 all.toNat rfl <| peel 13 quarter.toNat rfl <| peel 12 i.toNat rfl <| place_hit z.isLt l11)
    (field_eq <| peel 60 tk.pop.toNat rfl <| peel 52 tk.push.toNat rfl <| peel 40 170 rfl <| peel 32 qb.toNat rfl <| peel 30 acc.toNat rfl <| peel 21 dst.toNat rfl <| peel 16 vd.toNat rfl <| peel 15 all.toNat rfl <| peel 13 quarter.toNat rfl <| peel 12 i.toNat rfl <| peel 8 z.toNat rfl <| place_hit rm.isLt l12)⟩

theorem Encoding.mxstat (tk : Tok) (sel : BitVec 4) : Encoding.Statement (.mxstat tk sel) := by
  intro wd h
  have h0 : pack _ _ _ = wd := Option.some.inj h
  rw [pack_place] at h0; subst h0
  have l4 : place [] < 2 ^ 0 := Nat.two_pow_pos _
  have l3 := place_lt 40 sel.isLt l4 rfl
  have l2 := place_lt 52 (show 171 < 2 ^ 8 by decide) l3 rfl
  have l1 := place_lt 60 tk.push.isLt l2 rfl
  have l0 := place_lt 64 tk.pop.isLt l1 rfl
  have key : ∀ wd, nfield wd 45 3 = 5 → nfield wd 40 5 = 11 → field wd 60 4 = tk.pop → field wd 52 4 = tk.push → field wd 0 4 = sel → rawDecode wd = some (.mxstat tk sel) := by
    intro _ e0 e1 e2 e3 e4; simp only [rawDecode, rawMat, e0, e1, e2, e3, e4]
  exact ⟨l0, key _ (peel 60 tk.pop.toNat rfl <| peel 52 tk.push.toNat rfl <| place_part 40 171 5 l3 rfl rfl)
    (peel 60 tk.pop.toNat rfl <| peel 52 tk.push.toNat rfl <| place_part 40 171 0 l3 rfl rfl)
    (field_eq <| place_hit tk.pop.isLt l1)
    (field_eq <| peel 60 tk.pop.toNat rfl <| place_hit tk.push.isLt l2)
    (field_eq <| peel 60 tk.pop.toNat rfl <| peel 52 tk.push.toNat rfl <| peel 40 171 rfl <| place_hit sel.isLt l4)⟩

theorem Encoding.fence (tk : Tok) (sc : BitVec 5) (kind : BitVec 2) : Encoding.Statement (.fence tk sc kind) := by
  intro wd h
  have h0 : pack _ _ _ = wd := Option.some.inj h
  rw [pack_place] at h0; subst h0
  have l5 : place [] < 2 ^ 0 := Nat.two_pow_pos _
  have l4 := place_lt 35 kind.isLt l5 rfl
  have l3 := place_lt 40 sc.isLt l4 rfl
  have l2 := place_lt 52 (show 192 < 2 ^ 8 by decide) l3 rfl
  have l1 := place_lt 60 tk.push.isLt l2 rfl
  have l0 := place_lt 64 tk.pop.isLt l1 rfl
  have key : ∀ wd, nfield wd 45 3 = 6 → nfield wd 40 5 = 0 → field wd 60 4 = tk.pop → field wd 52 4 = tk.push → field wd 35 5 = sc → field wd 0 2 = kind → rawDecode wd = some (.fence tk sc kind) := by
    intro _ e0 e1 e2 e3 e4 e5; simp only [rawDecode, rawSyn, e0, e1, e2, e3, e4, e5]
  exact ⟨l0, key _ (peel 60 tk.pop.toNat rfl <| peel 52 tk.push.toNat rfl <| place_part 40 192 5 l3 rfl rfl)
    (peel 60 tk.pop.toNat rfl <| peel 52 tk.push.toNat rfl <| place_part 40 192 0 l3 rfl rfl)
    (field_eq <| place_hit tk.pop.isLt l1)
    (field_eq <| peel 60 tk.pop.toNat rfl <| place_hit tk.push.isLt l2)
    (field_eq <| peel 60 tk.pop.toNat rfl <| peel 52 tk.push.toNat rfl <| peel 40 192 rfl <| place_hit sc.isLt l4)
    (field_eq <| peel 60 tk.pop.toNat rfl <| peel 52 tk.push.toNat rfl <| peel 40 192 rfl <| peel 35 sc.toNat rfl <| place_hit kind.isLt l5)⟩

theorem Encoding.setf (tk : Tok) (sc a b : BitVec 5) (rem : BitVec 1) (flag : BitVec 6) : Encoding.Statement (.setf tk sc a b rem flag) := by
  intro wd h
  have h0 : pack _ _ _ = wd := Option.some.inj h
  rw [pack_place] at h0; subst h0
  have l8 : place [] < 2 ^ 0 := Nat.two_pow_pos _
  have l7 := place_lt 6 flag.isLt l8 rfl
  have l6 := place_lt 25 rem.isLt l7 rfl
  have l5 := place_lt 30 b.isLt l6 rfl
  have l4 := place_lt 35 a.isLt l5 rfl
  have l3 := place_lt 40 sc.isLt l4 rfl
  have l2 := place_lt 52 (show 193 < 2 ^ 8 by decide) l3 rfl
  have l1 := place_lt 60 tk.push.isLt l2 rfl
  have l0 := place_lt 64 tk.pop.isLt l1 rfl
  have key : ∀ wd, nfield wd 45 3 = 6 → nfield wd 40 5 = 1 → field wd 60 4 = tk.pop → field wd 52 4 = tk.push → field wd 35 5 = sc → field wd 30 5 = a → field wd 25 5 = b → field wd 6 1 = rem → field wd 0 6 = flag → rawDecode wd = some (.setf tk sc a b rem flag) := by
    intro _ e0 e1 e2 e3 e4 e5 e6 e7 e8; simp only [rawDecode, rawSyn, e0, e1, e2, e3, e4, e5, e6, e7, e8]
  exact ⟨l0, key _ (peel 60 tk.pop.toNat rfl <| peel 52 tk.push.toNat rfl <| place_part 40 193 5 l3 rfl rfl)
    (peel 60 tk.pop.toNat rfl <| peel 52 tk.push.toNat rfl <| place_part 40 193 0 l3 rfl rfl)
    (field_eq <| place_hit tk.pop.isLt l1)
    (field_eq <| peel 60 tk.pop.toNat rfl <| place_hit tk.push.isLt l2)
    (field_eq <| peel 60 tk.pop.toNat rfl <| peel 52 tk.push.toNat rfl <| peel 40 193 rfl <| place_hit sc.isLt l4)
    (field_eq <| peel 60 tk.pop.toNat rfl <| peel 52 tk.push.toNat rfl <| peel 40 193 rfl <| peel 35 sc.toNat rfl <| place_hit a.isLt l5)
    (field_eq <| peel 60 tk.pop.toNat rfl <| peel 52 tk.push.toNat rfl <| peel 40 193 rfl <| peel 35 sc.toNat rfl <| peel 30 a.toNat rfl <| place_hit b.isLt l6)
    (field_eq <| peel 60 tk.pop.toNat rfl <| peel 52 tk.push.toNat rfl <| peel 40 193 rfl <| peel 35 sc.toNat rfl <| peel 30 a.toNat rfl <| peel 25 b.toNat rfl <| place_hit rem.isLt l7)
    (field_eq <| peel 60 tk.pop.toNat rfl <| peel 52 tk.push.toNat rfl <| peel 40 193 rfl <| peel 35 sc.toNat rfl <| peel 30 a.toNat rfl <| peel 25 b.toNat rfl <| peel 6 rem.toNat rfl <| place_hit flag.isLt l8)⟩

theorem Encoding.addf (tk : Tok) (sc a b : BitVec 5) (rem : BitVec 1) (flag : BitVec 6) : Encoding.Statement (.addf tk sc a b rem flag) := by
  intro wd h
  have h0 : pack _ _ _ = wd := Option.some.inj h
  rw [pack_place] at h0; subst h0
  have l8 : place [] < 2 ^ 0 := Nat.two_pow_pos _
  have l7 := place_lt 6 flag.isLt l8 rfl
  have l6 := place_lt 25 rem.isLt l7 rfl
  have l5 := place_lt 30 b.isLt l6 rfl
  have l4 := place_lt 35 a.isLt l5 rfl
  have l3 := place_lt 40 sc.isLt l4 rfl
  have l2 := place_lt 52 (show 194 < 2 ^ 8 by decide) l3 rfl
  have l1 := place_lt 60 tk.push.isLt l2 rfl
  have l0 := place_lt 64 tk.pop.isLt l1 rfl
  have key : ∀ wd, nfield wd 45 3 = 6 → nfield wd 40 5 = 2 → field wd 60 4 = tk.pop → field wd 52 4 = tk.push → field wd 35 5 = sc → field wd 30 5 = a → field wd 25 5 = b → field wd 6 1 = rem → field wd 0 6 = flag → rawDecode wd = some (.addf tk sc a b rem flag) := by
    intro _ e0 e1 e2 e3 e4 e5 e6 e7 e8; simp only [rawDecode, rawSyn, e0, e1, e2, e3, e4, e5, e6, e7, e8]
  exact ⟨l0, key _ (peel 60 tk.pop.toNat rfl <| peel 52 tk.push.toNat rfl <| place_part 40 194 5 l3 rfl rfl)
    (peel 60 tk.pop.toNat rfl <| peel 52 tk.push.toNat rfl <| place_part 40 194 0 l3 rfl rfl)
    (field_eq <| place_hit tk.pop.isLt l1)
    (field_eq <| peel 60 tk.pop.toNat rfl <| place_hit tk.push.isLt l2)
    (field_eq <| peel 60 tk.pop.toNat rfl <| peel 52 tk.push.toNat rfl <| peel 40 194 rfl <| place_hit sc.isLt l4)
    (field_eq <| peel 60 tk.pop.toNat rfl <| peel 52 tk.push.toNat rfl <| peel 40 194 rfl <| peel 35 sc.toNat rfl <| place_hit a.isLt l5)
    (field_eq <| peel 60 tk.pop.toNat rfl <| peel 52 tk.push.toNat rfl <| peel 40 194 rfl <| peel 35 sc.toNat rfl <| peel 30 a.toNat rfl <| place_hit b.isLt l6)
    (field_eq <| peel 60 tk.pop.toNat rfl <| peel 52 tk.push.toNat rfl <| peel 40 194 rfl <| peel 35 sc.toNat rfl <| peel 30 a.toNat rfl <| peel 25 b.toNat rfl <| place_hit rem.isLt l7)
    (field_eq <| peel 60 tk.pop.toNat rfl <| peel 52 tk.push.toNat rfl <| peel 40 194 rfl <| peel 35 sc.toNat rfl <| peel 30 a.toNat rfl <| peel 25 b.toNat rfl <| peel 6 rem.toNat rfl <| place_hit flag.isLt l8)⟩

theorem Encoding.waitf (tk : Tok) (sc b : BitVec 5) (flag : BitVec 6) : Encoding.Statement (.waitf tk sc b flag) := by
  intro wd h
  have h0 : pack _ _ _ = wd := Option.some.inj h
  rw [pack_place] at h0; subst h0
  have l6 : place [] < 2 ^ 0 := Nat.two_pow_pos _
  have l5 := place_lt 25 flag.isLt l6 rfl
  have l4 := place_lt 35 b.isLt l5 rfl
  have l3 := place_lt 40 sc.isLt l4 rfl
  have l2 := place_lt 52 (show 195 < 2 ^ 8 by decide) l3 rfl
  have l1 := place_lt 60 tk.push.isLt l2 rfl
  have l0 := place_lt 64 tk.pop.isLt l1 rfl
  have key : ∀ wd, nfield wd 45 3 = 6 → nfield wd 40 5 = 3 → field wd 60 4 = tk.pop → field wd 52 4 = tk.push → field wd 35 5 = sc → field wd 25 5 = b → field wd 0 6 = flag → rawDecode wd = some (.waitf tk sc b flag) := by
    intro _ e0 e1 e2 e3 e4 e5 e6; simp only [rawDecode, rawSyn, e0, e1, e2, e3, e4, e5, e6]
  exact ⟨l0, key _ (peel 60 tk.pop.toNat rfl <| peel 52 tk.push.toNat rfl <| place_part 40 195 5 l3 rfl rfl)
    (peel 60 tk.pop.toNat rfl <| peel 52 tk.push.toNat rfl <| place_part 40 195 0 l3 rfl rfl)
    (field_eq <| place_hit tk.pop.isLt l1)
    (field_eq <| peel 60 tk.pop.toNat rfl <| place_hit tk.push.isLt l2)
    (field_eq <| peel 60 tk.pop.toNat rfl <| peel 52 tk.push.toNat rfl <| peel 40 195 rfl <| place_hit sc.isLt l4)
    (field_eq <| peel 60 tk.pop.toNat rfl <| peel 52 tk.push.toNat rfl <| peel 40 195 rfl <| peel 35 sc.toNat rfl <| place_hit b.isLt l5)
    (field_eq <| peel 60 tk.pop.toNat rfl <| peel 52 tk.push.toNat rfl <| peel 40 195 rfl <| peel 35 sc.toNat rfl <| peel 25 b.toNat rfl <| place_hit flag.isLt l6)⟩

theorem Encoding.tktTake (tk : Tok) (sc a d : BitVec 5) : Encoding.Statement (.tktTake tk sc a d) := by
  intro wd h
  have h0 : pack _ _ _ = wd := Option.some.inj h
  rw [pack_place] at h0; subst h0
  have l6 : place [] < 2 ^ 20 := Nat.two_pow_pos _
  have l5 := place_lt 30 d.isLt l6 rfl
  have l4 := place_lt 35 a.isLt l5 rfl
  have l3 := place_lt 40 sc.isLt l4 rfl
  have l2 := place_lt 52 (show 196 < 2 ^ 8 by decide) l3 rfl
  have l1 := place_lt 60 tk.push.isLt l2 rfl
  have l0 := place_lt 64 tk.pop.isLt l1 rfl
  have key : ∀ wd, nfield wd 45 3 = 6 → nfield wd 40 5 = 4 → field wd 60 4 = tk.pop → field wd 52 4 = tk.push → field wd 35 5 = sc → field wd 30 5 = a → field wd 20 5 = d → rawDecode wd = some (.tktTake tk sc a d) := by
    intro _ e0 e1 e2 e3 e4 e5 e6; simp only [rawDecode, rawSyn, e0, e1, e2, e3, e4, e5, e6]
  exact ⟨l0, key _ (peel 60 tk.pop.toNat rfl <| peel 52 tk.push.toNat rfl <| place_part 40 196 5 l3 rfl rfl)
    (peel 60 tk.pop.toNat rfl <| peel 52 tk.push.toNat rfl <| place_part 40 196 0 l3 rfl rfl)
    (field_eq <| place_hit tk.pop.isLt l1)
    (field_eq <| peel 60 tk.pop.toNat rfl <| place_hit tk.push.isLt l2)
    (field_eq <| peel 60 tk.pop.toNat rfl <| peel 52 tk.push.toNat rfl <| peel 40 196 rfl <| place_hit sc.isLt l4)
    (field_eq <| peel 60 tk.pop.toNat rfl <| peel 52 tk.push.toNat rfl <| peel 40 196 rfl <| peel 35 sc.toNat rfl <| place_hit a.isLt l5)
    (field_eq <| peel 60 tk.pop.toNat rfl <| peel 52 tk.push.toNat rfl <| peel 40 196 rfl <| peel 35 sc.toNat rfl <| peel 30 a.toNat rfl <| place_hit d.isLt l6)⟩

theorem Encoding.tktWait (tk : Tok) (sc a b : BitVec 5) : Encoding.Statement (.tktWait tk sc a b) := by
  intro wd h
  have h0 : pack _ _ _ = wd := Option.some.inj h
  rw [pack_place] at h0; subst h0
  have l6 : place [] < 2 ^ 25 := Nat.two_pow_pos _
  have l5 := place_lt 30 b.isLt l6 rfl
  have l4 := place_lt 35 a.isLt l5 rfl
  have l3 := place_lt 40 sc.isLt l4 rfl
  have l2 := place_lt 52 (show 197 < 2 ^ 8 by decide) l3 rfl
  have l1 := place_lt 60 tk.push.isLt l2 rfl
  have l0 := place_lt 64 tk.pop.isLt l1 rfl
  have key : ∀ wd, nfield wd 45 3 = 6 → nfield wd 40 5 = 5 → field wd 60 4 = tk.pop → field wd 52 4 = tk.push → field wd 35 5 = sc → field wd 30 5 = a → field wd 25 5 = b → rawDecode wd = some (.tktWait tk sc a b) := by
    intro _ e0 e1 e2 e3 e4 e5 e6; simp only [rawDecode, rawSyn, e0, e1, e2, e3, e4, e5, e6]
  exact ⟨l0, key _ (peel 60 tk.pop.toNat rfl <| peel 52 tk.push.toNat rfl <| place_part 40 197 5 l3 rfl rfl)
    (peel 60 tk.pop.toNat rfl <| peel 52 tk.push.toNat rfl <| place_part 40 197 0 l3 rfl rfl)
    (field_eq <| place_hit tk.pop.isLt l1)
    (field_eq <| peel 60 tk.pop.toNat rfl <| place_hit tk.push.isLt l2)
    (field_eq <| peel 60 tk.pop.toNat rfl <| peel 52 tk.push.toNat rfl <| peel 40 197 rfl <| place_hit sc.isLt l4)
    (field_eq <| peel 60 tk.pop.toNat rfl <| peel 52 tk.push.toNat rfl <| peel 40 197 rfl <| peel 35 sc.toNat rfl <| place_hit a.isLt l5)
    (field_eq <| peel 60 tk.pop.toNat rfl <| peel 52 tk.push.toNat rfl <| peel 40 197 rfl <| peel 35 sc.toNat rfl <| peel 30 a.toNat rfl <| place_hit b.isLt l6)⟩

theorem Encoding.tktDone (tk : Tok) (sc a : BitVec 5) : Encoding.Statement (.tktDone tk sc a) := by
  intro wd h
  have h0 : pack _ _ _ = wd := Option.some.inj h
  rw [pack_place] at h0; subst h0
  have l5 : place [] < 2 ^ 30 := Nat.two_pow_pos _
  have l4 := place_lt 35 a.isLt l5 rfl
  have l3 := place_lt 40 sc.isLt l4 rfl
  have l2 := place_lt 52 (show 198 < 2 ^ 8 by decide) l3 rfl
  have l1 := place_lt 60 tk.push.isLt l2 rfl
  have l0 := place_lt 64 tk.pop.isLt l1 rfl
  have key : ∀ wd, nfield wd 45 3 = 6 → nfield wd 40 5 = 6 → field wd 60 4 = tk.pop → field wd 52 4 = tk.push → field wd 35 5 = sc → field wd 30 5 = a → rawDecode wd = some (.tktDone tk sc a) := by
    intro _ e0 e1 e2 e3 e4 e5; simp only [rawDecode, rawSyn, e0, e1, e2, e3, e4, e5]
  exact ⟨l0, key _ (peel 60 tk.pop.toNat rfl <| peel 52 tk.push.toNat rfl <| place_part 40 198 5 l3 rfl rfl)
    (peel 60 tk.pop.toNat rfl <| peel 52 tk.push.toNat rfl <| place_part 40 198 0 l3 rfl rfl)
    (field_eq <| place_hit tk.pop.isLt l1)
    (field_eq <| peel 60 tk.pop.toNat rfl <| place_hit tk.push.isLt l2)
    (field_eq <| peel 60 tk.pop.toNat rfl <| peel 52 tk.push.toNat rfl <| peel 40 198 rfl <| place_hit sc.isLt l4)
    (field_eq <| peel 60 tk.pop.toNat rfl <| peel 52 tk.push.toNat rfl <| peel 40 198 rfl <| peel 35 sc.toNat rfl <| place_hit a.isLt l5)⟩

theorem Encoding.aadd (tk : Tok) (sc a b d : BitVec 5) (ty : BitVec 3) (ord : BitVec 2) : Encoding.Statement (.aadd tk sc a b d ty ord) := by
  intro wd h
  have h0 : pack _ _ _ = wd := Option.some.inj h
  rw [pack_place] at h0; subst h0
  have l9 : place [] < 2 ^ 10 := Nat.two_pow_pos _
  have l8 := place_lt 12 ord.isLt l9 rfl
  have l7 := place_lt 20 ty.isLt l8 rfl
  have l6 := place_lt 25 d.isLt l7 rfl
  have l5 := place_lt 30 b.isLt l6 rfl
  have l4 := place_lt 35 a.isLt l5 rfl
  have l3 := place_lt 40 sc.isLt l4 rfl
  have l2 := place_lt 52 (show 199 < 2 ^ 8 by decide) l3 rfl
  have l1 := place_lt 60 tk.push.isLt l2 rfl
  have l0 := place_lt 64 tk.pop.isLt l1 rfl
  have key : ∀ wd, nfield wd 45 3 = 6 → nfield wd 40 5 = 7 → field wd 60 4 = tk.pop → field wd 52 4 = tk.push → field wd 35 5 = sc → field wd 30 5 = a → field wd 25 5 = b → field wd 20 5 = d → field wd 12 3 = ty → field wd 10 2 = ord → rawDecode wd = some (.aadd tk sc a b d ty ord) := by
    intro _ e0 e1 e2 e3 e4 e5 e6 e7 e8 e9; simp only [rawDecode, rawSyn, e0, e1, e2, e3, e4, e5, e6, e7, e8, e9]
  exact ⟨l0, key _ (peel 60 tk.pop.toNat rfl <| peel 52 tk.push.toNat rfl <| place_part 40 199 5 l3 rfl rfl)
    (peel 60 tk.pop.toNat rfl <| peel 52 tk.push.toNat rfl <| place_part 40 199 0 l3 rfl rfl)
    (field_eq <| place_hit tk.pop.isLt l1)
    (field_eq <| peel 60 tk.pop.toNat rfl <| place_hit tk.push.isLt l2)
    (field_eq <| peel 60 tk.pop.toNat rfl <| peel 52 tk.push.toNat rfl <| peel 40 199 rfl <| place_hit sc.isLt l4)
    (field_eq <| peel 60 tk.pop.toNat rfl <| peel 52 tk.push.toNat rfl <| peel 40 199 rfl <| peel 35 sc.toNat rfl <| place_hit a.isLt l5)
    (field_eq <| peel 60 tk.pop.toNat rfl <| peel 52 tk.push.toNat rfl <| peel 40 199 rfl <| peel 35 sc.toNat rfl <| peel 30 a.toNat rfl <| place_hit b.isLt l6)
    (field_eq <| peel 60 tk.pop.toNat rfl <| peel 52 tk.push.toNat rfl <| peel 40 199 rfl <| peel 35 sc.toNat rfl <| peel 30 a.toNat rfl <| peel 25 b.toNat rfl <| place_hit d.isLt l7)
    (field_eq <| peel 60 tk.pop.toNat rfl <| peel 52 tk.push.toNat rfl <| peel 40 199 rfl <| peel 35 sc.toNat rfl <| peel 30 a.toNat rfl <| peel 25 b.toNat rfl <| peel 20 d.toNat rfl <| place_hit ty.isLt l8)
    (field_eq <| peel 60 tk.pop.toNat rfl <| peel 52 tk.push.toNat rfl <| peel 40 199 rfl <| peel 35 sc.toNat rfl <| peel 30 a.toNat rfl <| peel 25 b.toNat rfl <| peel 20 d.toNat rfl <| peel 12 ty.toNat rfl <| place_hit ord.isLt l9)⟩

theorem Encoding.amin (tk : Tok) (sc a b d : BitVec 5) (ty : BitVec 3) (ord : BitVec 2) : Encoding.Statement (.amin tk sc a b d ty ord) := by
  intro wd h
  have h0 : pack _ _ _ = wd := Option.some.inj h
  rw [pack_place] at h0; subst h0
  have l9 : place [] < 2 ^ 10 := Nat.two_pow_pos _
  have l8 := place_lt 12 ord.isLt l9 rfl
  have l7 := place_lt 20 ty.isLt l8 rfl
  have l6 := place_lt 25 d.isLt l7 rfl
  have l5 := place_lt 30 b.isLt l6 rfl
  have l4 := place_lt 35 a.isLt l5 rfl
  have l3 := place_lt 40 sc.isLt l4 rfl
  have l2 := place_lt 52 (show 200 < 2 ^ 8 by decide) l3 rfl
  have l1 := place_lt 60 tk.push.isLt l2 rfl
  have l0 := place_lt 64 tk.pop.isLt l1 rfl
  have key : ∀ wd, nfield wd 45 3 = 6 → nfield wd 40 5 = 8 → field wd 60 4 = tk.pop → field wd 52 4 = tk.push → field wd 35 5 = sc → field wd 30 5 = a → field wd 25 5 = b → field wd 20 5 = d → field wd 12 3 = ty → field wd 10 2 = ord → rawDecode wd = some (.amin tk sc a b d ty ord) := by
    intro _ e0 e1 e2 e3 e4 e5 e6 e7 e8 e9; simp only [rawDecode, rawSyn, e0, e1, e2, e3, e4, e5, e6, e7, e8, e9]
  exact ⟨l0, key _ (peel 60 tk.pop.toNat rfl <| peel 52 tk.push.toNat rfl <| place_part 40 200 5 l3 rfl rfl)
    (peel 60 tk.pop.toNat rfl <| peel 52 tk.push.toNat rfl <| place_part 40 200 0 l3 rfl rfl)
    (field_eq <| place_hit tk.pop.isLt l1)
    (field_eq <| peel 60 tk.pop.toNat rfl <| place_hit tk.push.isLt l2)
    (field_eq <| peel 60 tk.pop.toNat rfl <| peel 52 tk.push.toNat rfl <| peel 40 200 rfl <| place_hit sc.isLt l4)
    (field_eq <| peel 60 tk.pop.toNat rfl <| peel 52 tk.push.toNat rfl <| peel 40 200 rfl <| peel 35 sc.toNat rfl <| place_hit a.isLt l5)
    (field_eq <| peel 60 tk.pop.toNat rfl <| peel 52 tk.push.toNat rfl <| peel 40 200 rfl <| peel 35 sc.toNat rfl <| peel 30 a.toNat rfl <| place_hit b.isLt l6)
    (field_eq <| peel 60 tk.pop.toNat rfl <| peel 52 tk.push.toNat rfl <| peel 40 200 rfl <| peel 35 sc.toNat rfl <| peel 30 a.toNat rfl <| peel 25 b.toNat rfl <| place_hit d.isLt l7)
    (field_eq <| peel 60 tk.pop.toNat rfl <| peel 52 tk.push.toNat rfl <| peel 40 200 rfl <| peel 35 sc.toNat rfl <| peel 30 a.toNat rfl <| peel 25 b.toNat rfl <| peel 20 d.toNat rfl <| place_hit ty.isLt l8)
    (field_eq <| peel 60 tk.pop.toNat rfl <| peel 52 tk.push.toNat rfl <| peel 40 200 rfl <| peel 35 sc.toNat rfl <| peel 30 a.toNat rfl <| peel 25 b.toNat rfl <| peel 20 d.toNat rfl <| peel 12 ty.toNat rfl <| place_hit ord.isLt l9)⟩

theorem Encoding.amax (tk : Tok) (sc a b d : BitVec 5) (ty : BitVec 3) (ord : BitVec 2) : Encoding.Statement (.amax tk sc a b d ty ord) := by
  intro wd h
  have h0 : pack _ _ _ = wd := Option.some.inj h
  rw [pack_place] at h0; subst h0
  have l9 : place [] < 2 ^ 10 := Nat.two_pow_pos _
  have l8 := place_lt 12 ord.isLt l9 rfl
  have l7 := place_lt 20 ty.isLt l8 rfl
  have l6 := place_lt 25 d.isLt l7 rfl
  have l5 := place_lt 30 b.isLt l6 rfl
  have l4 := place_lt 35 a.isLt l5 rfl
  have l3 := place_lt 40 sc.isLt l4 rfl
  have l2 := place_lt 52 (show 201 < 2 ^ 8 by decide) l3 rfl
  have l1 := place_lt 60 tk.push.isLt l2 rfl
  have l0 := place_lt 64 tk.pop.isLt l1 rfl
  have key : ∀ wd, nfield wd 45 3 = 6 → nfield wd 40 5 = 9 → field wd 60 4 = tk.pop → field wd 52 4 = tk.push → field wd 35 5 = sc → field wd 30 5 = a → field wd 25 5 = b → field wd 20 5 = d → field wd 12 3 = ty → field wd 10 2 = ord → rawDecode wd = some (.amax tk sc a b d ty ord) := by
    intro _ e0 e1 e2 e3 e4 e5 e6 e7 e8 e9; simp only [rawDecode, rawSyn, e0, e1, e2, e3, e4, e5, e6, e7, e8, e9]
  exact ⟨l0, key _ (peel 60 tk.pop.toNat rfl <| peel 52 tk.push.toNat rfl <| place_part 40 201 5 l3 rfl rfl)
    (peel 60 tk.pop.toNat rfl <| peel 52 tk.push.toNat rfl <| place_part 40 201 0 l3 rfl rfl)
    (field_eq <| place_hit tk.pop.isLt l1)
    (field_eq <| peel 60 tk.pop.toNat rfl <| place_hit tk.push.isLt l2)
    (field_eq <| peel 60 tk.pop.toNat rfl <| peel 52 tk.push.toNat rfl <| peel 40 201 rfl <| place_hit sc.isLt l4)
    (field_eq <| peel 60 tk.pop.toNat rfl <| peel 52 tk.push.toNat rfl <| peel 40 201 rfl <| peel 35 sc.toNat rfl <| place_hit a.isLt l5)
    (field_eq <| peel 60 tk.pop.toNat rfl <| peel 52 tk.push.toNat rfl <| peel 40 201 rfl <| peel 35 sc.toNat rfl <| peel 30 a.toNat rfl <| place_hit b.isLt l6)
    (field_eq <| peel 60 tk.pop.toNat rfl <| peel 52 tk.push.toNat rfl <| peel 40 201 rfl <| peel 35 sc.toNat rfl <| peel 30 a.toNat rfl <| peel 25 b.toNat rfl <| place_hit d.isLt l7)
    (field_eq <| peel 60 tk.pop.toNat rfl <| peel 52 tk.push.toNat rfl <| peel 40 201 rfl <| peel 35 sc.toNat rfl <| peel 30 a.toNat rfl <| peel 25 b.toNat rfl <| peel 20 d.toNat rfl <| place_hit ty.isLt l8)
    (field_eq <| peel 60 tk.pop.toNat rfl <| peel 52 tk.push.toNat rfl <| peel 40 201 rfl <| peel 35 sc.toNat rfl <| peel 30 a.toNat rfl <| peel 25 b.toNat rfl <| peel 20 d.toNat rfl <| peel 12 ty.toNat rfl <| place_hit ord.isLt l9)⟩

theorem Encoding.acas (tk : Tok) (sc a b d c : BitVec 5) (ty : BitVec 3) (ord : BitVec 2) : Encoding.Statement (.acas tk sc a b d c ty ord) := by
  intro wd h
  have h0 : pack _ _ _ = wd := Option.some.inj h
  rw [pack_place] at h0; subst h0
  have l10 : place [] < 2 ^ 10 := Nat.two_pow_pos _
  have l9 := place_lt 12 ord.isLt l10 rfl
  have l8 := place_lt 15 ty.isLt l9 rfl
  have l7 := place_lt 20 c.isLt l8 rfl
  have l6 := place_lt 25 d.isLt l7 rfl
  have l5 := place_lt 30 b.isLt l6 rfl
  have l4 := place_lt 35 a.isLt l5 rfl
  have l3 := place_lt 40 sc.isLt l4 rfl
  have l2 := place_lt 52 (show 202 < 2 ^ 8 by decide) l3 rfl
  have l1 := place_lt 60 tk.push.isLt l2 rfl
  have l0 := place_lt 64 tk.pop.isLt l1 rfl
  have key : ∀ wd, nfield wd 45 3 = 6 → nfield wd 40 5 = 10 → field wd 60 4 = tk.pop → field wd 52 4 = tk.push → field wd 35 5 = sc → field wd 30 5 = a → field wd 25 5 = b → field wd 20 5 = d → field wd 15 5 = c → field wd 12 3 = ty → field wd 10 2 = ord → rawDecode wd = some (.acas tk sc a b d c ty ord) := by
    intro _ e0 e1 e2 e3 e4 e5 e6 e7 e8 e9 e10; simp only [rawDecode, rawSyn, e0, e1, e2, e3, e4, e5, e6, e7, e8, e9, e10]
  exact ⟨l0, key _ (peel 60 tk.pop.toNat rfl <| peel 52 tk.push.toNat rfl <| place_part 40 202 5 l3 rfl rfl)
    (peel 60 tk.pop.toNat rfl <| peel 52 tk.push.toNat rfl <| place_part 40 202 0 l3 rfl rfl)
    (field_eq <| place_hit tk.pop.isLt l1)
    (field_eq <| peel 60 tk.pop.toNat rfl <| place_hit tk.push.isLt l2)
    (field_eq <| peel 60 tk.pop.toNat rfl <| peel 52 tk.push.toNat rfl <| peel 40 202 rfl <| place_hit sc.isLt l4)
    (field_eq <| peel 60 tk.pop.toNat rfl <| peel 52 tk.push.toNat rfl <| peel 40 202 rfl <| peel 35 sc.toNat rfl <| place_hit a.isLt l5)
    (field_eq <| peel 60 tk.pop.toNat rfl <| peel 52 tk.push.toNat rfl <| peel 40 202 rfl <| peel 35 sc.toNat rfl <| peel 30 a.toNat rfl <| place_hit b.isLt l6)
    (field_eq <| peel 60 tk.pop.toNat rfl <| peel 52 tk.push.toNat rfl <| peel 40 202 rfl <| peel 35 sc.toNat rfl <| peel 30 a.toNat rfl <| peel 25 b.toNat rfl <| place_hit d.isLt l7)
    (field_eq <| peel 60 tk.pop.toNat rfl <| peel 52 tk.push.toNat rfl <| peel 40 202 rfl <| peel 35 sc.toNat rfl <| peel 30 a.toNat rfl <| peel 25 b.toNat rfl <| peel 20 d.toNat rfl <| place_hit c.isLt l8)
    (field_eq <| peel 60 tk.pop.toNat rfl <| peel 52 tk.push.toNat rfl <| peel 40 202 rfl <| peel 35 sc.toNat rfl <| peel 30 a.toNat rfl <| peel 25 b.toNat rfl <| peel 20 d.toNat rfl <| peel 15 c.toNat rfl <| place_hit ty.isLt l9)
    (field_eq <| peel 60 tk.pop.toNat rfl <| peel 52 tk.push.toNat rfl <| peel 40 202 rfl <| peel 35 sc.toNat rfl <| peel 30 a.toNat rfl <| peel 25 b.toNat rfl <| peel 20 d.toNat rfl <| peel 15 c.toNat rfl <| peel 12 ty.toNat rfl <| place_hit ord.isLt l10)⟩

theorem Encoding.aswp (tk : Tok) (sc a b d : BitVec 5) (ty : BitVec 3) (ord : BitVec 2) : Encoding.Statement (.aswp tk sc a b d ty ord) := by
  intro wd h
  have h0 : pack _ _ _ = wd := Option.some.inj h
  rw [pack_place] at h0; subst h0
  have l9 : place [] < 2 ^ 10 := Nat.two_pow_pos _
  have l8 := place_lt 12 ord.isLt l9 rfl
  have l7 := place_lt 20 ty.isLt l8 rfl
  have l6 := place_lt 25 d.isLt l7 rfl
  have l5 := place_lt 30 b.isLt l6 rfl
  have l4 := place_lt 35 a.isLt l5 rfl
  have l3 := place_lt 40 sc.isLt l4 rfl
  have l2 := place_lt 52 (show 203 < 2 ^ 8 by decide) l3 rfl
  have l1 := place_lt 60 tk.push.isLt l2 rfl
  have l0 := place_lt 64 tk.pop.isLt l1 rfl
  have key : ∀ wd, nfield wd 45 3 = 6 → nfield wd 40 5 = 11 → field wd 60 4 = tk.pop → field wd 52 4 = tk.push → field wd 35 5 = sc → field wd 30 5 = a → field wd 25 5 = b → field wd 20 5 = d → field wd 12 3 = ty → field wd 10 2 = ord → rawDecode wd = some (.aswp tk sc a b d ty ord) := by
    intro _ e0 e1 e2 e3 e4 e5 e6 e7 e8 e9; simp only [rawDecode, rawSyn, e0, e1, e2, e3, e4, e5, e6, e7, e8, e9]
  exact ⟨l0, key _ (peel 60 tk.pop.toNat rfl <| peel 52 tk.push.toNat rfl <| place_part 40 203 5 l3 rfl rfl)
    (peel 60 tk.pop.toNat rfl <| peel 52 tk.push.toNat rfl <| place_part 40 203 0 l3 rfl rfl)
    (field_eq <| place_hit tk.pop.isLt l1)
    (field_eq <| peel 60 tk.pop.toNat rfl <| place_hit tk.push.isLt l2)
    (field_eq <| peel 60 tk.pop.toNat rfl <| peel 52 tk.push.toNat rfl <| peel 40 203 rfl <| place_hit sc.isLt l4)
    (field_eq <| peel 60 tk.pop.toNat rfl <| peel 52 tk.push.toNat rfl <| peel 40 203 rfl <| peel 35 sc.toNat rfl <| place_hit a.isLt l5)
    (field_eq <| peel 60 tk.pop.toNat rfl <| peel 52 tk.push.toNat rfl <| peel 40 203 rfl <| peel 35 sc.toNat rfl <| peel 30 a.toNat rfl <| place_hit b.isLt l6)
    (field_eq <| peel 60 tk.pop.toNat rfl <| peel 52 tk.push.toNat rfl <| peel 40 203 rfl <| peel 35 sc.toNat rfl <| peel 30 a.toNat rfl <| peel 25 b.toNat rfl <| place_hit d.isLt l7)
    (field_eq <| peel 60 tk.pop.toNat rfl <| peel 52 tk.push.toNat rfl <| peel 40 203 rfl <| peel 35 sc.toNat rfl <| peel 30 a.toNat rfl <| peel 25 b.toNat rfl <| peel 20 d.toNat rfl <| place_hit ty.isLt l8)
    (field_eq <| peel 60 tk.pop.toNat rfl <| peel 52 tk.push.toNat rfl <| peel 40 203 rfl <| peel 35 sc.toNat rfl <| peel 30 a.toNat rfl <| peel 25 b.toNat rfl <| peel 20 d.toNat rfl <| peel 12 ty.toNat rfl <| place_hit ord.isLt l9)⟩

theorem Encoding.scope (tk : Tok) (sc a : BitVec 5) : Encoding.Statement (.scope tk sc a) := by
  intro wd h
  have h0 : pack _ _ _ = wd := Option.some.inj h
  rw [pack_place] at h0; subst h0
  have l5 : place [] < 2 ^ 30 := Nat.two_pow_pos _
  have l4 := place_lt 35 a.isLt l5 rfl
  have l3 := place_lt 40 sc.isLt l4 rfl
  have l2 := place_lt 52 (show 204 < 2 ^ 8 by decide) l3 rfl
  have l1 := place_lt 60 tk.push.isLt l2 rfl
  have l0 := place_lt 64 tk.pop.isLt l1 rfl
  have key : ∀ wd, nfield wd 45 3 = 6 → nfield wd 40 5 = 12 → field wd 60 4 = tk.pop → field wd 52 4 = tk.push → field wd 35 5 = sc → field wd 30 5 = a → rawDecode wd = some (.scope tk sc a) := by
    intro _ e0 e1 e2 e3 e4 e5; simp only [rawDecode, rawSyn, e0, e1, e2, e3, e4, e5]
  exact ⟨l0, key _ (peel 60 tk.pop.toNat rfl <| peel 52 tk.push.toNat rfl <| place_part 40 204 5 l3 rfl rfl)
    (peel 60 tk.pop.toNat rfl <| peel 52 tk.push.toNat rfl <| place_part 40 204 0 l3 rfl rfl)
    (field_eq <| place_hit tk.pop.isLt l1)
    (field_eq <| peel 60 tk.pop.toNat rfl <| place_hit tk.push.isLt l2)
    (field_eq <| peel 60 tk.pop.toNat rfl <| peel 52 tk.push.toNat rfl <| peel 40 204 rfl <| place_hit sc.isLt l4)
    (field_eq <| peel 60 tk.pop.toNat rfl <| peel 52 tk.push.toNat rfl <| peel 40 204 rfl <| peel 35 sc.toNat rfl <| place_hit a.isLt l5)⟩

theorem Encoding.rpop (tk : Tok) (d : BitVec 5) (which : BitVec 2) : Encoding.Statement (.rpop tk d which) := by
  intro wd h
  have h0 : pack _ _ _ = wd := Option.some.inj h
  rw [pack_place] at h0; subst h0
  have l5 : place [] < 2 ^ 0 := Nat.two_pow_pos _
  have l4 := place_lt 35 which.isLt l5 rfl
  have l3 := place_lt 40 d.isLt l4 rfl
  have l2 := place_lt 52 (show 205 < 2 ^ 8 by decide) l3 rfl
  have l1 := place_lt 60 tk.push.isLt l2 rfl
  have l0 := place_lt 64 tk.pop.isLt l1 rfl
  have key : ∀ wd, nfield wd 45 3 = 6 → nfield wd 40 5 = 13 → field wd 60 4 = tk.pop → field wd 52 4 = tk.push → field wd 35 5 = d → field wd 0 2 = which → rawDecode wd = some (.rpop tk d which) := by
    intro _ e0 e1 e2 e3 e4 e5; simp only [rawDecode, rawSyn, e0, e1, e2, e3, e4, e5]
  exact ⟨l0, key _ (peel 60 tk.pop.toNat rfl <| peel 52 tk.push.toNat rfl <| place_part 40 205 5 l3 rfl rfl)
    (peel 60 tk.pop.toNat rfl <| peel 52 tk.push.toNat rfl <| place_part 40 205 0 l3 rfl rfl)
    (field_eq <| place_hit tk.pop.isLt l1)
    (field_eq <| peel 60 tk.pop.toNat rfl <| place_hit tk.push.isLt l2)
    (field_eq <| peel 60 tk.pop.toNat rfl <| peel 52 tk.push.toNat rfl <| peel 40 205 rfl <| place_hit d.isLt l4)
    (field_eq <| peel 60 tk.pop.toNat rfl <| peel 52 tk.push.toNat rfl <| peel 40 205 rfl <| peel 35 d.toNat rfl <| place_hit which.isLt l5)⟩

theorem Encoding.comm (tk : Tok) (sc a d : BitVec 5) (c : BitVec 4) : Encoding.Statement (.comm tk sc a d c) := by
  intro wd h
  have h0 : pack _ _ _ = wd := Option.some.inj h
  rw [pack_place] at h0; subst h0
  have l7 : place [] < 2 ^ 0 := Nat.two_pow_pos _
  have l6 := place_lt 20 c.isLt l7 rfl
  have l5 := place_lt 30 d.isLt l6 rfl
  have l4 := place_lt 35 a.isLt l5 rfl
  have l3 := place_lt 40 sc.isLt l4 rfl
  have l2 := place_lt 52 (show 206 < 2 ^ 8 by decide) l3 rfl
  have l1 := place_lt 60 tk.push.isLt l2 rfl
  have l0 := place_lt 64 tk.pop.isLt l1 rfl
  have key : ∀ wd, nfield wd 45 3 = 6 → nfield wd 40 5 = 14 → field wd 60 4 = tk.pop → field wd 52 4 = tk.push → field wd 35 5 = sc → field wd 30 5 = a → field wd 20 5 = d → field wd 0 4 = c → field wd 4 1 = 0#1 → rawDecode wd = some (.comm tk sc a d c) := by
    intro _ e0 e1 e2 e3 e4 e5 e6 e7 e8; simp only [rawDecode, rawSyn, e0, e1, e2, e3, e4, e5, e6, e7, e8]; rfl
  exact ⟨l0, key _ (peel 60 tk.pop.toNat rfl <| peel 52 tk.push.toNat rfl <| place_part 40 206 5 l3 rfl rfl)
    (peel 60 tk.pop.toNat rfl <| peel 52 tk.push.toNat rfl <| place_part 40 206 0 l3 rfl rfl)
    (field_eq <| place_hit tk.pop.isLt l1)
    (field_eq <| peel 60 tk.pop.toNat rfl <| place_hit tk.push.isLt l2)
    (field_eq <| peel 60 tk.pop.toNat rfl <| peel 52 tk.push.toNat rfl <| peel 40 206 rfl <| place_hit sc.isLt l4)
    (field_eq <| peel 60 tk.pop.toNat rfl <| peel 52 tk.push.toNat rfl <| peel 40 206 rfl <| peel 35 sc.toNat rfl <| place_hit a.isLt l5)
    (field_eq <| peel 60 tk.pop.toNat rfl <| peel 52 tk.push.toNat rfl <| peel 40 206 rfl <| peel 35 sc.toNat rfl <| peel 30 a.toNat rfl <| place_hit d.isLt l6)
    (field_eq <| peel 60 tk.pop.toNat rfl <| peel 52 tk.push.toNat rfl <| peel 40 206 rfl <| peel 35 sc.toNat rfl <| peel 30 a.toNat rfl <| peel 20 d.toNat rfl <| place_hit c.isLt l7)
    (field_eq <| peel 60 tk.pop.toNat rfl <| peel 52 tk.push.toNat rfl <| peel 40 206 rfl <| peel 35 sc.toNat rfl <| peel 30 a.toNat rfl <| peel 20 d.toNat rfl <| place_zero (place_lt 4 c.isLt l7 rfl))⟩

theorem Encoding.commDel (tk : Tok) (d : BitVec 5) (c : BitVec 4) : Encoding.Statement (.commDel tk d c) := by
  intro wd h
  have h0 : pack _ _ _ = wd := Option.some.inj h
  rw [pack_place] at h0; subst h0
  have l6 : place [] < 2 ^ 0 := Nat.two_pow_pos _
  have l5 := place_lt 4 c.isLt l6 rfl
  have l4 := place_lt 20 (show 1 < 2 ^ 1 by decide) l5 rfl
  have l3 := place_lt 40 d.isLt l4 rfl
  have l2 := place_lt 52 (show 206 < 2 ^ 8 by decide) l3 rfl
  have l1 := place_lt 60 tk.push.isLt l2 rfl
  have l0 := place_lt 64 tk.pop.isLt l1 rfl
  have key : ∀ wd, nfield wd 45 3 = 6 → nfield wd 40 5 = 14 → field wd 60 4 = tk.pop → field wd 52 4 = tk.push → field wd 20 5 = d → field wd 4 1 = 1#1 → field wd 0 4 = c → rawDecode wd = some (.commDel tk d c) := by
    intro _ e0 e1 e2 e3 e4 e5 e6; simp only [rawDecode, rawSyn, e0, e1, e2, e3, e4, e5, e6]; rfl
  exact ⟨l0, key _ (peel 60 tk.pop.toNat rfl <| peel 52 tk.push.toNat rfl <| place_part 40 206 5 l3 rfl rfl)
    (peel 60 tk.pop.toNat rfl <| peel 52 tk.push.toNat rfl <| place_part 40 206 0 l3 rfl rfl)
    (field_eq <| place_hit tk.pop.isLt l1)
    (field_eq <| peel 60 tk.pop.toNat rfl <| place_hit tk.push.isLt l2)
    (field_eq <| peel 60 tk.pop.toNat rfl <| peel 52 tk.push.toNat rfl <| peel 40 206 rfl <| place_hit d.isLt l4)
    (field_eq <| peel 60 tk.pop.toNat rfl <| peel 52 tk.push.toNat rfl <| peel 40 206 rfl <| peel 20 d.toNat rfl <| place_hit (v := 1) (show 1 < 2 ^ 1 by decide) l5)
    (field_eq <| peel 60 tk.pop.toNat rfl <| peel 52 tk.push.toNat rfl <| peel 40 206 rfl <| peel 20 d.toNat rfl <| peel 4 1 rfl <| place_hit c.isLt l6)⟩

theorem Encoding.coll (tk : Tok) (a : BitVec 5) : Encoding.Statement (.coll tk a) := by
  intro wd h
  have h0 : pack _ _ _ = wd := Option.some.inj h
  rw [pack_place] at h0; subst h0
  have l4 : place [] < 2 ^ 30 := Nat.two_pow_pos _
  have l3 := place_lt 40 a.isLt l4 rfl
  have l2 := place_lt 52 (show 207 < 2 ^ 8 by decide) l3 rfl
  have l1 := place_lt 60 tk.push.isLt l2 rfl
  have l0 := place_lt 64 tk.pop.isLt l1 rfl
  have key : ∀ wd, nfield wd 45 3 = 6 → nfield wd 40 5 = 15 → field wd 60 4 = tk.pop → field wd 52 4 = tk.push → field wd 30 5 = a → rawDecode wd = some (.coll tk a) := by
    intro _ e0 e1 e2 e3 e4; simp only [rawDecode, rawSyn, e0, e1, e2, e3, e4]
  exact ⟨l0, key _ (peel 60 tk.pop.toNat rfl <| peel 52 tk.push.toNat rfl <| place_part 40 207 5 l3 rfl rfl)
    (peel 60 tk.pop.toNat rfl <| peel 52 tk.push.toNat rfl <| place_part 40 207 0 l3 rfl rfl)
    (field_eq <| place_hit tk.pop.isLt l1)
    (field_eq <| peel 60 tk.pop.toNat rfl <| place_hit tk.push.isLt l2)
    (field_eq <| peel 60 tk.pop.toNat rfl <| peel 52 tk.push.toNat rfl <| peel 40 207 rfl <| place_hit a.isLt l4)⟩

theorem Encoding.cwait (tk : Tok) (d : BitVec 5) (p : BitVec 1) (c : BitVec 4) : Encoding.Statement (.cwait tk d p c) := by
  intro wd h
  have h0 : pack _ _ _ = wd := Option.some.inj h
  rw [pack_place] at h0; subst h0
  have l6 : place [] < 2 ^ 0 := Nat.two_pow_pos _
  have l5 := place_lt 4 c.isLt l6 rfl
  have l4 := place_lt 20 p.isLt l5 rfl
  have l3 := place_lt 40 d.isLt l4 rfl
  have l2 := place_lt 52 (show 208 < 2 ^ 8 by decide) l3 rfl
  have l1 := place_lt 60 tk.push.isLt l2 rfl
  have l0 := place_lt 64 tk.pop.isLt l1 rfl
  have key : ∀ wd, nfield wd 45 3 = 6 → nfield wd 40 5 = 16 → field wd 60 4 = tk.pop → field wd 52 4 = tk.push → field wd 20 5 = d → field wd 4 1 = p → field wd 0 4 = c → rawDecode wd = some (.cwait tk d p c) := by
    intro _ e0 e1 e2 e3 e4 e5 e6; simp only [rawDecode, rawSyn, e0, e1, e2, e3, e4, e5, e6]
  exact ⟨l0, key _ (peel 60 tk.pop.toNat rfl <| peel 52 tk.push.toNat rfl <| place_part 40 208 5 l3 rfl rfl)
    (peel 60 tk.pop.toNat rfl <| peel 52 tk.push.toNat rfl <| place_part 40 208 0 l3 rfl rfl)
    (field_eq <| place_hit tk.pop.isLt l1)
    (field_eq <| peel 60 tk.pop.toNat rfl <| place_hit tk.push.isLt l2)
    (field_eq <| peel 60 tk.pop.toNat rfl <| peel 52 tk.push.toNat rfl <| peel 40 208 rfl <| place_hit d.isLt l4)
    (field_eq <| peel 60 tk.pop.toNat rfl <| peel 52 tk.push.toNat rfl <| peel 40 208 rfl <| peel 20 d.toNat rfl <| place_hit p.isLt l5)
    (field_eq <| peel 60 tk.pop.toNat rfl <| peel 52 tk.push.toNat rfl <| peel 40 208 rfl <| peel 20 d.toNat rfl <| peel 4 p.toNat rfl <| place_hit c.isLt l6)⟩

theorem Encoding.repart (tk : Tok) (a : BitVec 5) : Encoding.Statement (.repart tk a) := by
  intro wd h
  have h0 : pack _ _ _ = wd := Option.some.inj h
  rw [pack_place] at h0; subst h0
  have l4 : place [] < 2 ^ 30 := Nat.two_pow_pos _
  have l3 := place_lt 40 a.isLt l4 rfl
  have l2 := place_lt 52 (show 209 < 2 ^ 8 by decide) l3 rfl
  have l1 := place_lt 60 tk.push.isLt l2 rfl
  have l0 := place_lt 64 tk.pop.isLt l1 rfl
  have key : ∀ wd, nfield wd 45 3 = 6 → nfield wd 40 5 = 17 → field wd 60 4 = tk.pop → field wd 52 4 = tk.push → field wd 30 5 = a → rawDecode wd = some (.repart tk a) := by
    intro _ e0 e1 e2 e3 e4; simp only [rawDecode, rawSyn, e0, e1, e2, e3, e4]
  exact ⟨l0, key _ (peel 60 tk.pop.toNat rfl <| peel 52 tk.push.toNat rfl <| place_part 40 209 5 l3 rfl rfl)
    (peel 60 tk.pop.toNat rfl <| peel 52 tk.push.toNat rfl <| place_part 40 209 0 l3 rfl rfl)
    (field_eq <| place_hit tk.pop.isLt l1)
    (field_eq <| peel 60 tk.pop.toNat rfl <| place_hit tk.push.isLt l2)
    (field_eq <| peel 60 tk.pop.toNat rfl <| peel 52 tk.push.toNat rfl <| peel 40 209 rfl <| place_hit a.isLt l4)⟩

theorem Encoding.vxfer (tk : Tok) (a : BitVec 5) (dir kind : BitVec 1) (r n : BitVec 5) : Encoding.Statement (.vxfer tk a dir kind r n) := by
  intro wd h
  have h0 : pack _ _ _ = wd := Option.some.inj h
  rw [pack_place] at h0; subst h0
  have l8 : place [] < 2 ^ 0 := Nat.two_pow_pos _
  have l7 := place_lt 5 n.isLt l8 rfl
  have l6 := place_lt 23 r.isLt l7 rfl
  have l5 := place_lt 24 kind.isLt l6 rfl
  have l4 := place_lt 30 dir.isLt l5 rfl
  have l3 := place_lt 40 a.isLt l4 rfl
  have l2 := place_lt 52 (show 210 < 2 ^ 8 by decide) l3 rfl
  have l1 := place_lt 60 tk.push.isLt l2 rfl
  have l0 := place_lt 64 tk.pop.isLt l1 rfl
  have key : ∀ wd, nfield wd 45 3 = 6 → nfield wd 40 5 = 18 → field wd 60 4 = tk.pop → field wd 52 4 = tk.push → field wd 30 5 = a → field wd 24 1 = dir → field wd 23 1 = kind → field wd 5 5 = r → field wd 0 5 = n → rawDecode wd = some (.vxfer tk a dir kind r n) := by
    intro _ e0 e1 e2 e3 e4 e5 e6 e7 e8; simp only [rawDecode, rawSyn, e0, e1, e2, e3, e4, e5, e6, e7, e8]
  exact ⟨l0, key _ (peel 60 tk.pop.toNat rfl <| peel 52 tk.push.toNat rfl <| place_part 40 210 5 l3 rfl rfl)
    (peel 60 tk.pop.toNat rfl <| peel 52 tk.push.toNat rfl <| place_part 40 210 0 l3 rfl rfl)
    (field_eq <| place_hit tk.pop.isLt l1)
    (field_eq <| peel 60 tk.pop.toNat rfl <| place_hit tk.push.isLt l2)
    (field_eq <| peel 60 tk.pop.toNat rfl <| peel 52 tk.push.toNat rfl <| peel 40 210 rfl <| place_hit a.isLt l4)
    (field_eq <| peel 60 tk.pop.toNat rfl <| peel 52 tk.push.toNat rfl <| peel 40 210 rfl <| peel 30 a.toNat rfl <| place_hit dir.isLt l5)
    (field_eq <| peel 60 tk.pop.toNat rfl <| peel 52 tk.push.toNat rfl <| peel 40 210 rfl <| peel 30 a.toNat rfl <| peel 24 dir.toNat rfl <| place_hit kind.isLt l6)
    (field_eq <| peel 60 tk.pop.toNat rfl <| peel 52 tk.push.toNat rfl <| peel 40 210 rfl <| peel 30 a.toNat rfl <| peel 24 dir.toNat rfl <| peel 23 kind.toNat rfl <| place_hit r.isLt l7)
    (field_eq <| peel 60 tk.pop.toNat rfl <| peel 52 tk.push.toNat rfl <| peel 40 210 rfl <| peel 30 a.toNat rfl <| peel 24 dir.toNat rfl <| peel 23 kind.toNat rfl <| peel 5 r.toNat rfl <| place_hit n.isLt l8)⟩

theorem Encoding.pgreqOff (tk : Tok) (unit : BitVec 4) : Encoding.Statement (.pgreqOff tk unit) := by
  intro wd h
  have h0 : pack _ _ _ = wd := Option.some.inj h
  rw [pack_place] at h0; subst h0
  have l4 : place [] < 2 ^ 0 := Nat.two_pow_pos _
  have l3 := place_lt 40 unit.isLt l4 rfl
  have l2 := place_lt 52 (show 211 < 2 ^ 8 by decide) l3 rfl
  have l1 := place_lt 60 tk.push.isLt l2 rfl
  have l0 := place_lt 64 tk.pop.isLt l1 rfl
  have key : ∀ wd, nfield wd 45 3 = 6 → nfield wd 40 5 = 19 → field wd 60 4 = tk.pop → field wd 52 4 = tk.push → field wd 0 4 = unit → field wd 4 1 = 0#1 → rawDecode wd = some (.pgreqOff tk unit) := by
    intro _ e0 e1 e2 e3 e4 e5; simp only [rawDecode, rawSyn, e0, e1, e2, e3, e4, e5]; rfl
  exact ⟨l0, key _ (peel 60 tk.pop.toNat rfl <| peel 52 tk.push.toNat rfl <| place_part 40 211 5 l3 rfl rfl)
    (peel 60 tk.pop.toNat rfl <| peel 52 tk.push.toNat rfl <| place_part 40 211 0 l3 rfl rfl)
    (field_eq <| place_hit tk.pop.isLt l1)
    (field_eq <| peel 60 tk.pop.toNat rfl <| place_hit tk.push.isLt l2)
    (field_eq <| peel 60 tk.pop.toNat rfl <| peel 52 tk.push.toNat rfl <| peel 40 211 rfl <| place_hit unit.isLt l4)
    (field_eq <| peel 60 tk.pop.toNat rfl <| peel 52 tk.push.toNat rfl <| peel 40 211 rfl <| place_zero (place_lt 4 unit.isLt l4 rfl))⟩

theorem Encoding.pgreqOn (tk : Tok) (unit : BitVec 4) : Encoding.Statement (.pgreqOn tk unit) := by
  intro wd h
  have h0 : pack _ _ _ = wd := Option.some.inj h
  rw [pack_place] at h0; subst h0
  have l5 : place [] < 2 ^ 0 := Nat.two_pow_pos _
  have l4 := place_lt 4 unit.isLt l5 rfl
  have l3 := place_lt 40 (show 1 < 2 ^ 1 by decide) l4 rfl
  have l2 := place_lt 52 (show 211 < 2 ^ 8 by decide) l3 rfl
  have l1 := place_lt 60 tk.push.isLt l2 rfl
  have l0 := place_lt 64 tk.pop.isLt l1 rfl
  have key : ∀ wd, nfield wd 45 3 = 6 → nfield wd 40 5 = 19 → field wd 60 4 = tk.pop → field wd 52 4 = tk.push → field wd 4 1 = 1#1 → field wd 0 4 = unit → rawDecode wd = some (.pgreqOn tk unit) := by
    intro _ e0 e1 e2 e3 e4 e5; simp only [rawDecode, rawSyn, e0, e1, e2, e3, e4, e5]; rfl
  exact ⟨l0, key _ (peel 60 tk.pop.toNat rfl <| peel 52 tk.push.toNat rfl <| place_part 40 211 5 l3 rfl rfl)
    (peel 60 tk.pop.toNat rfl <| peel 52 tk.push.toNat rfl <| place_part 40 211 0 l3 rfl rfl)
    (field_eq <| place_hit tk.pop.isLt l1)
    (field_eq <| peel 60 tk.pop.toNat rfl <| place_hit tk.push.isLt l2)
    (field_eq <| peel 60 tk.pop.toNat rfl <| peel 52 tk.push.toNat rfl <| peel 40 211 rfl <| place_hit (v := 1) (show 1 < 2 ^ 1 by decide) l4)
    (field_eq <| peel 60 tk.pop.toNat rfl <| peel 52 tk.push.toNat rfl <| peel 40 211 rfl <| peel 4 1 rfl <| place_hit unit.isLt l5)⟩

theorem Encoding.tide (tk : Tok) (v : BitVec 1) : Encoding.Statement (.tide tk v) := by
  intro wd h
  have h0 : pack _ _ _ = wd := Option.some.inj h
  rw [pack_place] at h0; subst h0
  have l4 : place [] < 2 ^ 0 := Nat.two_pow_pos _
  have l3 := place_lt 40 v.isLt l4 rfl
  have l2 := place_lt 52 (show 212 < 2 ^ 8 by decide) l3 rfl
  have l1 := place_lt 60 tk.push.isLt l2 rfl
  have l0 := place_lt 64 tk.pop.isLt l1 rfl
  have key : ∀ wd, nfield wd 45 3 = 6 → nfield wd 40 5 = 20 → field wd 60 4 = tk.pop → field wd 52 4 = tk.push → field wd 0 1 = v → rawDecode wd = some (.tide tk v) := by
    intro _ e0 e1 e2 e3 e4; simp only [rawDecode, rawSyn, e0, e1, e2, e3, e4]
  exact ⟨l0, key _ (peel 60 tk.pop.toNat rfl <| peel 52 tk.push.toNat rfl <| place_part 40 212 5 l3 rfl rfl)
    (peel 60 tk.pop.toNat rfl <| peel 52 tk.push.toNat rfl <| place_part 40 212 0 l3 rfl rfl)
    (field_eq <| place_hit tk.pop.isLt l1)
    (field_eq <| peel 60 tk.pop.toNat rfl <| place_hit tk.push.isLt l2)
    (field_eq <| peel 60 tk.pop.toNat rfl <| peel 52 tk.push.toNat rfl <| peel 40 212 rfl <| place_hit v.isLt l4)⟩

theorem Encoding.tlbinvComplete (core : Nat) : Encoding.Statement (.tlbinvComplete core) := by
  intro w h; cases h

theorem Encoding.commandPush (core : Nat) (word : BitVec 64) : Encoding.Statement (.commandPush core word) := by
  intro w h; cases h

theorem Encoding.queueRoomResume (core : Nat) : Encoding.Statement (.queueRoomResume core) := by
  intro w h; cases h

theorem Encoding.tlbPinResume (core : Nat) : Encoding.Statement (.tlbPinResume core) := by
  intro w h; cases h

theorem Encoding.pendingFetchRelease (core : Nat) : Encoding.Statement (.pendingFetchRelease core) := by
  intro w h; cases h

theorem Encoding.engineCommandStart (core : Nat) (ag : Agent) : Encoding.Statement (.engineCommandStart core ag) := by
  intro w h; cases h

theorem Encoding.commandRetire (core : Nat) (ag : Agent) : Encoding.Statement (.commandRetire core ag) := by
  intro w h; cases h

theorem Encoding.heldPushRelease (core : Nat) (ag : Agent) : Encoding.Statement (.heldPushRelease core ag) := by
  intro w h; cases h

theorem Encoding.huskRetire (core : Nat) (ag : Agent) : Encoding.Statement (.huskRetire core ag) := by
  intro w h; cases h

theorem Encoding.mxRowCommit (core : Nat) : Encoding.Statement (.mxRowCommit core) := by
  intro w h; cases h

theorem Encoding.flagWaitSatisfied (core : Nat) : Encoding.Statement (.flagWaitSatisfied core) := by
  intro w h; cases h

theorem Encoding.ticketWaitSatisfied (core : Nat) : Encoding.Statement (.ticketWaitSatisfied core) := by
  intro w h; cases h

theorem Encoding.resultFifoArrival (core : Nat) : Encoding.Statement (.resultFifoArrival core) := by
  intro w h; cases h

theorem Encoding.commComplete (core : Nat) (code : Nat) : Encoding.Statement (.commComplete core code) := by
  intro w h; cases h

theorem Encoding.collRecordStart (rid : Nat) : Encoding.Statement (.collRecordStart rid) := by
  intro w h; cases h

theorem Encoding.chunkArrival (cid : Nat) : Encoding.Statement (.chunkArrival cid) := by
  intro w h; cases h

theorem Encoding.collRecordRetire (rid : Nat) : Encoding.Statement (.collRecordRetire rid) := by
  intro w h; cases h

theorem Encoding.cwaitSatisfied (core : Nat) : Encoding.Statement (.cwaitSatisfied core) := by
  intro w h; cases h

theorem Encoding.repartRetire (rid : Nat) : Encoding.Statement (.repartRetire rid) := by
  intro w h; cases h

theorem Encoding.vxferRetire (core : Nat) : Encoding.Statement (.vxferRetire core) := by
  intro w h; cases h

theorem Encoding.gateOff (core : Nat) (gate : Nat) : Encoding.Statement (.gateOff core gate) := by
  intro w h; cases h

theorem Encoding.unitWakeComplete (core : Nat) (gate : Nat) : Encoding.Statement (.unitWakeComplete core gate) := by
  intro w h; cases h

theorem Encoding.tideHalfBoundary : Encoding.Statement .tideHalfBoundary := by
  intro w h; cases h

theorem Encoding.launchWindowWrite (page : Nat) (off : Nat) (bytes : List (BitVec 8)) : Encoding.Statement (.launchWindowWrite page off bytes) := by
  intro w h; cases h

theorem Encoding.lessonRecordCheck (page : Nat) : Encoding.Statement (.lessonRecordCheck page) := by
  intro w h; cases h

theorem Encoding.reservationAttempt (contended : Option (Nat × Nat)) : Encoding.Statement (.reservationAttempt contended) := by
  intro w h; cases h

theorem Encoding.backoffExpiry (ctx : Nat) (num : Nat) : Encoding.Statement (.backoffExpiry ctx num) := by
  intro w h; cases h

theorem Encoding.residencyReport (hl : Nat) (ctx : Nat) (num : Nat) : Encoding.Statement (.residencyReport hl ctx num) := by
  intro w h; cases h

theorem Encoding.lessonStart (ctx : Nat) (num : Nat) : Encoding.Statement (.lessonStart ctx num) := by
  intro w h; cases h

theorem Encoding.lessonCopyFault (hl : Nat) (ctx : Nat) (num : Nat) : Encoding.Statement (.lessonCopyFault hl ctx num) := by
  intro w h; cases h

theorem Encoding.lessonRetire (ctx : Nat) (num : Nat) : Encoding.Statement (.lessonRetire ctx num) := by
  intro w h; cases h

theorem Encoding.completionPop (page : Nat) : Encoding.Statement (.completionPop page) := by
  intro w h; cases h

theorem Encoding.ovfClear (page : Nat) : Encoding.Statement (.ovfClear page) := by
  intro w h; cases h

theorem Encoding.registerWrite (reg : DevReg) (value : BitVec 64) : Encoding.Statement (.registerWrite reg value) := by
  intro w h; cases h

theorem Encoding.timeSliceExpiry (core : Nat) : Encoding.Statement (.timeSliceExpiry core) := by
  intro w h; cases h

theorem Encoding.contextStreamComplete (core : Nat) (store : Nat) (crcOk : Bool) : Encoding.Statement (.contextStreamComplete core store crcOk) := by
  intro w h; cases h

theorem Encoding.registrarTakeover : Encoding.Statement .registrarTakeover := by
  intro w h; cases h

theorem Encoding.trapEntry (core : Nat) : Encoding.Statement (.trapEntry core) := by
  intro w h; cases h

theorem Encoding.waitstuck (core : Nat) (ag : Agent) : Encoding.Statement (.waitstuck core ag) := by
  intro w h; cases h

theorem Encoding.stopRequest (core : Nat) : Encoding.Statement (.stopRequest core) := by
  intro w h; cases h

theorem Encoding.breakpointHit (core : Nat) : Encoding.Statement (.breakpointHit core) := by
  intro w h; cases h

theorem Encoding.stopComplete (core : Nat) : Encoding.Statement (.stopComplete core) := by
  intro w h; cases h

theorem Encoding.stopResume (core : Nat) : Encoding.Statement (.stopResume core) := by
  intro w h; cases h

theorem Encoding.freeze : Encoding.Statement .freeze := by
  intro w h; cases h

theorem Encoding.deviceReset : Encoding.Statement .deviceReset := by
  intro w h; cases h

theorem Encoding.ptmRefresh (hostNs : Nat) : Encoding.Statement (.ptmRefresh hostNs) := by
  intro w h; cases h

theorem Encoding.thermalThrottle (core : Nat) (tileTemp : Nat) (dieTemp : Nat) : Encoding.Statement (.thermalThrottle core tileTemp dieTemp) := by
  intro w h; cases h

theorem Encoding.ringPoll (hl : Nat) : Encoding.Statement (.ringPoll hl) := by
  intro w h; cases h

theorem Encoding.ocreate (hl : Nat) : Encoding.Statement (.ocreate hl) := by
  intro w h; cases h

theorem Encoding.odestroy (hl : Nat) : Encoding.Statement (.odestroy hl) := by
  intro w h; cases h

theorem Encoding.olife (hl : Nat) : Encoding.Statement (.olife hl) := by
  intro w h; cases h

theorem Encoding.scrub (hl : Nat) : Encoding.Statement (.scrub hl) := by
  intro w h; cases h

theorem Encoding.spare (hl : Nat) : Encoding.Statement (.spare hl) := by
  intro w h; cases h

theorem Encoding.caprep (hl : Nat) : Encoding.Statement (.caprep hl) := by
  intro w h; cases h

theorem Encoding.therm (hl : Nat) : Encoding.Statement (.therm hl) := by
  intro w h; cases h

theorem Encoding.reten (hl : Nat) : Encoding.Statement (.reten hl) := by
  intro w h; cases h

theorem Encoding.scan (hl : Nat) : Encoding.Statement (.scan hl) := by
  intro w h; cases h

theorem Encoding.trace (hl : Nat) : Encoding.Statement (.trace hl) := by
  intro w h; cases h

theorem Encoding.bind (hl : Nat) : Encoding.Statement (.bind hl) := by
  intro w h; cases h

theorem Encoding.retire (hl : Nat) : Encoding.Statement (.retire hl) := by
  intro w h; cases h

theorem Encoding.coreSpareMap (core : Nat) : Encoding.Statement (.coreSpareMap core) := by
  intro w h; cases h

theorem Encoding.t2off (hl : Nat) : Encoding.Statement (.t2off hl) := by
  intro w h; cases h

theorem Encoding.t2on (hl : Nat) : Encoding.Statement (.t2on hl) := by
  intro w h; cases h

theorem Encoding.fwsw (hl : Nat) : Encoding.Statement (.fwsw hl) := by
  intro w h; cases h

theorem Encoding.firmwareSwitch (hl : Nat) : Encoding.Statement (.firmwareSwitch hl) := by
  intro w h; cases h

theorem Encoding.attestationRequest (nonce : BitVec 256) : Encoding.Statement (.attestationRequest nonce) := by
  intro w h; cases h

theorem Encoding.flitCrcFail (link : Nat) : Encoding.Statement (.flitCrcFail link) := by
  intro w h; cases h

theorem Encoding.laneFailure (link : Nat) : Encoding.Statement (.laneFailure link) := by
  intro w h; cases h

theorem Encoding.rowAutoSpare (stack : Nat) (bank : Nat) (row : Nat) : Encoding.Statement (.rowAutoSpare stack bank row) := by
  intro w h; cases h

theorem Encoding.supervisorLessonEnd (ctx : Nat) (num : Nat) (cause : Nat) : Encoding.Statement (.supervisorLessonEnd ctx num cause) := by
  intro w h; cases h

theorem Encoding.storePerformed (core : Nat) : Encoding.Statement (.storePerformed core) := by
  intro w h; cases h

theorem Encoding.remoteLoadReturn (core : Nat) : Encoding.Statement (.remoteLoadReturn core) := by
  intro w h; cases h

theorem Encoding.laneRetrainComplete (link : Nat) : Encoding.Statement (.laneRetrainComplete link) := by
  intro w h; cases h

theorem Encoding.hostLinkTraining (lanes : Nat) (rate : Nat) : Encoding.Statement (.hostLinkTraining lanes rate) := by
  intro w h; cases h

theorem Encoding.powerRemoval : Encoding.Statement .powerRemoval := by
  intro w h; cases h

theorem Encoding.powerRailFault (hl : Nat) (railUnit : Nat) : Encoding.Statement (.powerRailFault hl railUnit) := by
  intro w h; cases h

theorem Encoding.memorySoftError (loc : SoftLoc) (hard : Bool) : Encoding.Statement (.memorySoftError loc hard) := by
  intro w h; cases h

end Sys2Proof.Laws
end

