-- ==== Sys2Proof/Tests/Slice0.lean ====
section
/-! SUPPORT. Tests: the scanner's refusals, words of the manual, and for each statement a concrete state that meets its hypotheses, with
what the manual says of that state. -/

namespace Sys2Proof.Tests
set_option Elab.async false
open Sys2Proof.Machine Sys2Proof.Spec

/-- No token popped, none pushed. -/
abbrev n0 : Tok := ⟨0, 0⟩

/-! ## Ill-formed terms, one for each check of R98 with the code it is refused with -/

theorem test_illformed_control : ([.cmp n0 1 2 3 6, .bfx n0 1 2 0 60 4, .bfi n0 1 2 63 1, .br n0 1 2 6 0, .br n0 1 2 8 0, .loop n0 4 0, .ld n0 1 2 3 7 0,
    .st n0 1 2 3 4 0, .mfs n0 1 0x005, .mts n0 1 0x005, .qdrop n0 1 2 3 0, .qres n0 1 0, .qstat n0 1 4, .tlbinv n0 1 2 0 3, .qset n0 16 1 0, .qget n0 1 16 0,
    .qclr n0 16] : List Instr).map reasonOf = [7, 7, 7, 4, 6, 5, 7, 7, 5, 5, 7, 7, 7, 7, 5, 5, 5] := by decide
theorem test_illformed_copy : ([.ldt n0 1 2 3 5 0 1 0, .cpy n0 1 2 3 0 0 1 4, .stt n0 1 2 3 0 0 0 0, .cpys n0 1 2 3 0 0 0 0, .ldg n0 1 2 30 0 0 1 0,
    .sct n0 1 2 31 0 0 1 0, .ldo n0 1 2 3 0 1, .ldo n0 1 2 0 0 0, .pref n0 1 2 3 0 1, .pref n0 1 2 0 0 0, .qmark n0 3 0, .redSt n0 1 2 3 1 0 1 0 0,
    .redSt n0 1 2 3 0 0 1 4 0, .redSt n0 1 2 3 0 0 1 0 4, .redSt n0 1 2 3 0 0 1366 0 3, .chpop n0 1 2 1 0 1, .chpop n0 1 2 0 0 9] : List Instr).map reasonOf =
    [4, 6, 7, 7, 7, 7, 4, 7, 4, 7, 4, 4, 6, 7, 7, 4, 7] := by decide
theorem test_illformed_vector : ([.vld n0 1 2 3 0 9, .vst n0 1 2 3 0 1 0, .vst n0 1 2 3 0 4 1, .vst n0 1 2 3 0 0 9, .vbcc n0 1 2 0 16, .vrotc n0 1 2 0 0 16,
    .valu n0 1 2 3 0 0 0 0 5, .valu n0 1 2 3 0 3 0 0 0, .valu n0 1 2 3 0 0 0 1 0, .vfma n0 1 2 3 0 1 1 0, .vfma n0 1 2 3 0 3 0 0, .vlogic n0 1 2 3 0 0 0 4,
    .vlogic n0 1 2 3 0 0 0 8, .vcmp n0 8 1 2 0 0 0, .vcmp n0 1 2 3 0 3 0, .vcmp n0 1 2 3 0 1 6, .vredr n0 1 2 0 1 1 0 0, .vredc n0 1 2 0 3 0 0 0,
    .vscan n0 1 2 0 0 0 0 0 3] : List Instr).map reasonOf = [7, 4, 6, 7, 7, 7, 4, 6, 7, 4, 6, 4, 7, 5, 6, 7, 4, 6, 7] := by decide
theorem test_illformed_vector_rest : ([.vcvt n0 1 2 0 3 0 0 0, .vcvt n0 1 2 0 0 0 0 7, .vrcps n0 1 2 3 0 4, .vrsqs n0 1 2 3 0 4, .vmask n0 1 2 0 0 0 7,
    .vmask n0 8 2 3 0 0 0, .vmask n0 1 2 0 3 0 6, .vmask n0 1 0 0 0 65 7, .vpopc n0 1 8 0, .vpopc n0 1 2 3, .vtog n0 1 1 1 0 0, .vtog n0 8 0 1 0 0,
    .vtog n0 1 3 0 0 0, .vmeanE n0 30 1 0, .vmeanM n0 1 30 0, .vmeanX n0 1 30 0, .vmsh n0 30 1 0, .vupd n0 1 2 3 0 3 0 0, .vupd n0 1 2 31 0 0 0 0,
    .vkey n0 1 2 0 3 0 0 0 0, .vkey n0 31 2 0 0 0 0 0 0, .chpush n0 1 1 2 0 0, .chpush n0 1 4 0 0 0, .chpush n0 1 0 0 9 7] : List Instr).map reasonOf =
    [6, 7, 6, 6, 4, 5, 6, 7, 5, 7, 4, 5, 6, 7, 7, 7, 7, 6, 7, 6, 7, 4, 6, 7] := by decide
theorem test_illformed_matrix_sync : ([.pstore n0 1 2 0 0 4, .mxnest n0 1 6, .mxgo n0 1 2 0 5 0 0 0, .mxrun n0 1 2 0 0 3 0 0 0 0, .mxrun n0 1 2 0 5 0 0 0 0 0,
    .mxacl n0 0 5 0, .mxacr n0 1 0 0 0 0 0 0 0 0, .mxacr n0 0 0 0 1 0 0 0 0 4, .mxacr n0 1 0 1 0 1 0 0 0 0, .mxstat n0 15, .fence n0 1 0, .setf n0 0 1 2 0 3,
    .addf n0 0 1 2 0 3, .aadd n0 0 1 2 3 3 0, .amin n0 0 1 2 3 5 0, .amax n0 0 1 2 3 5 0, .acas n0 0 1 2 3 4 2 0, .aswp n0 0 1 2 3 3 0, .scope n0 31 1,
    .rpop n0 1 2, .vxfer n0 1 0 1 0 1, .vxfer n0 1 0 1 4 0, .vxfer n0 1 0 0 31 1, .pgreqOff n0 6, .pgreqOn n0 15] : List Instr).map reasonOf =
    [6, 7, 6, 4, 6, 6, 4, 6, 7, 7, 7, 4, 4, 7, 7, 7, 7, 7, 7, 7, 4, 5, 7, 7, 7] := by decide

/-! ## Words that the manual writes out (R96 to R98 and the worked programs) -/

theorem test_words_control : [0x0000_1E39_D000_0003, 0x0000_1F20_0000_0002, 0x0000_1D73_9000_0040, 0x0000_1810_C890_0000, 0x0000_2200_0000_0010,
    0x0000_20B5_5400_0008, 0x0000_2079_8BFF_FFE0, 0x0000_2529_8080_0008, 0x0000_27B0_002C_0000, 0x0000_2803_80CC_0000, 0x0000_2DE6_B600_0002,
    0x0000_3319_4000_0003].map decode = ([.shri n0 7 7 3, .movhi n0 4 2, .ori n0 14 14 0x40, .sel n0 2 3 4 9, .call n0 16, .br n0 22 21 5 8,
    .br n0 15 6 2 (-32), .ld n0 5 6 0 2 8, .mfs n0 22 0x00B, .mts n0 14 0x033, .qdrop n0 28 26 27 2, .qset n0 3 5 3] : List Instr).map some := by decide
theorem test_words_copy_vector : [0x0000_4240_60D1_0000, 0x0000_6402_0070_0800, 0x0000_8811_D048_0002, 0x0000_8A31_4000_0012, 0x0000_8408_4000_0001,
    0x0000_9318_0000_01A7, 0x0000_9308_0000_0029, 0x0000_9620_4000_0000, 0x0000_9849_0040_0000, 0x0000_9901_C000_0009, 0x0000_9C50_8000_0074,
    0x0000_9D00_8000_0007].map decode = ([.ldo n0 4 12 6 1 256, .chpop n0 2 0 3 1 8, .vcmp n0 2 7 8 1 1 2, .vredr n0 6 5 0 0 0 1 2, .vrotr n0 1 1 0 0 1,
    .vmask n0 3 0 0 0 13 7, .vmask n0 1 0 0 0 1 9, .vmeanE n0 4 1 0, .vmeanX n0 9 4 1, .vmtld n0 7 9, .vkey n0 10 2 0 0 0 0 3 20,
    .chpush n0 2 0 0 0 7] : List Instr).map some := by decide
theorem test_words_matrix : [0x0000_A000_0140_0C00, 0x0000_A000_0000_1200, 0x0000_A140_0180_2C00, 0x0000_A612_0000_1810, 0x0000_A626_4000_0410,
    0x0000_A713_0008_6041, 0x0000_A800_0000_0000, 0x0000_A900_0000_0001].map decode = ([.pdir n0 5 3 0, .pdir n0 0 4 1, .pload n0 4 6 1 3,
    .mxrun n0 1 2 0 0 0 0 6 1 0, .mxrun n0 2 6 1 0 0 0 1 1 0, .mxgrad n0 1 3 2 6 1 1, .mxres n0, .mxacl n0 0 0 1] : List Instr).map some := by decide
theorem test_words_sync : [0x0000_C208_0E00_0003, 0x0000_C20B_1A00_0045, 0x0000_C308_1000_0003, 0x0000_C50D_4200_0000, 0x0000_C7F9_8E50_1C00,
    0x0000_CD20_0000_0000, 0x0000_CF01_4000_0000, 0x0000_D000_0060_0002, 0x0000_D101_4000_0000, 0x0000_D201_8000_0081, 0x0000_D300_0000_0002,
    0x0000_D400_0000_0001].map decode = ([.addf n0 1 0 7 0 3, .addf n0 1 12 13 1 5, .waitf n0 1 8 3, .tktWait n0 1 21 1, .aadd n0 31 6 7 5 1 3, .rpop n0 4 0,
    .coll n0 5, .cwait n0 6 0 2, .repart n0 5, .vxfer n0 6 0 0 4 1, .pgreqOff n0 2, .tide n0 1] : List Instr).map some := by decide
theorem test_words_refused : [0x0000_A612_2800_0000, 0x0000_4000_00A0_0000, 0x0000_8500_0018_0000, 0x0000_2019_5800_0000, 0x0000_2018_27FF_FFFC,
    0x0000_D500_0000_0000, 0x0000_E000_0000_0000, 0x0100_0000_0000_0000].map (fun w : W64 => (scan w, decode w)) =
    [(6, none), (4, none), (6, none), (4, none), (6, none), (2, none), (1, none), (3, none)] := by decide
/-- A word with its token bytes: ADD g1, g2, g3 that pops FIFO bit 3 and pushes bit 0, its bits one by one (R87, R88, R91). -/
theorem test_word_tokens : decode 0b1000_0000_0001_0000_00000000_00001_00010_00011_0000000000000000000000000 = some (.add ⟨8, 1⟩ 1 2 3) := by decide

/-! ## States -/

def z : Ctx := { sys := [] }
def sh : Shadow := { ctx := z }
/-- A context of context 7, lesson 1, at word 5, in user code. -/
def x0 : Ctx := { z with id := 7, lesson := 1, pc := 5, g := [(1, 6), (2, 0xFFFF_FFFF_FFFF_FFFE), (3, 3), (4, 0x8000_0000_0000_0100)] }
/-- A core that runs a context whose lesson leases every bank group. -/
def k0 (x : Ctx) : Core := { active := true, live := x, sh0 := sh, sh1 := sh, slot0 := some ⟨7, 1, 1, 15⟩ }
/-- A package at CYCLE 100 whose core 3 runs a context. -/
def s0 (x : Ctx) : State := { cur := 3, cycle := 100, time6 := 600, cores := [(3, k0 x)] }
/-- The context with instruction words from word 5 on. -/
def code (x : Ctx) (ws : List Instr) : Ctx := { x with words := ws.zipIdx.map fun e => (5 + e.2, ⟨(encode e.1).getD 0, .exec⟩) }
/-- In supervisor code, and with INH set. -/
def sup (x : Ctx) : Ctx := { x with sys := x.sys.put 0 1 }
/-- Whether an outcome is a next state that meets a condition. -/
def after (o : Host.Outcome State Fault Refusal) (p : State → Bool) : Bool := match o with | .next t => p t | _ => false
/-- Whether an instruction on the current core leaves a context, all else as it was. -/
def leaves (i : Instr) (s : State) (y : Ctx) : Bool := after (exec i s) fun t => t == s.setCtx y

/-! ## Class 000, control flow, loads and stores -/

theorem witness_alu : ∃ (i : Instr) (d : BitVec 5) (v : W64), aluResult (s0 x0).ctx i = some (⟨0, 1⟩, d, v) ∧ (s0 x0).goes 3 ⟨0, 1⟩ = true ∧
    leaves i (s0 x0) ((x0.setG d v).retired ⟨0, 1⟩ 6) = true := ⟨.sub ⟨0, 1⟩ 5 1 2, 5, 8, by decide +kernel⟩
theorem witness_alu_g0 : aluResult (s0 x0).ctx (.mulh n0 0 2 2) = some (n0, 0, 0) ∧ (s0 x0).goes 3 n0 = true ∧
    leaves (.mulh n0 0 2 2) (s0 x0) (x0.retired n0 6) = true := by decide +kernel
theorem witness_flow : flowResult (s0 x0).ctx (.br n0 1 2 2 (-4)) = some (n0, x0, 6) ∧ flowResult (s0 x0).ctx (.jr n0 5 3) = some (n0, x0.setG 5 6, 3) ∧
    (s0 x0).goes 3 n0 = true ∧ leaves (.jr n0 5 3) (s0 x0) ((x0.setG 5 6).retired n0 3) = true := by decide +kernel
theorem witness_flow_loop : flowResult { x0 with sys := [(0x021, 2)] } (.loop n0 1 (-3)) = some (n0, { x0 with sys := [(0x021, 1)] }, 2) := by decide +kernel
theorem witness_registers_only : after (exec (.add n0 5 1 2) (s0 x0)) (fun t => t.byte (.win 3 7 0x20_0000) == (s0 x0).byte (.win 3 7 0x20_0000)) = true := by
  decide +kernel
/-- Core 3 with bytes 0xFE, 0xFF at offset 0x100 of its scratchpad. -/
def sPad : State := { s0 x0 with cores := [(3, { k0 x0 with scratch := [(0x100, 0xFE), (0x101, 0xFF)] })] }
theorem witness_load : loadSize 5 = some (2, true) ∧ address sPad.ctx 4 0 0 = BitVec.ofNat 64 (2 ^ 63 + 0x100) ∧ padFree sPad 0x100 2 = true ∧
    sPad.goes 3 n0 = true ∧ loaded 2 true (winNat sPad 3 7 0x100 2) = -2 ∧ leaves (.ld n0 5 4 0 5 0) sPad ((x0.setG 5 (-2)).retired n0 6) = true := by
  decide +kernel
theorem witness_store : loadSize 2 = some (4, false) ∧ address sPad.ctx 4 0 4 = BitVec.ofNat 64 (2 ^ 63 + 0x104) ∧ padFree sPad 0x104 4 = true ∧
    after (exec (.st n0 2 4 0 2 4) sPad) (fun t => t.bytes (.win 3 7 0x100) 8 == [0xFE, 0xFF, 0, 0, 0xFE, 0xFF, 0xFF, 0xFF] && t.ctx == x0.retired n0 6) = true := by
  decide +kernel
/-- A TLB entry of context 7: virtual page 0x5000 at physical page 0x9000 of tier-2. -/
def te : TlbEntry := ⟨0, 7, 0x5000, 4096, 0, 0x9000, true, false, true, true, 0, 0, false⟩
def xT : Ctx := { x0 with tlb := [te], g := [(1, 0x5008), (2, 0x1234)] }
def sT (x : Ctx) : State := { s0 x with tier2 := [(0x9008, 0x21)] }
theorem witness_load_tier2 : pageFree (sT xT) te 0x5008 1 false = true ∧ address xT 1 0 0 = 0x5008 ∧ (sT xT).goes 3 n0 = true ∧
    leaves (.ld n0 5 1 0 0 0) (sT xT) { xT with wait := some ⟨.remoteLoad, 0x5008, 100⟩ } = true := by decide +kernel
def xTw : Ctx := code { xT with wait := some ⟨.remoteLoad, 0x5008, 99⟩ } [.ld n0 5 1 0 0 0]
def quiet (s : State) : State := { s with heads := [(0, { waitThreshold := 0 })] }
theorem witness_load_return : (quiet (sT xTw)).goes 3 n0 = true ∧ (sT xTw).mayGo 3 = true ∧ (sT xTw).wordAt 3 = some (.ld n0 5 1 0 0 0) ∧
    leaves (.remoteLoadReturn 3) (quiet (sT xTw)) ((xTw.setG 5 0x21).retired n0 6) = true := by decide +kernel
theorem witness_store_path : pageFree (sT xT) te 0x5008 2 true = true ∧
    leaves (.st n0 2 1 0 1 0) (sT xT) ({ xT with path := [⟨.tier2 0x9008, [0x34, 0x12]⟩] }.retired n0 6) = true := by decide +kernel
theorem witness_store_performed : after (exec (.storePerformed 3) (sT { xT with path := [⟨.tier2 0x9008, [0, 7]⟩, ⟨.tier2 0, [1]⟩] }))
    (fun t => t.live 3 == { xT with path := [⟨.tier2 0, [1]⟩] } && t.tier2 == [(0x9009, 7)]) = true := by decide +kernel
theorem witness_misaligned : loadSize 5 = some (2, true) ∧ address sPad.ctx 4 0 1 = BitVec.ofNat 64 (2 ^ 63 + 0x101) ∧ 0x101 % 2 ≠ 0 ∧
    (sPad.ctx.sup || sPad.leased 7 3 0x101) = true ∧ after (exec (.ld n0 5 4 0 5 1) sPad) (fun t => t.ctx.sr 0x002 == 4 && t.ctx.sr 0x004 == 0x8000_0000_0000_0101 &&
      t.ctx.sr 0x003 == 5 && t.ctx.g == x0.g) = true := by decide +kernel

/-! ## System registers, traps, trace marks -/

theorem witness_mfs : sysRegNumbers.contains 0x041 = true ∧ hidden 0x041 = false ∧ leaves (.mfs n0 5 0x041) (s0 x0) ((x0.setG 5 100).retired n0 6) = true ∧
    hidden 0x049 = true ∧ mayTrap (s0 x0) n0 = true ∧ after (exec (.mfs n0 5 0x049) (s0 x0)) (fun t => t.ctx.sr 0x002 == 3 && t.ctx.sr 0x004 == 5 && t.ctx.sr 0x003 == 5) = true := by
  decide +kernel
theorem witness_mts : leaves (.mts n0 2 0x033) (s0 x0) ((x0.setSr 0x033 0xFFFF_FFFF_0000_007E).retired n0 6) = true ∧
    leaves (.mts n0 2 0x011) (s0 x0) (x0.retired n0 6) = true ∧ leaves (.mts n0 2 0x000) (s0 x0) ((x0.setSr 0 8).retired n0 6) = true ∧
    leaves (.mts n0 2 0x000) (s0 (sup x0)) ((x0.setSr 0 0xF).retired n0 6) = true ∧
    after (exec (.mts n0 2 0x048) (s0 x0)) (fun t => t.ctx.sr 0x002 == 3) = true := by decide +kernel
theorem witness_trap : (s0 x0).goes 3 n0 = true ∧ ((s0 x0).ctx.inh && (s0 x0).ctx.sup) = false ∧
    after (exec (.trap n0 0x42) (s0 { x0 with sys := [(1, 0x700)] })) (fun t => t.ctx.sr 0x002 == 0x0F && t.ctx.sr 0x003 == 6 && t.ctx.sr 0x004 == 0x42 &&
      t.ctx.sr 0x008 == preciseRecord 0x0F (State.opcAt (s0 x0) 3) && t.ctx.pc == 0x700 && t.ctx.sr 0 == 0b10000) = true ∧
    (k0 x0).debugHold = false ∧ after (exec (.brk n0 1) (s0 x0)) (fun t => t.ctx.sr 0x002 == 0x10 && t.ctx.sr 0 == 0b10001) = true := by decide +kernel
theorem witness_trap_to_supervisor : after (exec (.trap n0 0x100) (s0 { x0 with sys := [(1, 0x700)] })) (fun t => t.ctx.sup && t.ctx.sr 0x003 == 6) = true := by decide +kernel
theorem witness_precise_fault : hidden 0x04A = true ∧ (s0 x0).ctx.sup = false ∧ mayTrap (s0 x0) n0 = true ∧
    after (exec (.mfs n0 5 0x04A) (s0 x0)) (fun t => t.ctx.sup && t.ctx.inh && t.ctx.sr 0x003 == 5) = true := by decide +kernel
/-- The lesson of context 7, on core 3, and its page. -/
def l0 : Lesson := { ctx := 7, num := 1, rcd := 0, st := .running, seats := [⟨3, 0, 0, 0, 0, 0⟩], slice := 500 }
def sL (x : Ctx) : State := { s0 x with lessons := [l0], pages := [(2, { bound := some 7 })] }
theorem witness_double_fault : (sL { x0 with sys := [(0, 0b10001)] }).goes 3 n0 = true ∧ (sL { x0 with sys := [(0, 0b10001)] }).lesson 7 1 = some l0 ∧
    after (exec (.trap n0 9) (sL { x0 with sys := [(0, 0b10001)] })) (fun t => t.lesson 7 1 == some { l0 with st := .retired, seats := [] } &&
      (t.page 2).comp == [(0x0F_03_0000_0001, 100)] && !(t.core 3).active) = true := by decide +kernel
theorem witness_exit : (sL x0).goes 3 n0 = true ∧ after (exec (.trap n0 0) (sL x0)) (fun t => t.ctx == { x0 with exited := true, parked := true }.retired n0 6 && !t.ctx.fetches &&
    t.lesson 7 1 == some { l0 with st := .draining }) = true := by decide +kernel
theorem witness_eret : leaves (.eret n0) (s0 { x0 with sys := [(0, 0b11010), (3, 77)] }) ({ x0 with sys := [(0, 0b01011), (3, 77)] }.retired n0 77) = true ∧
    after (exec (.eret n0) (s0 x0)) (fun t => t.ctx.sr 0x002 == 3) = true := by decide +kernel
def sTrace : State := { s0 { x0 with sys := [(0, 8)] } with heads := [(0, { traceBase := 0x4000, traceSize := 4096, traceCount := 2 })] }
theorem witness_tmark : (s0 x0).goes 3 n0 = true ∧ leaves (.tmark n0 1 0x55) (s0 x0) (x0.retired n0 6) = true ∧ sTrace.goes 3 n0 = true ∧
    after (exec (.tmark n0 1 0x55) sTrace) (fun t => t2Nat t 0x4048 8 == 0x0100_0003_0007_0055 && t2Nat t 0x4050 8 == 6 && t2Nat t 0x4040 8 == 100 &&
      (t.head 0).traceCount == 3) = true := by decide +kernel

/-! ## Queues, stream registers, contexts, the TLB -/

/-- A vector command of a generation with a number. -/
def vc (i : Instr) (seq : Nat) (gen : W32) : Cmd := { instr := i, seq := seq, gen := gen, since := 90 }
def vmov (n : BitVec 5) : Instr := .vmov n0 n 0 0
def xQ : Ctx := { x0 with vx := [{ vc (vmov 1) 4 4 with phase := .started }, vc (vmov 2) 5 5, vc (vmov 3) 6 6], seqs := [(3, 7)] }
theorem witness_qdrop : (s0 xQ).goes 3 n0 = true ∧ xQ.lane = [] ∧ dropped (vc (vmov 2) 5 5) 3 6 = true ∧
    after (exec (.qdrop n0 5 3 1 2) (s0 xQ)) (fun t => t.ctx.vx.map (·.husk) == [false, true, false] && t.ctx.rg 5 == 1 && t.ctx.pc == 6) = true := by decide +kernel
/-- A queue stopped by an OBJ at its head. -/
def stopped (k : Cmd) (cause : Nat) : Cmd := { k with stop := some { cause := cause, agent := 3, seq := k.seq, queue := some .vx } }
def xS : Ctx := { x0 with vx := [{ stopped (vc (vmov 2) 5 5) 5 with popped := true }, vc (vmov 3) 6 6] }
theorem witness_qres : (s0 xS).goes 3 n0 = true ∧ resumes xS .vx = true ∧ resumes { x0 with mx := [stopped (vc (.mxres n0) 1 0) 7] } .mx = false ∧
    after (exec (.qres n0 5 15) (s0 xS)) (fun t => t.ctx.vx.map (fun k => (k.stop, k.phase, k.popped)) == [(none, .queued, true), (none, .queued, false)] &&
      t.ctx.rg 5 == 2) = true := by decide +kernel
theorem witness_qstat : (s0 xS).goes 3 n0 = true ∧ engines[2]? = some .vx ∧ leaves (.qstat n0 5 2) (s0 xS) ((xS.setG 5 0x0000_0005_0005_0082).retired n0 6) = true := by
  decide +kernel
theorem witness_stream_words : (s0 x0).goes 3 n0 = true ∧
    after (exec (.qset n0 3 2 3) (s0 x0)) (fun t => (t.ctx.q.get 0 3).extractLsb' 192 64 == 0xFFFF_FFFF_FFFF_FF80) = true ∧
    leaves (.qget n0 5 3 1) (s0 { x0 with q := [(3, 0x77 <<< 64)] }) (({ x0 with q := [(3, 0x77 <<< 64)] }.setG 5 0x77).retired n0 6) = true ∧
    leaves (.qclr n0 3) (s0 { x0 with q := [(3, 1)] }) ({ x0 with q := [(3, 0)] }.retired n0 6) = true := by decide +kernel
/-- Two lessons of equal priority share core 3; the other's context is RESIDENT in store 1. -/
def xO : Ctx := { z with id := 8, lesson := 4, pc := 0x40, g := [(1, 9)] }
def kO (x : Ctx) : Core := { k0 x with slot1 := some ⟨8, 4, 1, 0⟩, sh1 := ⟨.resident, xO⟩ }
def sO (x : Ctx) : State := { s0 x with cores := [(3, kO x)], lessons := [l0] }
theorem witness_yield : (s0 x0).goes 3 n0 = true ∧ (k0 x0).equalPeer = none ∧ leaves (.yield n0) (s0 x0) ((x0.setSr 0x04A 1200000).retired n0 6) = true ∧
    (kO x0).equalPeer = some ⟨8, 4, 1, 0⟩ ∧ (kO x0).storeOf 8 4 = some 1 ∧ (kO x0).startedIn 1 = true ∧
    leaves (.yield n0) (sO x0) ({ x0.setSr 0x04A 500 with pend := [{ cause := 0x11, addr := 1, clk := 100 }] }.retired n0 6) = true := by decide +kernel
def x1 : Ctx := sup { x0 with g := [(1, 1), (2, 0), (3, 5)] }
theorem witness_ctxsw : (x1.rg 1).toNat = 1 ∧ (kO x1).store 1 = ⟨.resident, xO⟩ ∧ ((kO x1).store 0).st = .empty ∧ (sO x1).goes 3 n0 = true ∧ (sO x1).evicted xO = false ∧
    after (exec (.ctxsw n0 1) (sO x1)) (fun t => t.ctx.pc == 0x40 && t.ctx.id == 8 && t.ctx.g == xO.g && (t.core 3).sh0.ctx == x1.retired n0 6 &&
      (t.core 3).sh0.st == .resident && (t.core 3).sh1.st == .empty) = true ∧
    after (exec (.ctxsw n0 1) (sO x0)) (fun t => t.ctx.sr 0x002 == 3 && t.ctx.sr 0x004 == 5) = true ∧
    after (exec (.ctxsw n0 3) (sO x1)) (fun t => t.ctx.sr 0x002 == 3 && t.ctx.sr 0x004 == 5) = true := by decide +kernel
def xI (a : W64) : Ctx := sup { x0 with tlb := [te, { te with id := 1, va := 0x6000 }, { te with id := 2, ctx := 8 }], g := [(1, a), (2, 7)] }
theorem witness_tlbinv : (s0 (xI 0x5123)).goes 3 n0 = true ∧
    after (exec (.tlbinv n0 1 2 0 0) (s0 (xI 0x5123))) (fun t => t.ctx.tlb.map (·.id) == [1, 2] && t.ctx.pc == 6) = true ∧
    after (exec (.tlbinv n0 1 2 1 1) (s0 (xI 0))) (fun t => t.ctx.tlb.map (·.id) == [2]) = true ∧
    after (exec (.tlbinv n0 1 2 0 0) (s0 xT)) (fun t => t.ctx.sr 0x002 == 3) = true := by decide +kernel
def xIw : Ctx := code { xI 0x5123 with wait := some ⟨.tlbinv, 0x5000, 100⟩, sys := [] } [.tlbinv n0 1 2 0 0]
/-- The supervisor's own word is fixed by the image, so the completion of a waiting TLBINV is shown by executing it again. -/
theorem witness_tlbinv_wait : after (exec (.tlbinv n0 1 2 0 0) (s0 { xI 0x5123 with tlb := [{ te with count := 1 }] }))
      (fun t => t.ctx.wait == some ⟨.tlbinv, 0x5000, 100⟩ && t.ctx.tlb == [{ te with count := 1, dying := true }]) = true ∧
    leaves (.tlbinv n0 1 2 0 0) (quiet (s0 { xI 0x5123 with tlb := [{ te with dying := true }], wait := some ⟨.tlbinv, 0x5000, 99⟩ }))
      ({ xI 0x5123 with tlb := [] }.retired n0 6) = true := by decide +kernel

/-! ## Pushes, commands, tokens -/

def iv : Instr := .vmov ⟨4, 1⟩ 3 1 0
theorem witness_push : engineOf iv = some .vx ∧ toLane x0 iv = false ∧ accepts (here (s0 x0)) iv = true ∧ (s0 x0).goes 3 n0 = true ∧
    after (exec iv (s0 x0)) (fun t => t.ctx.vx.map (fun k => (k.instr, k.seq, k.phase)) == [(iv, 0, .queued)] && t.ctx.seqs.get 0 3 == 1 && t.ctx.pc == 6) = true := by
  decide +kernel
theorem witness_command_push : (s0 (code x0 [iv])).mayGo 3 = true ∧ (s0 (code x0 [iv])).fetch 3 = .word ((encode iv).getD 0) ∧ decode ((encode iv).getD 0) = some iv ∧
    after (exec (.commandPush 3 ((encode iv).getD 0)) (s0 (code x0 [iv]))) (fun t => t.ctx.vx.map (·.instr) == [iv] && t.ctx.pc == 6) = true := by decide +kernel
theorem witness_mark : (s0 x0).goes 3 n0 = true ∧ after (exec (.qmark n0 3 1) (s0 x0)) (fun t => t.ctx.ld.map (·.instr) == [.qmark n0 3 1] &&
    t.ctx.st.map (·.instr) == [.qmark n0 3 1] && t.ctx.pc == 6) = true := by decide +kernel
/-- MX stopped by SELMISS, in its handler. -/
def xM : Ctx := { x0 with mx := [stopped (vc (.mxgo n0 1 2 0 0 0 0 0) 1 0) 7], sys := [(0, 16)] }
theorem witness_repair : toLane xM (.mxres n0) = true ∧ accepts (here (s0 xM)) (.mxres n0) = true ∧
    after (exec (.mxres n0) (s0 xM)) (fun t => t.ctx.lane.map (·.instr) == [.mxres n0] && t.ctx.mx.length == 1 && t.ctx.pc == 6) = true := by decide +kernel
def xF : Ctx := { x0 with mx := List.replicate 16 (vc (.mxstat n0 0) 0 0) }
theorem witness_full : toLane xF (.mxstat n0 1) = false ∧ 16 ≤ (xF.queue .mx).length ∧ leaves (.mxstat n0 1) (s0 xF) { xF with wait := some ⟨.queueRoom, 4, 100⟩ } = true := by
  decide +kernel
def xR (k : WaitKind) : Ctx := code { x0 with wait := some ⟨k, 3, 99⟩ } [iv]
theorem witness_room : (quiet (s0 (xR .queueRoom))).mayGo 3 = true ∧ (quiet (s0 (xR .queueRoom))).wordAt 3 = some iv ∧ accepts (here (quiet (s0 (xR .queueRoom)))) iv = true ∧
    (quiet (s0 (xR .queueRoom))).goes 3 n0 = true ∧
    after (exec (.queueRoomResume 3) (quiet (s0 (xR .queueRoom)))) (fun t => t.ctx.vx.length == 1 && t.ctx.wait == none && t.ctx.pc == 6) = true ∧
    after (exec (.tlbPinResume 3) (quiet (s0 (xR .tlbPin)))) (fun t => t.ctx.vx.length == 1 && t.ctx.wait == none && t.ctx.pc == 6) = true := by decide +kernel
def kv (i : Instr) : Cmd := { instr := i, since := 90 }
def xV (k : Cmd) (l : List Cmd) : Ctx := { x0 with vx := k :: l, tokens := [(2, 1)], v := [(1024, 5), (1025, 6)] }
theorem witness_start : engineOf iv = some .vx ∧ (xV (kv iv) []).hasTokens (popFifos .vx (tokOf iv).pop) = false ∧ (tokOf iv) = ⟨4, 1⟩ ∧
    (quiet (s0 (xV (kv (.vmov ⟨8, 1⟩ 3 1 0)) []))).live 3 = xV (kv (.vmov ⟨8, 1⟩ 3 1 0)) [] ∧
    (xV (kv (.vmov ⟨8, 1⟩ 3 1 0)) []).hasTokens (popFifos .vx 8) = true ∧
    after (exec (.engineCommandStart 3 .vx) (quiet (s0 (xV (kv (.vmov ⟨8, 1⟩ 3 1 0)) []))))
      (fun t => t.ctx.vx == [{ kv (.vmov ⟨8, 1⟩ 3 1 0) with phase := .started, popped := true }] && t.ctx.tokens == [(2, 0)]) = true := by decide +kernel
theorem witness_husk : after (exec (.huskRetire 3 .vx) (s0 (xV { kv (.vmov ⟨8, 1⟩ 3 1 0) with husk := true } [kv iv])))
    (fun t => t == (s0 (xV (kv iv) [])).setCtx { ((xV (kv iv) []).popTokens (popFifos .vx 8)).pushTokens (pushFifos .vx 1) with vx := headSince 100 [kv iv] }) = true := by
  decide +kernel
theorem witness_elements : element x0 [] (.valu n0 3 1 1 0 1 0 1 0) ≠ none ∧ (xV (kv iv) []).hasRoom (pushFifos .vx 1) = true ∧
    after (exec (.commandRetire 3 .vx) (s0 (xV { kv (.valu ⟨0, 1⟩ 3 1 1 0 1 0 0 0) with phase := .started } []))) (fun t => t.ctx.ve 3 0 0 == 10 && t.ctx.ve 3 0 1 == 12 &&
      t.ctx.ve 1 0 0 == 5 && t.ctx.vx == [] && t.ctx.tokens.get 0 15 == 1) = true := by decide +kernel
theorem witness_elements_masked : after (exec (.commandRetire 3 .vx) (s0 { xV { kv (.vmovg n0 3 1 2) with phase := .started, gv := [9] } [] with m := [(2, 2)] }))
    (fun t => t.ctx.ve 3 0 0 == 0 && t.ctx.ve 3 0 1 == 9 && t.ctx.ve 3 0 2 == 0) = true := by decide +kernel
theorem witness_tokens : leaves (.add ⟨8, 0⟩ 5 1 2) (s0 x0) { x0 with wait := some ⟨.token, 4, 100⟩ } = true ∧
    leaves (.add ⟨0, 8⟩ 5 1 2) (s0 { x0 with tokens := [(0, 15)] }) ({ (x0.setG 5 4) with tokens := [(0, 15)], held := some (6, 8) }) = true ∧
    after (exec (.heldPushRelease 3 .cc) (s0 { x0 with tokens := [(0, 14)], held := some (6, 8) })) (fun t => t.ctx == { x0 with tokens := [(0, 15)], pc := 6 }) = true := by
  decide +kernel
def ig : Instr := .mxgrad n0 1 3 2 0 1 1
def kg : Cmd := { instr := ig, phase := .started, popped := true, admitted := 1, slots := [4], rows := [⟨0, 0, 0, 0, true, [.fin 2, .fin 3], [.fin 5, .zero false]⟩] }
def xG : Ctx := { x0 with mx := [kg], planes := [(4 * 16384, .fin 1)] }
theorem witness_gradient : kg.rows[kg.committed]? ≠ none ∧ kg.slots[kg.committed]? = some 4 ∧ after (exec (.mxRowCommit 3) (s0 xG)) (fun t => t.ctx.cell 4 0 0 == .fin 11 &&
    t.ctx.cell 4 1 0 == .fin 15 && t.ctx.cell 4 0 1 == .zero false && t.ctx.mx.map (·.committed) == [1]) = true := by decide +kernel

/-! ## Synchronisation -/

theorem witness_fence : (s0 x0).goes 3 n0 = true ∧ leaves (.fence n0 31 3) (s0 x0) ({ x0 with relScope := some 31, acqScope := some 31 }.retired n0 6) = true ∧
    leaves (.fence n0 31 2) (s0 { x0 with path := [⟨.tier2 0, [1]⟩] }) { x0 with path := [⟨.tier2 0, [1]⟩], wait := some ⟨.fence, 0, 100⟩ } = true := by decide +kernel
/-- Core 5 runs a seat of the same lesson. -/
def sTwo (x : Ctx) : State :=
  { s0 x with cores := [(3, k0 x), (5, k0 { x0 with f := [(2, 9)] })], lessons := [{ l0 with seats := [⟨3, 0, 0, 0, 0, 0⟩, ⟨5, 0, 1, 0, 0, 1⟩] }] }
def x5 : Ctx := { x0 with g := [(1, 5), (2, 0x1_0000_0004)], f := [(2, 1)] }
theorem witness_flags : (sTwo x5).goes 3 n0 = true ∧ coreId 5 = true ∧ ((sTwo x5).inScope 3 x5 1 5 && (sTwo x5).mayUse 3 x5 5 && (sTwo x5).inEntry31 7 5) = true ∧
    after (exec (.addf n0 1 1 2 1 2) (sTwo x5)) (fun t => (t.live 5).flag 2 == 13 && (t.live 3).flag 2 == 1 && t.ctx.pc == 6) = true ∧
    after (exec (.setf n0 0 0 2 0 2) (sTwo x5)) (fun t => (t.live 3).flag 2 == 4 && (t.live 5).flag 2 == 9) = true := by decide +kernel
theorem witness_waitf : leaves (.waitf n0 0 2 2) (s0 { x5 with f := [(2, 4)] }) ({ x5 with f := [(2, 4)] }.retired n0 6) = true ∧
    leaves (.waitf n0 0 2 2) (s0 x5) { x5 with wait := some ⟨.flag, 0xF000_0000_01A6_1008, 100⟩, waitEntry := some (some 0) } = true := by decide +kernel
def xWf : Ctx := code { x5 with f := [(2, 0x8000_0003)], wait := some ⟨.flag, 0xF000_0000_01A6_1008, 99⟩ } [.waitf n0 0 2 2]
theorem witness_waitf_wrap : (quiet (s0 xWf)).goes 3 n0 = true ∧ (s0 xWf).mayGo 3 = true ∧ (s0 xWf).wordAt 3 = some (.waitf n0 0 2 2) ∧
    leaves (.flagWaitSatisfied 3) (quiet (s0 xWf)) (xWf.retired n0 6) = true := by decide +kernel
/-- A ticket at offset 0x100: NEXT 7, SERVING 5. -/
def sTk (x : Ctx) : State := { s0 x with cores := [(3, { k0 x with scratch := [(0x100, 7), (0x108, 5)] })] }
def xTk (n : W64) : Ctx := { x0 with g := [(1, 0x8000_0000_0000_0100), (2, n)] }
theorem witness_tickets : (xTk 5).rg 1 = ownAddr 0x100 ∧ padFree (sTk (xTk 5)) 0x100 8 = true ∧ padFree (sTk (xTk 5)) 0x108 8 = true ∧ (sTk (xTk 5)).goes 3 n0 = true ∧
    after (exec (.tktTake n0 0 1 5) (sTk (xTk 5))) (fun t => t.ctx == ((xTk 5).setG 5 7).retired n0 6 && (t.core 3).scratch == [(0x100, 8), (0x108, 5)]) = true ∧
    after (exec (.tktDone n0 0 1) (sTk (xTk 5))) (fun t => (t.core 3).scratch == [(0x100, 7), (0x108, 6)]) = true ∧
    leaves (.tktWait n0 0 1 2) (sTk (xTk 5)) ((xTk 5).retired n0 6) = true ∧
    leaves (.tktWait n0 0 1 2) (sTk (xTk 6)) { xTk 6 with wait := some ⟨.ticket, 2 ^ 63 + 0x100, 100⟩, waitEntry := some (some 0) } = true := by decide +kernel
def xTw2 : Ctx := code { xTk 5 with wait := some ⟨.ticket, 2 ^ 63 + 0x100, 99⟩ } [.tktWait n0 0 1 2]
theorem witness_ticket_end : (quiet (sTk xTw2)).mayGo 3 = true ∧ (quiet (sTk xTw2)).wordAt 3 = some (.tktWait n0 0 1 2) ∧
    leaves (.ticketWaitSatisfied 3) (quiet (sTk xTw2)) (xTw2.retired n0 6) = true := by decide +kernel
/-- The I32 −2 at offset 0x100. -/
def padAt : Mem := [(0x100, 0xFE), (0x101, 0xFF), (0x102, 0xFF), (0x103, 0xFF)]
def sAt (x : Ctx) : State := { s0 x with cores := [(3, { k0 x with scratch := padAt })] }
theorem witness_atomics : (atomic (xTk 3) (.aadd n0 0 1 2 5 0 0)).isSome = true ∧ atomWidth 0 = some 4 ∧ padFree (sAt (xTk 3)) 0x100 4 = true ∧ (sAt (xTk 3)).goes 3 n0 = true ∧
    after (exec (.aadd n0 0 1 2 5 0 0) (sAt (xTk 3))) (fun t => t.ctx == ((xTk 3).setG 5 (-2)).retired n0 6 && (t.core 3).scratch == [(0x100, 1)]) = true ∧
    after (exec (.amax n0 0 1 2 5 0 0) (sAt (xTk 3))) (fun t => (t.core 3).scratch == [(0x100, 3)]) = true ∧
    after (exec (.amax n0 0 1 2 5 3 0) (sAt (xTk 3))) (fun t => t.ctx.rg 5 == 0xFFFF_FFFE && (t.core 3).scratch == padAt) = true ∧
    after (exec (.acas n0 0 1 2 5 4 0 0) (sAt (xTk 3))) (fun t => (t.core 3).scratch == padAt) = true ∧
    after (exec (.aswp n0 0 1 2 5 0 0) (sAt (xTk 3))) (fun t => (t.core 3).scratch == [(0x100, 3)]) = true := by decide +kernel
theorem witness_atomics_rest : after (exec (.amin n0 0 1 2 5 0 0) (sAt (xTk 3))) (fun t => t.ctx.rg 5 == -2) = true ∧
    after (exec (.acas n0 0 1 2 5 2 0 0) (sAt (xTk 0xFFFF_FFFE))) (fun t => (t.core 3).scratch == padAt) = true := by decide +kernel
/-- Tables that map the 2 MiB page of virtual 0 to physical 0x200000: a root at 0x1000, then 0x2000 and 0x3000 (R47). -/
def tables : Mem := [(0x1001, 0x20), (0x1000, 1), (0x2000, 1), (0x2001, 0x30), (0x3000, 0x37), (0x3002, 0x20)].foldl (fun m e => SMap.set 0 m e.1 e.2) []
def xSc : Ctx := { x0 with sys := [(0x048, 0x4000), (0x049, 0x1001)], g := [(1, 0x8000_0000_0000_0100)] }
def sSc : State := { s0 xSc with tier2 := tables, cores := [(3, { k0 xSc with scratch := [(0x100, 8)] })] }
theorem witness_scope : xSc.rg 1 = ownAddr 0x100 ∧ (List.range 32).all (fun k => padFree sSc (0x100 + 8 * k) 8) = true ∧ sSc.goes 3 n0 = true ∧
    sSc.inEntry31 7 3 = true ∧ sSc.vaPlace 7 xSc.root (0x4000 + 256 * 2) = some (.tier2 0x204200) ∧
    after (exec (.scope n0 2 1) sSc) (fun t => t.ctx == xSc.retired n0 6 && t.byte (.tier2 0x204200) == 8 && t.byte (.tier2 0x204201) == 0) = true := by decide +kernel
theorem witness_rpop : (s0 { x0 with vxFifo := [9, 8] }).goes 3 n0 = true ∧
    leaves (.rpop n0 5 0) (s0 { x0 with vxFifo := [9, 8] }) (({ x0 with vxFifo := [8] }.setG 5 9).retired n0 6) = true ∧
    leaves (.rpop n0 5 1) (s0 x0) { x0 with wait := some ⟨.resultFifo, 1, 100⟩ } = true := by decide +kernel
def xRp : Ctx := code { x0 with mxFifo := [9], wait := some ⟨.resultFifo, 1, 99⟩ } [.rpop n0 5 1]
theorem witness_rpop_end : (quiet (s0 xRp)).goes 3 n0 = true ∧ (s0 xRp).mayGo 3 = true ∧ (s0 xRp).wordAt 3 = some (.rpop n0 5 1) ∧
    leaves (.resultFifoArrival 3) (quiet (s0 xRp)) (({ xRp with mxFifo := [] }.setG 5 9).retired n0 6) = true := by decide +kernel

/-! ## Collectives -/

def padSet (l : List (Nat × Byte)) : Mem := l.foldl (fun m e => SMap.set 0 m e.1 e.2) []
/-- A descriptor at 0x100 of one member, core 3 of this package, RSLOT 2, CHUNK 0; its list at 0x200. -/
def comm1 : Mem := padSet [(0x100, 1), (0x102, 0x20), (0x108, 0), (0x109, 2), (0x10F, 0x80), (0x200, 3), (0x202, 0xFF), (0x203, 0x0F)]
def sCm (m : Mem) (x : Ctx) : State := { s0 x with cores := [(3, { k0 x with scratch := m })], lessons := [l0] }
theorem witness_comm : (sCm comm1 (xTk 0)).goes 3 n0 = true ∧ padWords (sCm comm1 (xTk 0)) 0x100 8 = true ∧ padWord (sCm comm1 (xTk 0)) 0x100 1 = (ownAddr 0x200).toNat ∧
    bits (padWord (sCm comm1 (xTk 0)) 0x100 0) 10 0 = 1 ∧ padWords (sCm comm1 (xTk 0)) 0x200 1 = true ∧ descriptorLegal (sCm comm1 (xTk 0)) 0x100 0x200 = true := by
  decide +kernel
/-- The member's node is the one that names this package, whatever number the package has. -/
theorem witness_members : membersAt (sCm comm1 (xTk 0)) 0x200 1 = [(0xFFF, 3)] := by
  have h : bits (winNat (sCm comm1 (xTk 0)) 3 7 0x200 4) 27 16 = 0xFFF := by decide +kernel
  have h2 : bits (winNat (sCm comm1 (xTk 0)) 3 7 0x200 4) 10 0 = 3 := by decide +kernel
  have hc : (sCm comm1 (xTk 0)).cur = 3 := rfl
  have hx : (sCm comm1 (xTk 0)).ctx.id = 7 := rfl
  simp only [membersAt, hc, hx, List.range_one, List.map_cons, List.map_nil, Nat.mul_zero, Nat.add_zero, h, h2]
  split <;> rfl
theorem witness_definable : commRefusal (sCm comm1 (xTk 0)) 0 2 0x100 0x200 [(0xFFF, 3)] = 0 ∧
    slotNeed (padWord (sCm comm1 (xTk 0)) 0x100 0) [(0xFFF, 3)] 0 = 8192 := by decide +kernel
/-- With RSLOT 0 the descriptor is not legal. -/
theorem witness_comm_illegal : descriptorLegal (sCm (padSet [(0x100, 1), (0x109, 2), (0x10F, 0x80), (0x200, 3), (0x202, 0xFF), (0x203, 0x0F)]) (xTk 0)) 0x100 0x200 = false := by
  decide +kernel
def cm : Comm := { rslot := 1, chunk := 1, pri := 1, members := [(0xFFF, 3)], done := [(3, 4)], err := [(3, 3)] }
def sC (x : Ctx) (rs : List Rec) : State := { s0 x with contexts := [(7, { comms := [(2, cm)] })], recs := rs, lessons := [l0], heads := [(0, { slotUsed := 4096, waitThreshold := 0 })] }
def rc : Rec := { rid := 6, core := 3, ctx := 7, lesson := 1, instr := .coll ⟨0, 1⟩ 5, comm := 2, raw := 0, mshape := 0 }
theorem witness_comm_del : leaves (.commDel n0 5 1) (sC x0 []) ((x0.setG 5 5).retired n0 6) = true ∧ leaves (.commDel n0 5 2) (sC x0 [rc]) ((x0.setG 5 4).retired n0 6) = true ∧
    after (exec (.commDel n0 5 2) (sC x0 [])) (fun t => t.ctx.rg 5 == 0 && t.comm 7 2 == none && (t.head 0).slotUsed == 3072) = true := by decide +kernel
theorem witness_cwait : leaves (.cwait n0 5 0 1) (sC x0 []) ((x0.setG 5 (BitVec.ofNat 64 (2 ^ 63 + 5 * 2 ^ 56))).retired n0 6) = true ∧
    leaves (.cwait n0 5 0 2) (sC x0 [rc]) { x0 with wait := some ⟨.collective, 2, 100⟩ } = true ∧
    after (exec (.cwait n0 5 1 2) (sC x0 [rc])) (fun t => t.ctx.rg 5 == 0x8300_0100_0000_0004 && (t.comm 7 2).map (·.err) == some []) = true := by decide +kernel
def xCw : Ctx := code { x0 with wait := some ⟨.collective, 2, 99⟩ } [.cwait n0 5 0 2]
theorem witness_cwait_end : (sC xCw []).goes 3 n0 = true ∧ (sC xCw []).mayGo 3 = true ∧ (sC xCw []).wordAt 3 = some (.cwait n0 5 0 2) ∧
    after (exec (.cwaitSatisfied 3) (sC xCw [])) (fun t => t.ctx.rg 5 == 0x8300_0000_0000_0004 && t.ctx.pc == 6) = true := by decide +kernel
/-- A COLL record at 0x400: SET of 4 bytes from offset 0x800 to offset 0x900 of the own core, communicator 2, flag 9. -/
def coll1 : Mem := padSet [(0x400, 2), (0x402, 0x90), (0x403, 4), (0x408, 4), (0x411, 8), (0x419, 9), (0x420, 1), (0x800, 0xAB)]
def xCl : Ctx := { x0 with g := [(5, 0x8000_0000_0000_0400)] }
def sCl (m : Mem) (x : Ctx) (rs : List Rec) : State := { sC x rs with cores := [(3, { k0 x with scratch := m })] }
def rawCl : BitVec 1024 := BitVec.ofNat 1024 (winNat (sCl coll1 xCl []) 3 7 0x400 128)
theorem witness_coll : mayTrap (sCl coll1 xCl []) ⟨0, 1⟩ = true ∧ padWords (sCl coll1 xCl []) 0x400 16 = true ∧ (sCl coll1 xCl []).collOk 3 xCl rawCl = true ∧
    after (exec (.coll ⟨0, 1⟩ 5) (sCl coll1 xCl [])) (fun t => t.recs == [{ rc with rid := 0, raw := rawCl }] && t.ctx == xCl.retired n0 6) = true ∧
    leaves (.coll ⟨0, 1⟩ 5) (sCl coll1 xCl (List.replicate 8 rc)) { xCl with wait := some ⟨.queueRoom, 5, 100⟩ } = true ∧
    after (exec (.coll ⟨0, 1⟩ 4) (sCl coll1 x0 [])) (fun t => t.ctx.sr 0x002 == 3) = true := by decide +kernel
theorem witness_coll_misaligned : after (exec (.coll n0 5) (sCl coll1 { xCl with g := [(5, 0x8000_0000_0000_0440)] } [])) (fun t => t.ctx.sr 0x002 == 4) = true := by decide +kernel
theorem witness_transfer : oneTransfer { rc with raw := rawCl } 0x800 0x900 4 0 := by unfold oneTransfer; decide +kernel
theorem witness_transfer_start : (cm.rank 3).isSome = true ∧ ((List.range 4).all fun i => reachable (sCl coll1 xCl []) 3 7 (0x800 + i) && (sCl coll1 xCl []).leased 7 3 (0x900 + i)) = true ∧
    after (exec (.collRecordStart 6) (sCl coll1 xCl [{ rc with raw := rawCl }])) (fun t => t.chunks.map (fun k => (k.dst, k.addr, k.bytes)) == [(3, 0x900, [0xAB, 0, 0, 0])] &&
      t.recs.map (fun r => (r.started, r.walked)) == [(true, true)]) = true := by decide +kernel
def ck : Chunk := { cid := 0, rid := 6, ctx := 7, comm := 2, len := 4, src := 3, dst := 3, addr := 0x900, virt := false, bytes := [0xAB, 0, 0, 0], op := 0, ty := 0, rm := 0,
                    cnt := false, tidx := 0, mshape := 0 }
theorem witness_chunk : ((List.range 4).all fun i => reachable (sCl coll1 xCl []) 3 7 (0x900 + i)) = true ∧
    after (exec (.chunkArrival 0) { sCl coll1 xCl [] with chunks := [ck] }) (fun t => t.chunks == [] && t.byte (.win 3 7 0x900) == 0xAB) = true := by decide +kernel
theorem witness_record_retire : after (exec (.collRecordRetire 6) (sCl coll1 xCl [{ rc with raw := rawCl, started := true, walked := true }]))
    (fun t => t.recs == [] && (t.live 3).flag 9 == 1 && (t.comm 7 2).map (·.done) == some [(3, 5)] && (t.live 3).tokens.get 0 3 == 1) = true := by decide +kernel
/-- A REPART of one member: two particles of 8 bytes with K 1, 2-D, F32 coordinates at 0 and 4. -/
def rp : Rec := { rc with
  instr := .repart ⟨0, 1⟩ 5
  started := true
  raw := BitVec.ofNat 1024 ((2 ^ 6 + 2 ^ 12) + (8 * 2 ^ 16 + 4 * 2 ^ 32) * 2 ^ 64 + 2 * 2 ^ 128 + (2 + 0 * 2 ^ 32) * 2 ^ 192)
  saved := [(0x1000, (List.range 16).map (BitVec.ofNat 8)), (0x1100, List.replicate 16 0), (0x1200, List.replicate 64 0)] }
theorem witness_repart : repNP rp.raw = 2 ∧ repRsz rp.raw = 8 ∧ repCap rp.raw = 2 ∧ repK rp.raw = 1 ∧ repLog2B rp.raw = 0 ∧
    after (exec (.repartRetire 6) (sCl [] xCl [rp])) (fun t => t.recs == [] && (t.live 3).tokens.get 0 3 == 1 && (t.comm 7 2).map (·.done) == some [(3, 5)]) = true := by
  decide +kernel
/-- The received rows and the status block of that record; the rows of POBJ are free values. -/
theorem test_repart_areas : (repCompute 0 [rp]).map (fun r => (r.out.drop 1).map fun e => (e.1, e.2.1.take 12, e.2.2)) =
    [[(0x1100, (List.range 12).map (BitVec.ofNat 8), 16), (0x1200, [2, 0, 0, 0, 2, 0, 0, 0, 2, 0, 0, 0], 64)]] := by decide +kernel

/-! ## Vertical layer -/

def xG5 (n : W64) : Ctx := { x0 with g := [(5, n)] }
/-- An operation handed over by core 3. -/
def op (i : Instr) (a : W64) : ChimOp := ⟨i, a, 7, 1, false⟩
def sOp (x : Ctx) (l : List ChimOp) (g w : List Nat) : State := { s0 x with cores := [(3, { k0 x with ops := l, gated := g, waking := w })] }
def vx1 : Instr := .vxfer n0 5 1 0 2 0
theorem witness_handed : vxRegs 0 2 0 = (0x202000, 0x1000) ∧ ((s0 (xG5 0x1040)).core 3).leaseOf 7 = 15 ∧ (s0 (xG5 0x1040)).goes 3 n0 = true ∧
    leaves vx1 (sOp x0 (List.replicate 8 (op vx1 0)) [] []) { x0 with wait := some (Wait.mk .chimneyOps 0 100) } = true ∧
    after (exec vx1 (s0 (xG5 0x1040))) (fun t => (t.core 3).ops == [op vx1 0x1040] && t.ctx == (xG5 0x1040).retired n0 6) = true ∧
    after (exec vx1 (s0 (xG5 0x1050))) (fun t => t.ctx.sr 0x002 == 4) = true ∧
    after (exec vx1 (s0 (xG5 0x1FF040))) (fun t => t.ctx.sr 0x002 == 3 && t.ctx.sr 0x004 == 0x1FF040) = true := by decide +kernel
theorem witness_gating : after (exec (.pgreqOff n0 4) (s0 x0)) (fun t => (t.core 3).ops == [op (.pgreqOff n0 4) 0] && t.ctx.pc == 6) = true ∧
    after (exec (.pgreqOn n0 2) (sOp x0 [] [2] [])) (fun t => (t.core 3).waking == [2] && (t.core 3).gated == [2] && (t.core 3).ops == [op (.pgreqOn n0 2) 0]) = true ∧
    leaves (.pgreqOn n0 2) (s0 x0) (x0.retired n0 6) = true ∧
    after (exec (.pgreqOn n0 2) (sOp x0 [op (.pgreqOff ⟨0, 2⟩ 2) 0] [] [])) (fun t => (t.core 3).ops == [] && t.ctx.tokens.get 0 2 == 1) = true ∧
    after (exec (.pgreqOff n0 3) { s0 x0 with cores := [(3, { k0 x0 with slot0 := some ⟨7, 1, 1, 7⟩ })] }) (fun t => t.ctx.sr 0x002 == 3 && t.ctx.sr 0x004 == 3) = true ∧
    leaves (.tide n0 1) (s0 x0) ((x0.setSr 0x036 1).retired n0 6) = true := by decide +kernel
def pg (i : Instr) : State := sOp x0 [op i 0] [] []
/-- The same core with both shadow stores empty, and units gated and waking. -/
def pgE (i : Instr) (g w : List Nat) : State := { pg i with cores := [(3, { k0 x0 with ops := [op i 0], gated := g, waking := w, sh0 := {}, sh1 := {} })] }
theorem witness_idle (i : Instr) (h : x0.hasRoom (pushFifos .cc (tokOf i).push) = true) : idleCore (pgE i [] []) 3 (op i 0) ∧ (op i 0).done = false :=
  ⟨⟨rfl, rfl, rfl, rfl, rfl, rfl, rfl, rfl, rfl, rfl, rfl, rfl, rfl, rfl, rfl, by decide, rfl, rfl, h⟩, rfl⟩
theorem witness_vxfer : x0.hasRoom (pushFifos .cc (tokOf vx1).push) = true ∧ vxRegs 0 2 0 = (0x202000, 0x1000) ∧ (op vx1 0).ga.toNat + 0x1000 ≤ 0x200000 := by decide
theorem witness_gate_off : x0.hasRoom (pushFifos .cc (tokOf (.pgreqOff ⟨0, 1⟩ 2)).push) = true ∧
    after (exec (.gateOff 3 2) (pg (.pgreqOff ⟨0, 1⟩ 2))) (fun t => (t.core 3).gated == [2] && (t.core 3).ops == [] && (t.live 3).tokens.get 0 3 == 1) = true := by
  decide +kernel
theorem witness_waking (i : Instr) (h : x0.hasRoom (pushFifos .cc (tokOf i).push) = true) :
    idleCore ((pgE i [2] [2]).setCore 3 { (pgE i [2] [2]).core 3 with gated := [], waking := [] }) 3 (op i 0) ∧ ((pgE i [2] [2]).core 3).waking = [2] :=
  ⟨⟨rfl, rfl, rfl, rfl, rfl, rfl, rfl, rfl, rfl, rfl, rfl, rfl, rfl, rfl, rfl, by decide, rfl, rfl, h⟩, rfl⟩
theorem witness_wake : x0.hasRoom (pushFifos .cc (tokOf (.pgreqOn ⟨0, 1⟩ 2)).push) = true ∧
    after (exec (.unitWakeComplete 3 2) (sOp x0 [op (.pgreqOn ⟨0, 1⟩ 2) 0] [2] [2])) (fun t => (t.core 3).gated == [] && (t.core 3).waking == [] && (t.core 3).ops == []) = true := by
  decide +kernel
def xTide : Ctx := { x0 with sys := [(0x036, 1)] }
theorem witness_tide : (s0 x0).cycle / 128 = (s0 x0).tideHalf ∧
    after (exec .tideHalfBoundary { s0 xTide with cycle := 384, tideHalf := 2 }) (fun t => t.ebb && t.tideHalf == 3 && !(t.core 3).tideNow) = true ∧
    after (exec .tideHalfBoundary { s0 xTide with cycle := 512, tideHalf := 3, ebb := true }) (fun t => !t.ebb && (t.core 3).tideNow) = true := by decide +kernel
/-- 413 clk from CYCLE 100 pass the multiples of 128 up to 512, without a step at any of them. -/
theorem witness_tide_pass : (s0 xTide).ebb = decide ((s0 xTide).tideHalf % 2 = 1) ∧ ((s0 xTide).pass 413).cycle = 513 ∧ ((s0 xTide).pass 413).ebb = false ∧
    (((s0 xTide).pass 413).core 3).tideNow = true ∧ ((s0 xTide).pass 50).ebb = true := by decide +kernel

/-! ## Boundaries, waits, lessons -/

def xPf (x : Ctx) : Ctx := { x with wait := some ⟨.pendingFetch, 5, 99⟩ }
theorem witness_fetch_release : (quiet (s0 (xPf (code x0 [.add n0 1 2 3])))).mayGo 3 = true ∧ ((s0 (xPf x0)).live 3).inh = false ∧
    ((quiet (s0 (xPf x0))).fetch 3 = .bad) ∧ ((quiet (s0 (xPf (code x0 [.add n0 1 2 3])))).fetch 3 = .word 0x0000_0008_8600_0000) ∧
    after (exec (.pendingFetchRelease 3) (quiet (s0 (xPf (code x0 [.add n0 1 2 3]))))) (fun t => t.ctx == code x0 [.add n0 1 2 3]) = true ∧
    after (exec (.pendingFetchRelease 3) (quiet (s0 (xPf x0)))) (fun t => t.ctx.sr 0x002 == 1 && t.ctx.sr 0x003 == 5 && t.ctx.inh) = true := by decide +kernel
def pTimer : Pend := { cause := 0x11, addr := 2, clk := 90 }
def pPre : Pend := { cause := 0x12, addr := 1, clk := 91 }
theorem witness_urgent : urgent { x0 with pend := [pTimer, pPre] } pPre ∧ urgent { x0 with pend := [pTimer] } pTimer ∧ (s0 { x0 with pend := [pTimer, pPre] }).atBoundary 3 = true ∧
    after (exec (.trapEntry 3) (s0 { x0 with pend := [pTimer, pPre] })) (fun t => t.ctx.sr 0x002 == 0x12 && t.ctx.sr 0x004 == 1 && t.ctx.sr 0x003 == 5 && t.ctx.pend == [pTimer] && t.ctx.sup)
      = true := by unfold urgent; decide +kernel
theorem witness_fetch_fault : (x0.word 5).st = .nonexec ∧ (s0 x0).atBoundary 3 = true ∧ x0.sup = false ∧ x0.exited = false ∧
    after (exec (.trapEntry 3) (s0 x0)) (fun t => t.ctx.sr 0x002 == 1 && t.ctx.sr 0x004 == 5) = true := by decide +kernel
def xWs (since : Nat) : Ctx := { x0 with sys := [(0x042, 50)], wait := some ⟨.token, 14, since⟩ }
theorem witness_waitstuck : 14 / 4 = agentNum .vx ∧ (quiet (s0 (xWs 90))).mayGo 3 = true ∧ ((xWs 90).sr 0x042).toNat = 50 ∧
    after (exec (.waitstuck 3 .cc) (quiet (s0 (xWs 90)))) (· == quiet (s0 (xWs 90))) = true ∧
    after (exec (.waitstuck 3 .cc) (quiet (s0 (xWs 40)))) (fun t => t.ctx.sr 0x002 == 0x0D && t.ctx.sr 0x00A == 14 && t.ctx.sr 0x00B == 60) = true := by decide +kernel
def xWh : Ctx := { x0 with vx := [{ vc (.vmov ⟨4, 0⟩ 3 1 0) 0 0 with since := 10 }], sys := [(0x042, 50)] }
theorem witness_waitstuck_head : (popFifos .vx 4).find? (fun n => xWh.tokens.get 0 n == 0) = some 6 ∧ xWh.cmdsOf (agentOf (6 / 4)) = [] ∧
    after (exec (.waitstuck 3 .vx) (s0 xWh)) (fun t => t.ctx.vx.map (·.stop.map fun p => (p.cause, p.addr)) == [some (0x0D, 6)] && t.ctx.pend.length == 1) = true := by decide +kernel
/-- A record for context 7 with program object 5. -/
def rec7 : BitVec 1024 := 0x0007_0000_0000_0005
def objP (n : Nat) : ObjEntry := { kind := 1, fmt := 0x12, rank := 1, rd := true, ov := true, dims := [8 * n], strides := [1] }
def sPg (p : Page) : State := { s0 x0 with pages := [(2, { p with bound := some 7 })], contexts := [(7, { objs := [(5, objP 1)], nextNum := 4 })] }
theorem witness_page : ((sPg {}).page 2).bound = some 7 ∧
    after (exec (.launchWindowWrite 2 0x78 [1, 2, 3, 4, 5, 6, 7, 8]) (sPg {})) (fun t => (t.page 2).launch.map (BitVec.extractLsb' 960 32) == [0x04030201] && (t.page 2).ovf == false) = true ∧
    after (exec (.launchWindowWrite 2 0x78 (List.replicate 8 0)) (sPg { launch := List.replicate 64 0 })) (fun t => (t.page 2).ovf && (t.page 2).launch.length == 64) = true ∧
    after (exec (.ovfClear 2) (sPg { ovf := true })) (fun t => !(t.page 2).ovf) = true ∧ ((sPg {}).recordFaults 7 rec7).all (fun f => !f.2) = true ∧
    after (exec (.lessonRecordCheck 2) (sPg { launch := [rec7, 0] })) (fun t => t.lessons.map (fun l => (l.num, l.st)) == [(4, .queued)] && (t.page 2).launch == [0] && (t.context 7).nextNum == 5)
      = true ∧
    (rec7 ||| 0x10000).getLsbD 16 = true ∧ (sPg {}).pageOf 7 = some 2 ∧
    after (exec (.lessonRecordCheck 2) (sPg { launch := [rec7 ||| 0x10000] })) (fun t => (t.page 2).comp == [completion 0xFFFF_FFFF 2 1 100]) = true ∧
    after (exec (.completionPop 2) (sPg { comp := [(1, 2), (3, 4)] })) (fun t => (t.page 2).comp == [(3, 4)]) = true := by decide +kernel
def lq : Lesson := { ctx := 7, num := 4, rcd := rec7 }
def sQ (l : Lesson) : State := { cur := 3, cycle := 100, time6 := 600, lessons := [l], contexts := [(7, { objs := [(5, objP 1)] })] }
theorem witness_attempt : (sQ lq).nextAttempt.map (fun p => (p.1, p.2.map (·.core))) = some (lq, [0]) ∧ (sQ lq).lesson 7 4 = some lq ∧
    after (exec (.reservationAttempt none) (sQ lq)) (fun t => t.lessons.map (fun m => (m.st, m.seats.map (·.core))) == [(.admitted, [0])]) = true := by decide +kernel
theorem witness_backoff : (sQ { lq with backoff := some 100 }).lesson 7 4 = some { lq with backoff := some 100 } ∧
    after (exec (.backoffExpiry 7 4) (sQ { lq with backoff := some 100 })) (fun t => t.lessons == [lq]) = true ∧
    after (exec (.backoffExpiry 7 4) (sQ { lq with backoff := some 101 })) (fun t => t.lessons == [{ lq with backoff := some 101 }]) = true := by decide +kernel
/-- A lesson of one seat on core 3, admitted. -/
def la : Lesson := { l0 with rcd := rec7, st := .admitted }
def xW : Ctx := { z with id := 7, lesson := 1, waitStart := true, f := [(2, 5)] }
def sA (l : Lesson) (m : Mem) : State :=
  { s0 xW with cores := [(3, { k0 xW with sh0 := {}, sh1 := {}, slot0 := some ⟨7, 1, 0, 0⟩ })], lessons := [l], contexts := [(7, { objs := [(5, objP 1)] })], tier1 := [(0, m)], pages := [(2, { bound := some 7 })] }
theorem witness_seat (l : Lesson) (h : l = la ∨ l = { la with reported := [0] }) : oneSeat (sA l []) l ⟨3, 0, 0, 0, 0, 0⟩ := by
  rcases h with rfl | rfl <;> exact ⟨by decide +kernel, rfl, rfl, rfl, by decide +kernel, by decide +kernel, by decide +kernel, by decide +kernel, rfl, rfl, by decide +kernel, by decide +kernel⟩
theorem witness_program : programAt (sA la []) la (objP 1) 1 ∧ (sA la []).badTier1 = [] ∧ programWord (sA la []) (objP 1) 0 = 0 ∧ scan (programWord (sA la []) (objP 1) 0) = 0 ∧
    scan (programWord (sA la [(7, 1)]) (objP 1) 0) = 3 := by unfold programAt; decide +kernel
theorem test_report : after (exec (.residencyReport 0 7 1) (sA la [])) (fun t => t.lessons == [{ la with reported := [0] }] && (t.live 3).word 0 == ⟨0, .exec⟩ && (t.live 3).word 1 == {}) = true := by
  decide +kernel
theorem test_copy_fault : after (exec (.lessonCopyFault 0 7 1) (sA la [(7, 1)])) (fun t => (t.page 2).comp == [completion 1 3 0x0C 100]) = true := by decide +kernel
theorem test_start : after (exec (.lessonStart 7 1) (sA { la with reported := [0] } [])) (fun t => t.lessons.map (·.st) == [.running] && !(t.live 3).waitStart && (t.live 3).sr 0x04A == 500 &&
    (t.live 3).rg 2 == 1 && (t.live 3).f == [(2, 5)]) = true := by decide +kernel
def sEnd (st : LessonState) : State := { sL { x0 with wait := none } with lessons := [{ l0 with st := st }] }
theorem witness_retire : (sEnd .draining).lesson 7 1 = some { l0 with st := .draining } ∧ (sEnd .draining).recs = [] ∧ ((sEnd .draining).core 3).ops = [] ∧
    after (exec (.lessonRetire 7 1) (sEnd .draining)) (fun t => t.lessons.map (·.st) == [.retired] && (t.page 2).comp == [completion 1 1 0 100]) = true ∧
    after (exec (.supervisorLessonEnd 7 1 0x31) (sEnd .running)) (fun t => (t.page 2).comp == [completion 1 3 0x31 100]) = true ∧
    after (exec (.supervisorLessonEnd 7 1 0x31) (sEnd .draining)) (· == sEnd .draining) = true ∧
    after (exec .registrarTakeover { sEnd .reserving with standby := true }) (fun t => !t.standby && t.lessons.map (·.st) == [.queued]) = true := by decide +kernel
theorem witness_slice : (sL x0).lesson 7 1 = some l0 ∧ ((sL x0).core 3).equalPeer = none ∧ (x0.sr 0x04A) = 0 ∧
    after (exec (.timeSliceExpiry 3) (sL x0)) (fun t => t.ctx == x0.setSr 0x04A 500) = true := by decide +kernel
def sSo : State := { s0 x0 with cores := [(3, { k0 x0 with active := false, slot0 := none, sh0 := ⟨.streamOut, xO⟩, sh1 := {} })] }
theorem witness_stream_out : (sSo.core 3).sh0 = ⟨.streamOut, xO⟩ ∧ (sSo.core 3).sh1 = {} ∧ sSo.lesson xO.id xO.lesson = none := ⟨rfl, rfl, rfl⟩
theorem test_stream_out : after (exec (.contextStreamComplete 3 0 true) sSo) (fun t => t.saves.map (·.1) == [saveKey 3 8 4]) = true := by decide +kernel
def lO : Lesson := { ctx := 8, num := 4, rcd := 0, st := .running, seats := [⟨3, 1, 0, 0, 0, 0⟩] }
def sSi : State := { s0 x0 with cores := [(3, { kO x0 with sh0 := ⟨.streamIn, xO⟩, sh1 := sh })], lessons := [lO], pages := [(2, { bound := some 8 })] }
theorem witness_stream_in : sSi.lesson 8 4 = some lO ∧ after (exec (.contextStreamComplete 3 0 false) sSi) (fun t => (t.page 2).comp == [completion 4 3 0x0B 100]) = true := by decide +kernel

/-! ## Device registers, stops, the service port -/

theorem witness_registers : coreId 3 = true ∧ ((sPg {}).page 2).bound ≠ none ∧ ((sPg {}).page 4).bound = none ∧ ((s0 x0).live 3).passed = [] ∧
    after (exec (.registerWrite (.pageIen 2) 1) (sPg {})) (fun t => (t.page 2).ien) = true ∧ after (exec (.registerWrite (.pageIen 4) 1) (sPg {})) (fun t => !(t.page 4).ien) = true ∧
    after (exec (.registerWrite (.waitThreshold 7) 50) (s0 x0)) (fun t => (t.head 7).waitThreshold == 50) = true ∧
    after (exec (.registerWrite (.breakPc 3 7) 5) (s0 x0)) (fun t => (t.core 3).bps == [(7, .pc 5)]) = true ∧
    after (exec (.registerWrite (.breakQueue 3 0 .mx) 9) (s0 x0)) (fun t => (t.core 3).bps == [(0, .queue .mx 9)]) = true ∧
    after (exec (.registerWrite (.ctxSlice 0xFFFF) 9) (s0 x0)) (fun t => (t.context 0xFFFF).slice == some 9) = true := by decide +kernel
def kB (b : List Bp) (h q d : Bool) : Core := { k0 { x0 with passed := b } with bps := [(0, .pc 5)], debugHold := h, stopReq := q, stopped := d }
/-- A core under the hold that was resumed at its BRK. -/
def kR : Core := { kB [] true false false with live := { x0 with brkPassed := true } }
def sB (k : Core) : State := { s0 x0 with cores := [(3, k)] }
theorem witness_brk : ((sB (kB [] true false false)).core 3).debugHold = true ∧ (sB kR).goes 3 n0 = true ∧
    after (exec (.brk n0 5) (sB (kB [] true false false))) (fun t => (t.core 3).stopReq && t.ctx.pc == 5) = true ∧
    after (exec (.brk n0 5) (sB kR)) (fun t => !(t.core 3).stopReq && t.ctx.pc == 6 && !t.ctx.brkPassed) = true := by decide +kernel
theorem witness_breakpoint : (sB (kB [] false false false)).mayGo 3 = true ∧ after (exec (.breakpointHit 3) (sB (kB [] false false false))) (fun t => (t.core 3).stopReq) = true ∧
    after (exec (.stopRequest 3) (s0 x0)) (fun t => (t.core 3).stopReq) = true ∧
    after (exec (.stopComplete 3) (sB (kB [] false true false))) (fun t => (t.core 3).stopped) = true ∧
    after (exec (.stopComplete 3) (sB (kB [] false false false))) (fun t => !(t.core 3).stopped) = true ∧
    after (exec (.stopResume 3) (sB (kB [] false true true))) (fun t => t.ctx.passed == [.pc 5] && !t.ctx.brkPassed && !(t.core 3).stopped && !(t.core 3).stopReq) = true ∧
    after (exec (.breakpointHit 3) (sB (kB [.pc 5] false false false))) (fun t => !(t.core 3).stopReq) = true := by decide +kernel
/-- The register written again stops the context anew. -/
theorem witness_breakpoint_anew : after (exec (.registerWrite (.breakPc 3 2) 5) (sB (kB [.pc 5] false false false))) (fun t =>
    t.ctx.passed == [] && after (exec (.breakpointHit 3) t) (fun u => (u.core 3).stopReq)) = true := by decide +kernel
def kH : Core := { kB [] false true false with live := { x0 with held := some 5 } }
theorem witness_held : kH.live.held ≠ none ∧ after (exec (.stopComplete 3) (sB kH)) (fun t => !(t.core 3).stopped) = true := by decide +kernel
theorem witness_freeze : after (exec .freeze (s0 x0)) (fun t => t.frozen && !t.hostUp) = true ∧
    after (step { s0 x0 with frozen := true, agenda := [(9, .freeze)] }) (fun t => t.frozen && t.agenda == [] && t.cycle == 100) = true ∧
    after (exec .powerRemoval (s0 x0)) (fun t => t.frozen && t.tier2 == []) = true ∧
    after (exec (.powerRailFault 7 4) (s0 x0)) (fun t => (t.head 7).blackBox.map (fun r => (r.kind, r.value, r.time)) == [(0x15, 4, 100)]) = true := by decide +kernel
theorem witness_reset : after (exec .deviceReset { sPg {} with tier2 := [(5, 6)], tier1 := [(0, [(1, 2)])] }) (fun t => t.cycle == 0 && t.tier2 == [(5, 6)] && t.tier1 == [] && t.pages == []) = true := by
  decide +kernel
theorem witness_ptm : after (exec (.ptmRefresh 99) { s0 x0 with hostUp := true }) (fun t => t.timeAdj == -6) = true ∧
    ({ s0 x0 with timeAdj := -6 }.timeAdj ≤ 5 * 1200 / 1000 ∧ -(5 * 1200 / 1000) ≤ { s0 x0 with timeAdj := -6 }.timeAdj) ∧
    ({ s0 x0 with timeAdj := -6 }.advance 1200).time6 = 6594 ∧ ({ s0 x0 with timeAdj := -6 }.advance 1200).timeAdj = 0 := by decide +kernel
def sHot : State := { s0 x0 with cores := [(3, { k0 x0 with throttled := true })] }
theorem witness_thermal : after (exec (.thermalThrottle 3 106 115) (s0 x0)) (fun t => (t.core 3).throttled && (t.head 0).blackBox.map (·.kind) == [0x13] && !t.frozen) = true ∧
    after (exec (.thermalThrottle 3 99 90) sHot) (fun t => !(t.core 3).throttled) = true ∧ after (exec (.thermalThrottle 3 100 90) sHot) (fun t => (t.core 3).throttled) = true ∧
    after (exec (.thermalThrottle 3 90 116) (s0 x0)) (fun t => t.frozen) = true := by decide +kernel
theorem witness_attestation : ((s0 x0).head 0).down = false ∧ after (exec (.attestationRequest 5) (s0 x0)) (fun t => t.freeCtr == 1 && t.report.isSome) = true := by decide +kernel

/-! ## Links and repairs -/

def sLink (k : Link) : State := { s0 x0 with links := [(35, k)] }
theorem witness_links : after (exec (.flitCrcFail 35) (sLink {})) (fun t => t.links == [(35, { replays := 1 })]) = true ∧
    after (exec (.laneFailure 35) (sLink {})) (fun t => t.links == [(35, { failed := 1, retraining := true })]) = true ∧
    after (exec (.laneFailure 35) (sLink { failed := 1 })) (fun t => t.links == [(35, { failed := 2, half := true })]) = true ∧
    after (exec (.laneRetrainComplete 35) (sLink { failed := 1, retraining := true })) (fun t => t.links == [(35, { failed := 1 })]) = true ∧
    after (exec (.hostLinkTraining 8 32) (s0 x0)) (fun t => t.hostUp && t.hostLanes == 8 && t.hostRate == 32) = true := by decide +kernel
theorem witness_soft_error : after (exec (.memorySoftError (.scratch 3 0x107) true) (s0 x0)) (fun t => t.badUnit (.win 3 0 0x100)) = true ∧
    after (exec (.memorySoftError (.vec 3 32767) false) (s0 x0)) (fun t => (t.live 3).badV == [32767]) = true ∧
    after (exec (.memorySoftError (.acc 3 16383) true) (s0 x0)) (fun t => (t.live 3).badA == [16383]) = true ∧
    after (exec (.memorySoftError (.slot 3 7 63 63) true) (s0 x0)) (fun t => (t.live 3).badSlot == [32767]) = true := by decide +kernel
/-- The spares of a stack are the configuration's; where it has one, a row with three corrected errors within the hour is one that may be remapped. -/
def hR : Headland := { corrected := List.replicate 3 (5 * 2 ^ 24 + 9, 100) }
theorem witness_row : hR.sparedRows.length = 0 ∧ 3 ≤ (hR.corrected.filter fun e => decide (e.1 = 5 * 2 ^ 24 + 9 ∧ (s0 x0).time6 / 6 ≤ e.2 + 3600 * 10 ^ 9)).length := by decide +kernel
def kRet : Core := { k0 x0 with active := false, slot0 := none, retiring := true, sh0 := {}, sh1 := {}, scratch := [(1, 2)] }
theorem witness_spare_tile : kRet.retiring = true ∧ kRet.slot0 = none ∧ kRet.slot1 = none ∧ kRet.active = false ∧ kRet.sh0 = {} ∧ kRet.sh1 = {} := ⟨rfl, rfl, rfl, rfl, rfl, rfl⟩
theorem test_spare_tile : after (exec (.coreSpareMap 3) (sB kRet)) (fun t => (t.core 3).scratch == [] && !(t.core 3).retiring && (t.head 0).spares == 15) = true ∧
    after (exec (.coreSpareMap 3) { sB kRet with heads := [(0, { spares := 0 })] }) (fun t => (t.core 3).unavailable && !(t.core 3).retiring) = true := by decide +kernel
theorem witness_switch : ({ s0 x0 with heads := [(7, { fwPending := [0, 2] })] }.head 7).fwPending = 0 :: [2] ∧
    after (exec (.firmwareSwitch 7) { s0 x0 with heads := [(7, { fwPending := [0, 2] })] }) (fun t => t.images.get 0 28 == 1 && (t.head 7).fwPending == [2]) = true := by decide +kernel

/-! ## Ring commands -/

/-- A ring of headland 0 with one command in slot 0: its OP, the low byte of OBJ, one byte of ARGA (its third and, for 0xFFFF, its first two) and that of ARGB; m is the rest of tier-2. -/
def sRing (s : State) (o obj a0 a2 b : Byte) (m : Mem) : State :=
  { s with
    tier2 := [(Config.ringBase 0 + 0x42, obj), (Config.ringBase 0 + 0x47, o), (Config.ringBase 0 + 0x48, a0), (Config.ringBase 0 + 0x49, a0), (Config.ringBase 0 + 0x4A, a2),
      (Config.ringBase 0 + 0x50, b)] ++ m
    heads := [(0, { tail := 1 })] }
theorem witness_command (s : State) (o obj a0 a2 b : Byte) (m : Mem) (h : ∀ e ∈ m, e.1 < Config.ringBase 0 ∨ Config.ringBase 0 + 0x1000 ≤ e.1) :
    command (sRing s o obj a0 a2 b m) 0 0 o.toNat 0 obj.toNat 0 (257 * a0.toNat + 65536 * a2.toNat) b.toNat := by
  have hm : ∀ i, i < 0x1000 → SMap.get 0 m (Config.ringBase 0 + i) = 0 := by
    intro i hi
    apply SMap.get_none
    intro c hc e
    rcases h c hc with h | h <;> omega
  have h8 := o.isLt
  have h9 := obj.isLt
  have hh : (sRing s o obj a0 a2 b m).head 0 = { tail := 1 } := rfl
  simp only [command, commandLow, hh]
  have hb : ∀ i, i < 0x1000 → (sRing s o obj a0 a2 b m).byte (.tier2 (Config.ringBase 0 + i)) =
      if i = 0x42 then obj else if i = 0x47 then o else if i = 0x48 then a0 else if i = 0x49 then a0 else if i = 0x4A then a2 else if i = 0x50 then b else 0 := by
    intro i hi
    simp only [State.byte, sRing, List.cons_append, List.nil_append, SMap.get, Nat.add_left_cancel_iff, hm i hi]
  simp [t2Nat, ringSlot, Nat.add_assoc, hb]
  omega
/-- With nothing else in tier-2 the command stands so for every configuration of the ring. -/
theorem witness_command_alone (s : State) (o obj a0 b : Byte) : command (sRing s o obj a0 0 b []) 0 0 o.toNat 0 obj.toNat 0 (257 * a0.toNat) b.toNat := by
  simpa using witness_command s o obj a0 0 b [] (by simp)
theorem witness_poll : ((s0 x0).head 0).down = false ∧ t2Nat (s0 x0) (Config.ringBase 0) 8 = 0 ∧ 0 ≤ t2Nat (s0 x0) (Config.ringBase 0 + 8) 8 := ⟨rfl, rfl, Nat.zero_le _⟩
/-- An image of KIND 10, rank 1, FMT 01, dimension 4, clear of the ring wherever that is. -/
def imgAt : Nat := if Config.ringBase 0 ≤ 0x1000 then 0x100000 else 0
def img : Mem := [(imgAt + 6, 0x30), (imgAt + 7, 0x81), (imgAt + 0x10, 4), (imgAt + 0x28, 1)]
def sObj (n : Nat) (o : ObjEntry) : State := { cur := 3, contexts := [(0, { objs := [(5, o)], counts := [(5, n)] })] }
def a2img : Byte := if Config.ringBase 0 ≤ 0x1000 then 0x10 else 0
theorem witness_image_clear : ∀ e ∈ img, e.1 < Config.ringBase 0 ∨ Config.ringBase 0 + 0x1000 ≤ e.1 := by
  simp only [img, imgAt, List.mem_cons, List.not_mem_nil, or_false, forall_eq_or_imp, forall_eq]
  split <;> omega
theorem witness_ocreate (s : State) : command (sRing s 1 5 0 a2img 0 img) 0 0 1 0 5 0 imgAt 0 ∧
    imageOk ((sRing s 1 5 0 a2img 0 img).bytes (.tier2 imgAt) 128) = true ∧ (imageEntry ((sRing s 1 5 0 a2img 0 img).bytes (.tier2 imgAt) 128)).kind = 2 := by
  have hb : (sRing s 1 5 0 a2img 0 img).bytes (.tier2 imgAt) 128 =
      (List.range 128).map fun i => if i = 6 then (0x30 : Byte) else if i = 7 then 0x81 else if i = 0x10 then 4 else if i = 0x28 then 1 else 0 := by
    apply List.map_congr_left
    intro i hi
    have hi := List.mem_range.mp hi
    have h1 : ∀ k, k < 0x1000 → imgAt + i ≠ Config.ringBase 0 + k := by intro k hk; unfold imgAt; split <;> omega
    simp [State.byte, sRing, Place.add, SMap.get, h1, img]
  refine ⟨?_, ?_, ?_⟩
  · have h := witness_command s 1 5 0 a2img 0 img witness_image_clear
    have e : 257 * (0 : Byte).toNat + 65536 * a2img.toNat = imgAt := by unfold a2img imgAt; split <;> rfl
    rw [e] at h
    exact h
  · rw [hb]; decide +kernel
  · rw [hb]; decide +kernel
theorem witness_objects : ((sObj 0 { kind := 2 }).context 0).objs.get {} 5 = { kind := 2 } ∧ ((sObj 1 { kind := 2 }).context 0).counts.get 0 5 = 1 ∧
    ((sObj 0 {}).context 0).objs.get {} 5 = {} := by decide +kernel
/-- ODESTROY and OLIFE of object 5, with ARGA 0. -/
theorem witness_odestroy (s : State) : command (sRing s 2 5 0 0 0 []) 0 0 2 0 5 0 0 0 := witness_command_alone s 2 5 0 0
theorem witness_olife (s : State) : command (sRing s 3 5 0 0 0 []) 0 0 3 0 5 0 0 0 := witness_command_alone s 3 5 0 0
/-- The commands with OBJ, ARGA and ARGB zero. -/
theorem witness_plain_commands (s : State) (o : Byte) (_ : o ∈ ([4, 5, 6, 7, 8, 0x10, 0x11, 0x12, 0x13, 0x14, 0x15] : List Byte)) :
    command (sRing s o 0 0 0 0 []) 0 0 o.toNat 0 0 0 0 0 := witness_command_alone s o 0 0 0
theorem witness_t2on (s : State) : command (sRing s 0x14 0 0 0 1 []) 0 0 0x14 0 0 0 0 1 := witness_command_alone s 0x14 0 0 1
theorem witness_unbind (s : State) : command (sRing s 0x12 0 0xFF 0 0 []) 0 0 0x12 0 0 0 0xFFFF 0 := witness_command_alone s 0x12 0 0xFF 0
/-- A stack with no spare row left, whatever it had. -/
theorem witness_no_spare : Config.spareRows 0 ≤ (({ cur := 3, heads := [(0, { sparedRows := List.replicate (Config.spareRows 0) 0 })] } : State).head 0).sparedRows.length := by
  simp [State.head, SMap.get]
/-- Page tables in host memory that map the page of virtual 0 to site 0. -/
def hostTables : Mem := [(0x1000, 1), (0x1001, 0x20), (0x1007, 0x20), (0x2000, 1), (0x2001, 0x30), (0x2007, 0x20), (0x3000, 0x37), (0x3002, 0x20)]
def sHt : State := { cur := 3, host := hostTables, contexts := [(7, { ptbase := 0x2000_0000_0000_1000 })], pages := [(0, { bound := some 9 })] }
theorem witness_sites : sHt.siteMapped 0 = true ∧ ({} : State).siteMapped 0 = false ∧ 0 ∉ ({} : State).t2off ∧ 0 ∈ ({ t2off := [0] } : State).t2off ∧
    (0 < if ({} : State).skuC then 8 else 16) := by decide +kernel
theorem witness_pages : (({} : State).page 0).bound = none ∧ (sHt.page 0).bound = some 9 ∧ coreId 0 = true := by decide +kernel
/-- With nothing in tier-2, a page of legal words: SCAN finds no illegal one. -/
theorem witness_scan : scan 0 = 0 ∧ ∀ v, Config.imageVerified 0 v = true ∨ Config.imageVerified 0 v = false := ⟨by decide, fun v => by cases Config.imageVerified 0 v <;> simp⟩

/-! ## Decoding, steps, memories -/

theorem witness_encode : encode (.br ⟨3, 5⟩ 22 21 5 8) = some 0x3050_20B5_5400_0008 ∧ (Instr.br ⟨3, 5⟩ 22 21 5 8).wellFormed = true := by decide
theorem witness_classes : [0x0000_0008_8600_0000, 0x0000_4240_60D1_0000, 0x0000_6402_0070_0800, 0x0000_8811_D048_0002, 0x0000_A140_0180_2C00, 0x0000_C208_0E00_0003].map
    (fun w : W64 => (decode w).map engineOf) = [some none, some (some .ld), some (some .st), some (some .vx), some (some .mx), some none] := by decide
theorem test_reserved : [0x36, 0x3F, 0x46, 0x5F, 0x65, 0x7F, 0x9E, 0xAC, 0xBF, 0xD5, 0xDF, 0xE0, 0xFF].all (fun op => reservedOpcode op && decode (BitVec.ofNat 64 (op * 2 ^ 40)) == none) = true ∧
    [0x35, 0x45, 0x64, 0x9D, 0xAB, 0xD4].all (fun op => !reservedOpcode op) = true := by decide
def xStep : Ctx := code x0 [.add n0 1 2 3]
theorem witness_step : (s0 xStep).mayGo 3 = true ∧ ((s0 xStep).core 3).bps = [] ∧ (s0 xStep).fetch 3 = .word 0x0000_0008_8600_0000 ∧
    decode 0x0000_0008_8600_0000 = some (.add n0 1 2 3) ∧ (xStep.word 5).st = .exec ∧
    after (step (s0 xStep)) (fun t => t.cycle == 101 && t.ctx.rg 1 == 1 && t.ctx.pc == 6) = true := by decide +kernel
theorem witness_agenda : after (step { s0 xStep with agenda := [(7, .freeze)] }) (fun t => t.frozen && t.cycle == 107 && t.agenda == []) = true := by decide +kernel
/-- A state with no memory listed is canonical; after reset nothing is listed. -/
theorem witness_canonical : memoriesCanonical (s0 xStep) ∧ after (step (s0 xStep)) (fun t => t.tier2 == [] && (t.core 3).scratch == []) = true := by
  refine ⟨⟨rfl, rfl, fun k => rfl, fun c => ?_, fun k => rfl⟩, by decide +kernel⟩
  by_cases h : c = 3
  · subst h; rfl
  · simp [State.core, s0, SMap.get, h, SMap.wf_nil, Memory.wf]

/-! ## Further clauses of the statements above -/

theorem test_illformed_sub_fields : ([.vcvt n0 1 2 0 1 1 0 0, .vcvt n0 1 2 0 2 3 1 5, .vcvt n0 1 2 0 0 3 0 0, .vmask n0 1 0 0 0 1 10, .vmask n0 1 0 0 1 0 15,
    .vmask n0 1 2 3 0 0 12] : List Instr).map reasonOf = [4, 4, 0, 4, 4, 7] := by decide
theorem witness_store_pushes : pageFree (sT xT) te 0x5008 2 true = true ∧ (sT xT).goes 3 ⟨0, 1⟩ = true ∧
    after (exec (.st ⟨0, 1⟩ 2 1 0 1 0) (sT xT)) (fun t => t.ctx == xT.retired ⟨0, 1⟩ 6 && t.tier2 == [(0x9008, 0x34), (0x9009, 0x12)]) = true := by decide +kernel
/-- A double fault of any precise cause, here ACCESS, with no lesson left to end: the core halts. -/
theorem witness_double_fault_halts : (s0 { x0 with sys := [(0, 0b10001)] }).lesson 7 1 = none ∧
    (let t := (s0 { x0 with sys := [(0, 0b10001)] }).trap 3 { cause := 3, addr := 9 } 5
     (t.live 3).halted = true ∧ (t.head 0).blackBox.head? = some { time := 100, kind := 0x10, core := 3, ctx := 7, code := 3, value := 9 }) := by decide +kernel
/-- A COLLPAGE handler of context 7, with a chunk of that context and one of another parked, and its record paused. -/
def sCp : State :=
  { sC { x0 with sys := [(0, 0b11010), (3, 77)], collHandler := true } [{ rc with paused := true }] with
    heads := [(0, { park := [ck, { ck with cid := 1, ctx := 8 }] })] }
theorem witness_coll_retry : sCp.ctx.inh = true ∧ sCp.goes 3 n0 = true ∧ sCp.ctx.collHandler = true ∧
    after (exec (.eret n0) sCp) (fun t => t.chunks == [ck] && t.recs == [rc] && (t.head 0).park == [{ ck with cid := 1, ctx := 8 }] && !t.ctx.collHandler && t.ctx.pc == 77) = true := by
  decide +kernel
theorem witness_tlbinv_counted : mayTrap (s0 { xI 0x5123 with tlb := [{ te with count := 1 }] }) n0 = true ∧
    invNamed 0 0x5123 7 { te with count := 1 } = true ∧ invMarked (invNamed 0 0x5123 7) [te, { te with count := 1 }] = [{ te with count := 1, dying := true }] := by decide +kernel
/-- A waiting TLBINV in supervisor code, its word latched when it was fetched. -/
def xIl : Ctx := { xI 0x5123 with tlb := [{ te with dying := true }], wait := some ⟨.tlbinv, 0x5000, 99⟩, latch := encode (.tlbinv n0 1 2 0 0) }
theorem witness_tlbinv_complete : (quiet (s0 xIl)).goes 3 n0 = true ∧ (quiet (s0 xIl)).mayGo 3 = true ∧ (quiet (s0 xIl)).wordAt 3 = some (.tlbinv n0 1 2 0 0) ∧
    leaves (.tlbinvComplete 3) (quiet (s0 xIl)) ({ xIl with tlb := [] }.retired n0 6) = true := by decide +kernel

/-! Captures, tokens, waits -/

theorem witness_captures : capturedG x0 (.vupd n0 1 2 3 0 0 0 1) = [6, 0xFFFF_FFFF_FFFF_FFFE, 3, 0x8000_0000_0000_0100] ∧ ((s0 x0).core 3).bps = [] ∧
    after (exec (.vupd n0 5 2 9 0 0 0 1) (s0 x0)) (fun t => t.ctx.vx.map (·.gv) == [capturedG x0 (.vupd n0 5 2 9 0 0 0 1)]) = true ∧
    after (exec (.vmeanE n0 4 1 0) (s0 { x0 with sys := [(0x033, 0x77)] })) (fun t => t.ctx.vx.map (·.mshape) == [0x77]) = true := by decide +kernel
theorem witness_tokens_flow : controlTokens (.mfs ⟨8, 0⟩ 5 0x041) = some ⟨8, 0⟩ ∧ (popFifos .cc 8).find? (fun n => x0.tokens.get 0 n == 0) = some 4 ∧
    leaves (.mfs ⟨8, 0⟩ 5 0x041) (s0 x0) { x0 with wait := some ⟨.token, 4, 100⟩ } = true ∧
    leaves (.jmp ⟨8, 0⟩ 3) (s0 x0) { x0 with wait := some ⟨.token, 4, 100⟩ } = true := by decide +kernel
/-- A context whose FIFO from the control core to LD is full. -/
def xFull : Ctx := { x0 with tokens := [(0, 15)] }
theorem witness_held_words : plainResult (s0 xFull) (.jmp ⟨0, 8⟩ 3) = some (⟨0, 8⟩, xFull, 8) ∧ xFull.hasRoom (pushFifos .cc 8) = false ∧
    leaves (.jmp ⟨0, 8⟩ 3) (s0 xFull) (heldAt xFull ⟨0, 8⟩ 8) = true ∧
    leaves (.qset ⟨0, 8⟩ 3 2 0) (s0 xFull) (heldAt { xFull with q := [(3, 0xFFFF_FFFF_FFFF_FFFE)] } ⟨0, 8⟩ 6) = true ∧
    leaves (.mts ⟨0, 8⟩ 3 0x036) (s0 (sup xFull)) (heldAt ((sup xFull).setSr 0x036 1) ⟨0, 8⟩ 6) = true := by decide +kernel
theorem witness_flag_sets : (sTwo x5).scopeEcc 3 x5 1 5 = none ∧ (sTwo x5).mayUseEcc 3 x5 5 = none ∧ (s0 x5).scopeEcc 3 x5 0 3 = none := by decide +kernel
/-- A WAITF under scope 2 keeps the entry it read. -/
theorem witness_entry_kept : entryRead (s0 x5) 0 0 ∧ mayTrap sSc n0 = true ∧ entryRead sSc 2 0 := by
  refine ⟨by unfold entryRead; rw [if_pos (by decide)], by decide +kernel, ?_⟩
  have h : (List.range 256).all (fun i => decide (sSc.vaPlace 7 xSc.root (0x4200 + i) = some (.tier2 (0x204200 + i))) && !sSc.badRead (.tier2 (0x204200 + i))
      && sSc.byte (.tier2 (0x204200 + i)) == 0) = true := by decide +kernel
  have ha : ∀ i, i < 256 → ((sSc.ctx.sr 0x048).toNat + 256 * (2 : BitVec 5).toNat + i) % 2 ^ 64 = 0x4200 + i := by
    intro i hi
    have h0 : (sSc.ctx.sr 0x048).toNat + 256 * (2 : BitVec 5).toNat = 0x4200 := by decide +kernel
    omega
  unfold entryRead
  rw [if_neg (by decide)]
  refine ⟨fun i hi => by beta_reduce; rw [ha i hi]; omega, fun i hi => ?_⟩
  beta_reduce
  have hi' := List.all_eq_true.mp h i (List.mem_range.mpr hi)
  simp only [Bool.and_eq_true, decide_eq_true_eq, Bool.not_eq_true', beq_iff_eq] at hi'
  obtain ⟨⟨hp, hb⟩, hz⟩ := hi'
  rw [ha i hi, show sSc.ctx.id = 7 from rfl, show sSc.ctx.root = xSc.root from rfl, hp]
  exact ⟨hb, fun j _ => by rw [hz]; simp⟩
theorem witness_entry_found : after (exec (.waitf n0 2 1 0) sSc) (fun t => t.ctx.waitEntry == some (some 0)) = true := by decide +kernel

/-! Collectives, lessons, stops, repairs -/

def cmR : Comm := { cm with members := [(0xFFF, 3), (5, 3)] }
def sCr (x : Ctx) : State := { sC x [] with contexts := [(7, { comms := [(2, cmR)] })] }
def xCr : Ctx := code { x0 with wait := some ⟨.collective, 2, 99⟩ } [.commDel n0 5 2]
theorem witness_comm_del_remote : (sCr x0).comm 7 2 = some cmR ∧ leaves (.commDel n0 5 2) (sCr x0) { x0 with wait := some ⟨.collective, 2, 100⟩ } = true ∧
    (sCr xCr).mayGo 3 = true ∧ (sCr xCr).wordAt 3 = some (.commDel n0 5 2) ∧
    after (exec (.commComplete 3 0) (sCr xCr)) (fun t => t.ctx.rg 5 == 0 && t.comm 7 2 == none && (t.head 0).slotUsed == 3072) = true ∧
    leaves (.commComplete 3 6) (sCr xCr) ((xCr.setG 5 6).retired n0 6) = true := by decide +kernel
def noRegistrar (s : State) : State := { s with heads := [(0, { down := true }), (4, { down := true })] }
theorem witness_no_registrar : ((noRegistrar (sQ lq)).head 0).down = true ∧ after (exec (.reservationAttempt none) (noRegistrar (sQ lq))) (· == noRegistrar (sQ lq)) = true ∧
    after (exec .registrarTakeover (noRegistrar (sQ lq))) (· == noRegistrar (sQ lq)) = true := by decide +kernel
/-- A lesson of one level, [0, 6), on one seat. -/
def rec7L : BitVec 1024 := rec7 ||| (BitVec.ofNat 1024 (1 + 2 ^ 20) <<< 64) ||| (BitVec.ofNat 1024 (6 * 2 ^ 32) <<< 256) ||| (BitVec.ofNat 1024 0x55 <<< 640)
theorem test_start_values : levelPart { la with rcd := rec7L } ⟨3, 0, 0, 0, 0, 0⟩ 0 = (0, 6) ∧
    after (exec (.lessonStart 7 1) (sA { la with rcd := rec7L, reported := [0] } [])) (fun t => (t.live 3).sr 0x018 == 6 * 2 ^ 32 && (t.live 3).rg 4 == 0x55 &&
      (t.live 3).sr 0x012 == 1 && (t.live 3).sr 0x019 == 0 && (t.core 3).gated == []) = true := by decide +kernel
theorem witness_page_reads : (({} : State).page 4).bound = none ∧
    (let s := sPg { ovf := true, launch := [0, 0, 0], comp := [(9, 8), (7, 6)], ien := true }
     [s.pageRead 2 0x78, s.pageRead 2 0x80, s.pageRead 2 0x100, s.pageRead 2 0x108, s.pageRead 2 0x180, s.pageRead 4 0x80] = [0, 0x13D, 9, 8, 1, 0]) ∧
    (sPg {}).pageRead 2 0x100 = 0 := by decide +kernel
theorem witness_trigger : after (exec (.registerWrite (.freezeTrigger 7) 0x0020_0000) (s0 x0)) (fun t => (t.head 7).trigger == [0x15]) = true ∧
    after (exec (.powerRailFault 7 4) { s0 x0 with heads := [(7, { trigger := [0x15] })] }) (fun t => t.frozen && (t.head 7).blackBox.length == 1) = true := by decide +kernel
def kW : Core := { kB [] false true false with live := { x0 with wait := some ⟨.token, 4, 90⟩, ccPop := 4, tokens := [(8, 0)] } }
theorem witness_stop_gives_up : kW.live.held = none ∧
    after (exec (.stopComplete 3) (quiet (sB kW))) (fun t => (t.core 3).stopped && t.ctx.wait == kW.live.wait && t.ctx.ccPop == 0 && t.ctx == { givenUp kW.live with wait := kW.live.wait }) = true ∧
    after (exec (.stopResume 3) (sB { kB [] true true true with brkStop := true })) (fun t => t.ctx.brkPassed && !(t.core 3).stopped) = true ∧
    after (exec (.brk ⟨8, 0⟩ 5) (sB (kB [] true false false))) (fun t => !(t.core 3).stopReq && t.ctx.wait == some ⟨.token, 4, 100⟩) = true := by decide +kernel
theorem witness_slew : { s0 x0 with timeAdj := -6, slewRem := 0 }.slewRem < 1000 ∧
    (({ s0 x0 with timeAdj := -6 }.advance 150).advance 250).time6 = ({ s0 x0 with timeAdj := -6 }.advance 400).time6 ∧
    ({ s0 x0 with timeAdj := -6 }.advance 400).time6 = 2598 := by decide +kernel
theorem witness_mask_error : after (exec (.memorySoftError (.mask 3 32) false) (s0 x0)) (fun t => (t.live 3).badM == [32]) = true ∧
    after (exec (.memorySoftError (.mask 3 255) true) (s0 x0)) (fun t => (t.live 3).badM == [255]) = true := by decide +kernel
theorem witness_scrub (s : State) (h : s.softTier1 = []) : command (sRing s 4 0 0 0 0 []) 0 0 4 0 0 0 0 0 ∧ (sRing s 4 0 0 0 0 []).softTier1 = [] :=
  ⟨witness_command_alone s 4 0 0 0, h⟩
theorem witness_route (k : Link) : ({ s0 x0 with links := [((Config.routeLink 5).val, k)], chunks := [{ ck with node := 5 }] } : State).links.get {} (Config.routeLink 5).val = k := by
  simp [SMap.get]
theorem test_retrained : after (exec (.laneRetrainComplete 35) (sLink { failed := 1, retraining := true, held := [(5, ck)] }))
    (fun t => t.fabricOut == [(5, ck)] && t.links == [(35, { failed := 1 })]) = true := by decide +kernel

/-! ## Commands of the engines: starts, husks, retirements -/

/-- A package whose core 3 has nothing in its stores' way, and runs a context. -/
def qs (x : Ctx) : State := quiet (s0 x)
/-- A started command. -/
def kst (i : Instr) : Cmd := { instr := i, since := 90, phase := .started, popped := true }
/-- An object in the scratchpad of core 3: 8 rows of 8 elements of a format. -/
def ob (f h : Nat) : ObjEntry := { kind := 3, fmt := f, rank := 2, rd := true, wr := true, dims := [8, 8], strides := [8, 1], home := 2 ^ 63 + h }
def rs (f h : Nat) : RStream := { ctx := 7, obj := ob f h }
theorem rs_fmt (f h : Nat) : (rs f h).fmt = f := by simp [RStream.fmt, rs, ob]
theorem rs_org (f h d : Nat) (hd : d < 2) : (rs f h).org d = 0 := by
  have h0 : ∀ d < 2, sextNat ((0 : BitVec 256).extractLsb' (160 - 32 * d) 32).toNat 32 + ([] : List Int).getD d 0 = 0 := by decide
  exact h0 d hd
theorem witness_tile (f b h n w : Nat) (hf : scaled f = false) (he : elemBits f = 8 * b) (hb : b ∈ [1, 2, 4]) (hn : n ≤ 8) (hw : w ≤ 8) (hh : h + 256 ≤ 0x200000) :
    padTile 3 (rs f h) id n w b (fun k j => h + (k * 8 + (0 + j) * 1) * b) := by
  refine ⟨rfl, by simp [RStream.em, rs], by simp [RStream.tr, rs], rfl, rfl, rfl, by rw [rs_fmt]; exact hf, by rw [rs_fmt]; exact he, hb, by decide, 2 ^ 63, h, 8, 8, 8, 1, 0, by simp, rfl, rfl, rfl, rs_org f h 1 (by omega), ?_⟩
  intro k j hk hj
  simp only [List.mem_cons, List.not_mem_nil, or_false] at hb
  refine ⟨by simp only [id]; omega, by omega, rfl, ?_⟩
  rcases hb with rfl | rfl | rfl <;> dsimp only <;> omega
theorem witness_rows (f h n : Nat) (l : List Nat) : rowsOf (rs f h) false l n id := fun k _ => by
  simp [rs_org f h 0 (by omega)]
theorem witness_apart (h n w b : Nat) (hb : b ∈ [1, 2, 4]) (hw : w ≤ 8) : apart n w b (fun k j => h + (k * 8 + (0 + j) * 1) * b) := by
  intro k j k' j' _ hj _ hj' hne
  simp only [List.mem_cons, List.not_mem_nil, or_false] at hb
  have : k ≠ k' ∨ j ≠ j' := by
    by_contra hc
    exact hne (by ext <;> simp <;> omega)
  rcases hb with rfl | rfl | rfl <;> dsimp only <;> omega
theorem witness_disjoint (h h' n w b b' : Nat) (hb : b ∈ [1, 2, 4]) (hn : n ≤ 8) (hw : w ≤ 8) (hh : h + 256 ≤ h') :
    disjoint n w b (fun k j => h + (k * 8 + (0 + j) * 1) * b) b' (fun k j => h' + (k * 8 + (0 + j) * 1) * b') := by
  intro k j k' j' hk hj hk' hj'
  left
  simp only [List.mem_cons, List.not_mem_nil, or_false] at hb
  have : h' ≤ h' + (k' * 8 + (0 + j') * 1) * b' := Nat.le_add_right _ _
  rcases hb with rfl | rfl | rfl <;> dsimp only <;> omega

def kLdo : Cmd := { instr := .ldo ⟨8, 1⟩ 4 12 6 1 2, gv := [5] }
theorem witness_start_ld : canStart (qs { x0 with ld := [kLdo], tokens := [(0, 1)] }) 3 .ld kLdo [] ∧
    (startOf (qs x0) 3 x0 kLdo).map (fun e => (e.1.word 5).st) = some .pending ∧
    after (exec (.engineCommandStart 3 .ld) (qs { x0 with ld := [kLdo], tokens := [(0, 1)] }))
      (fun t => (t.ctx.word 5).st == .pending && (t.ctx.word 6).st == .pending && t.ctx.stNext && t.ctx.tokens == [(0, 0)]) = true := by
  unfold canStart; decide +kernel
def kStt : Cmd := { instr := .stt n0 1 2 3 0 0 1 0, gv := [1], sa := some (rs 0x12 0x100), sb := some (rs 0x12 0x200) }
theorem witness_start_st : canStart (qs { x0 with st := [kStt], stNext := true }) 3 .st kStt [] := by unfold canStart; decide +kernel
def kNest : Cmd := { instr := .mxnest n0 1 0, gv := [1, 2, 3] }
theorem witness_start_mx : canStart (qs { x0 with mx := [kNest] }) 3 .mx kNest [] ∧ (startOf (qs x0) 3 x0 kNest).isSome = true ∧ laneable (.mxstat n0 1) = true ∧
    canStart (qs { x0 with lane := [kv (.mxstat n0 1)] }) 3 .mx (kv (.mxstat n0 1)) [] := by unfold canStart; decide +kernel
theorem witness_start_mark : canStart (qs { x0 with ld := [kv (.qmark n0 3 1)], st := [kv (.qmark n0 3 1)] }) 3 .ld (kv (.qmark n0 3 1)) [] ∧
    (kv (.qmark n0 3 1)).isMark = true ∧ after (exec (.engineCommandStart 3 .ld) (qs { x0 with ld := [kv (.qmark n0 3 1)], st := [kv (.qmark n0 3 1)] }))
      (fun t => (t.ctx.ld ++ t.ctx.st).map (·.phase) == [.started, .started]) = true := by unfold canStart; decide +kernel
/-- A husk of an LDO that has pending words, a pinned TLB entry that is dying, and an object counted. -/
def kHusk : Cmd := { kLdo with husk := true, pins := [0], objs := [5], instr := .ldo n0 4 12 6 1 2 }
def sHusk : State :=
  { qs { x0 with ld := [kHusk], tlb := [{ te with count := 1, dying := true }], words := [(5, ⟨9, .pending⟩)] } with contexts := [(7, { counts := [(5, 3)] })] }
theorem witness_husk_counts : (sHusk.core 3).active = true ∧ kHusk.flagCore 3 = 3 ∧ flagOf kHusk.instr = some 6 ∧ unpinned [{ te with count := 1, dying := true }] [0] = [] ∧
    after (exec (.huskRetire 3 .ld) sHusk) (fun t => t.ctx.tlb == [] && (t.context 7).counts == [(5, 2)] && t.ctx.flag 6 == 1 && (t.ctx.word 5).st == .nonexec) = true := by
  decide +kernel

/-! Copies -/

def kCp (i : Instr) (f h f' h' : Nat) : Cmd := { kst i with gv := [1], sa := some (rs f h), sb := some (rs f' h'), objs := [5] }
def sCopy (x : Ctx) (m : Mem) : State := { qs x with cores := [(3, { k0 x with scratch := m })], contexts := [(7, { counts := [(5, 2)] })] }
def iLdt : Instr := .ldt ⟨0, 8⟩ 1 2 3 7 1 1 0
def sLdt : State := sCopy { x0 with ld := [kCp iLdt 0x0B 0x100 0x01 0x200] } [(0x100, 0xFE)]
theorem witness_copy : canRetire sLdt 3 .ld (kCp iLdt 0x0B 0x100 0x01 0x200) [] ∧ copyForm iLdt = some (.ld, 1, 0, false, false) ∧ tileWidth 1 = some 1 ∧ padSound sLdt 3 ∧
    elemBits 0x0B = 8 ∧ elemBits 0x01 = 32 ∧ scaled 0x0B = false ∧ scaled 0x01 = false ∧ copied 0x0B 0x01 0 0xFE = 0xC000_0000 ∧
    after (exec (.commandRetire 3 .ld) sLdt) (fun t => t.bytes (.win 3 7 0x200) 4 == [0, 0, 0, 0xC0] && t.ctx.flag 7 == 1 && t.ctx.ld == [] &&
      (t.context 7).counts == [(5, 1)]) = true := by unfold canRetire padSound; decide +kernel
def kLdg : Cmd := { kCp (.ldg n0 1 2 3 0 0 1 0) 0x12 0x100 0x12 0x200 with idx := [2] }
theorem witness_copy_rows : copyForm kLdg.instr = some (.ld, 1, 0, true, false) ∧ copyForm (.sct n0 1 2 3 0 0 1 0) = some (.st, 1, 0, false, true) ∧
    rowsOf (rs 0x12 0x100) true kLdg.idx 1 (fun _ => 2) ∧
    after (exec (.commandRetire 3 .ld) (sCopy { x0 with ld := [kLdg] } [(0x110, 0x77)])) (fun t => t.byte (.win 3 7 0x200) == 0x77) = true := by
  refine ⟨rfl, rfl, fun k hk => ?_, by decide +kernel⟩
  obtain rfl : k = 0 := by omega
  rfl
def kRed (op : BitVec 3) : Cmd := kCp (.redSt n0 1 2 3 0 0 1 0 op) 0x0C 0x100 0x0C 0x200
theorem witness_reduce : canRetire (sCopy { x0 with st := [kRed 1] } [(0x100, 3), (0x200, 5)]) 3 .st (kRed 1) [] ∧ elemBits 0x0C = 32 ∧ reduced 0x0C 1 0 5 3 = 3 ∧
    reduced 0x0C 0 0 5 0xFFFF_FFFF = 4 ∧ reduced 0x01 2 0 0x3F80_0000 0xBF80_0000 = 0x3F80_0000 ∧
    after (exec (.commandRetire 3 .st) (sCopy { x0 with st := [kRed 1] } [(0x100, 3), (0x200, 5)])) (fun t => t.bytes (.win 3 7 0x200) 4 == [3, 0, 0, 0]) = true := by
  unfold canRetire; decide +kernel
/-- A MEAN of one row in one column: three words each, an arithmetic state of one element 2.0 joined to one of 4.0. -/
def kMean : Cmd := kCp (.redSt n0 1 2 3 0 0 1 0 3) 0x01 0x100 0x01 0x200
theorem witness_reduce_mean : canRetire (sCopy { x0 with st := [kMean] } []) 3 .st kMean [] ∧ (kMean.copyRows = 3) ∧
    after (exec (.commandRetire 3 .st) (sCopy { x0 with st := [kMean] } [(0x102, 0x80), (0x103, 0x3F), (0x143, 0x40)])) (fun t => t.ctx.st == []) = true := by
  unfold canRetire; decide +kernel
def kPop : Cmd := { kst (.chpop n0 2 0 0 0 1) with gv := [1], sb := some (rs 0x02 0x200) }
theorem witness_chpop : canRetire (sCopy { x0 with st := [kPop], chimney := [[0x1234], [7]] } []) 3 .st kPop [] ∧ elemBits 0x02 = 16 ∧ scaled 0x02 = false ∧
    after (exec (.commandRetire 3 .st) (sCopy { x0 with st := [kPop], chimney := [[0x1234], [7]] } []))
      (fun t => t.bytes (.win 3 7 0x200) 2 == [0x34, 0x12] && t.ctx.chimney == [[7]] && t.ctx.chDone == 1) = true := by unfold canRetire; decide +kernel
def kLo : Cmd := { kst (.ldo n0 4 12 0 0 1) with gv := [5], sa := some (rs 0x12 0x100) }
theorem witness_ldo : canRetire (sCopy { x0 with ld := [kLo] } []) 3 .ld kLo [] ∧ scan 0 = 0 ∧ elemBits 0x12 = 8 ∧
    after (exec (.commandRetire 3 .ld) (sCopy { x0 with ld := [kLo] } [])) (fun t => t.ctx.word 5 == ⟨0, .exec⟩ && t.ctx.ld == []) = true := by unfold canRetire; decide +kernel
def kPref : Cmd := kst (.pref n0 1 2 0 0 1)
def kQm : Cmd := kst (.qmark n0 3 1)
theorem witness_plain_retire : canRetire (qs { x0 with ld := [kPref] }) 3 .ld kPref [] ∧ canRetire (qs { x0 with ld := [kQm], st := [kQm] }) 3 .ld kQm [] ∧ kPref.sb = none ∧
    after (exec (.commandRetire 3 .ld) (qs { x0 with ld := [kQm], st := [kQm] })) (fun t => t.ctx.ld == [] && t.ctx.st == [] && t.ctx.flag 3 == 1) = true := by
  unfold canRetire; decide +kernel

/-! Vector and matrix commands -/

def xRet (k : Cmd) : Ctx := { x0 with vx := [k], v := [(1024, 0x3F80_0000), (1025, 0x7F80_0001), (1026, 0x7F7F_FFFF)], m := [(2, 7)] }
def kAdd : Cmd := kst (.valu n0 3 1 1 2 0 0 0 0)
theorem witness_rounding : canRetire (qs (xRet kAdd)) 3 .vx kAdd [] ∧ (roundingElement (xRet kAdd) kAdd.instr).isSome = true ∧
    after (exec (.commandRetire 3 .vx) (qs (xRet kAdd))) (fun t => t.ctx.ve 3 0 0 == 0x4000_0000 && t.ctx.ve 3 0 1 == 0x7FC0_0000 && t.ctx.ve 3 0 2 == 0x7F80_0000 && t.ctx.sr 0x030 != 0 && t.ctx.vx == []) = true := by
  unfold canRetire; decide +kernel
def kCmp : Cmd := kst (.vcmp n0 5 1 0 2 0 6)
theorem witness_compare : canRetire (qs (xRet kCmp)) 3 .vx kCmp [] ∧ compared 0 6 0x7F80_0001 0 = true ∧ compared 0 2 0x3F80_0000 0x4000_0000 = true ∧
    after (exec (.commandRetire 3 .vx) (qs (xRet kCmp))) (fun t => t.ctx.mask 5 == 2 && t.ctx.vx == []) = true := by unfold canRetire; decide +kernel
/-- A mean step on an empty state; under DMODE 0 a negative element under the geometric domain stops it. -/
def kMe (sh : W64) : Cmd := { kst (.vmeanE n0 4 1 2) with mshape := sh }
theorem witness_mean : canRetire (qs (xRet (kMe 0))) 3 .vx (kMe 0) [] ∧ (meanElement (xRet (kMe 0)) 0 (kMe 0).instr).map (fun e => (e.1, e.2.1, e.2.2.1)) = some (4, 2, 3) ∧
    (xRet (kMe 0)).badV = [] ∧ (xRet (kMe 0)).badM = [] := by unfold canRetire; decide +kernel
def kGen : Cmd := kst (.vredr n0 6 1 2 2 0 1 2)
theorem witness_any_vector : canRetire (qs (xRet kGen)) 3 .vx kGen [] ∧ kGen.idx = [] ∧ (qs (xRet kGen)).vecEcc 3 ((qs (xRet kGen)).vecRes 3 kGen) = none ∧
    ((qs (xRet kGen)).vecRes 3 kGen).fault = none ∧ ((qs (xRet kGen)).vecRes 3 kGen).mem = [] ∧ padSound (qs (xRet kGen)) 3 := by unfold canRetire padSound; decide +kernel
def kVst : Cmd := { kst (.vst n0 2 1 3 2 0 1) with gv := [0x400, 64] }
theorem witness_vector_store : canRetire (qs { xRet kVst with id := 7 }) 3 .vx kVst [] ∧ ((qs (xRet kVst)).vecRes 3 kVst).mem ≠ [] ∧
    ((qs (xRet kVst)).vecRes 3 kVst).mem.all (fun w => match w.1 with | .win 3 7 off => decide (off < 0x200000) | _ => false) = true := by
  unfold canRetire; decide +kernel

def kRun : Cmd :=
  { kst (.mxrun n0 1 2 1 0 0 0 0 1 0) with sa := some (rs 0x01 0x100), admitted := 1, slots := [4], rows := [⟨0, 0, 3, 0, true, [.fin 2, .fin 3], []⟩] }
def xRun : Ctx := { x0 with mx := [kRun], planes := [(4 * 16384, .fin 5), (4 * 16384 + 64, .fin 7)], dir := [(4, { st := 1, fmt := 0x02 })] }
theorem witness_run_row : runForm kRun.instr = some (1, 0, 2) ∧ kRun.slots[kRun.committed]? = some 4 ∧ kRun.admitted = kRun.rows.length ∧
    decodeF FA40 (passed xRun 4 0 0 false [.fin 2, .fin 3] 0 2) = .fin 31 ∧
    after (exec (.mxRowCommit 3) (qs xRun)) (fun t => decodeF FA40 (t.ctx.acc.get 0 (4096 + 64 * 3)).toNat == .fin 31 && t.ctx.mx.map (·.committed) == [1]) = true := by decide +kernel
/-- A row whose predicate is clear only counts. -/
theorem witness_row_masked : ({ kRun with slots := [8] } : Cmd).slots[0]? = some 8 ∧
    after (exec (.mxRowCommit 3) (qs { xRun with mx := [{ kRun with slots := [8] }] })) (fun t => t.ctx.acc == [] && t.ctx.mx.map (·.committed) == [1]) = true := by decide +kernel
def mxOf (k : Cmd) : Ctx := { x0 with mx := [k], acc := [(4096, 5), (4097, 0x80)], planes := [(0, .fin 3), (64, .fin 9)], dir := [(0, { st := 1, tag := 9 })], v := [] }
def kMx (i : Instr) : Cmd := kst i
theorem witness_matrix_retires : canRetire (qs (mxOf { kRun with committed := 1 })) 3 .mx { kRun with committed := 1 } [] ∧
    ([.pload n0 1 1 0 0, .pclr n0 0 0, .mxacl n0 1 0 0, .mxacr n0 0 1 0 3 0 0 0 0 0, .mxstat n0 1, .pdir n0 1 0 0, .mxnest n0 1 0, .mxres n0] : List Instr).all (fun i =>
      decide (engineOf i = some .mx) && (qs (mxOf (kMx i))).canApply 3 .mx (kMx i) && (mxOf (kMx i)).hasRoom (pushFifos .mx (tokOf i).push)) = true := by
  unfold canRetire; decide +kernel
def kPl : Cmd := { kst (.pload n0 1 1 0 0) with gv := [2], data := [.fin 4, .fin 6], sa := some (rs 0x01 0x100) }
theorem witness_pload : canRetire (qs (mxOf kPl)) 3 .mx kPl [] ∧ tileWidth 2 = some 2 ∧ kPl.data.length = 1 * 2 ∧
    after (exec (.commandRetire 3 .mx) (qs (mxOf kPl))) (fun t => t.ctx.cell 0 0 0 == .fin 4 && t.ctx.cell 0 0 1 == .fin 6 && t.ctx.cell 0 1 0 == .zero false &&
      (t.ctx.entry 0).tag == 9 && (t.ctx.entry 0).st == 1) = true := by unfold canRetire; decide +kernel
def kPs : Cmd := { kst (.pstore n0 1 1 0 0 0) with gv := [1], sb := some (rs 0x01 0x200) }
theorem witness_pstore : canRetire (qs (mxOf kPs)) 3 .mx kPs [] ∧ ((mxOf kPs).entry 0).st ≠ 2 ∧
    after (exec (.commandRetire 3 .mx) (qs (mxOf kPs))) (fun t => t.bytes (.win 3 7 0x200) 4 == [0, 0, 0x40, 0x40]) = true := by unfold canRetire; decide +kernel
theorem witness_mxacl : after (exec (.commandRetire 3 .mx) (qs (mxOf (kMx (.mxacl n0 1 1 1))))) (fun t => t.ctx.acc.get 0 4096 == 0x7F_FFFF_FFFF && t.ctx.acc.get 0 0 == 0) = true ∧
    after (exec (.commandRetire 3 .mx) (qs (mxOf (kMx (.mxstat n0 0))))) (fun t => t.ctx.mxFifo.length == 1) = true := by decide +kernel
theorem witness_mxacr : after (exec (.commandRetire 3 .mx) (qs (mxOf (kMx (.mxacr n0 0 1 0 3 0 0 1 1 0))))) (fun t => t.ctx.ve 3 0 0 == 5 && t.ctx.ve 3 0 1 == 0x80 &&
      t.ctx.acc.get 0 4096 == 0 && t.ctx.mx == []) = true ∧ identity 2 true = 0x80_0000_0000 ∧ (accToVec { x0 with acc := [(0, 0xFF_FFFF_FFFF)] } 0 0 0 0 true).1 = 0xFFFF_FFFF := by
  decide +kernel
/-- An object of 64 rows of 64 elements, which a tile fills whole. -/
def rs64 : RStream := { ctx := 7, obj := { kind := 3, fmt := 0x0C, rank := 2, wr := true, rd := true, dims := [64, 64], strides := [64, 1], home := 2 ^ 63 + 0x1000 } }
def kAcrSt : Cmd := { kst (.mxacr n0 2 1 1 0 0 0 1 0 0) with sb := some rs64, gv := [] }
theorem witness_mxacr_st : canRetire (qs (mxOf kAcrSt)) 3 .mx kAcrSt [] ∧ padSound (qs (mxOf kAcrSt)) 3 ∧ rowsOf rs64 false [] 64 id ∧
    padTile 3 rs64 id 64 64 4 (fun k j => 0x1000 + (k * 64 + (0 + j) * 1) * 4) ∧ apart 64 64 4 (fun k j => 0x1000 + (k * 64 + (0 + j) * 1) * 4) := by
  have h0 : rs64.org 0 = 0 ∧ rs64.org 1 = 0 := by decide +kernel
  refine ⟨by unfold canRetire; decide +kernel, by unfold padSound; decide +kernel, fun k _ => ?_,
    ⟨rfl, by decide +kernel, by decide +kernel, rfl, rfl, rfl, by decide +kernel, by decide +kernel, by simp, by decide, 2 ^ 63, 0x1000, 64, 64, 64, 1, 0, by simp, rfl, rfl, rfl,
      h0.2, ?_⟩, ?_⟩
  · simp [h0.1]
  · intro k j hk hj
    exact ⟨by simp only [id]; omega, by omega, rfl, by dsimp only; omega⟩
  · intro k j k' j' _ hj _ hj' hne
    have : k ≠ k' ∨ j ≠ j' := by
      by_contra hc
      exact hne (by ext <;> simp <;> omega)
    dsimp only
    omega
/-- MX stopped by MXPAR before a row, and an MXRES alone in the repair lane: the row is admitted anew. -/
def kPar : Cmd := { kRun with stop := some { cause := 8 }, admitted := 0, slots := [] }
def xPar : Ctx := { xRun with mx := [kPar], lane := [kst (.mxres n0)] }
theorem witness_lane_resume : (qs xPar).canApply 3 .mx (kst (.mxres n0)) = true ∧ kPar.dropping = false ∧ xPar.badSlot = [] ∧
    after (exec (.commandRetire 3 .mx) (qs xPar)) (fun t => t.ctx.lane == [] && t.ctx.mx.map (fun k => (k.stop.isNone, k.resumed, k.admitted)) == [(true, true, 1)]) = true := by
  decide +kernel

/-! Pending causes, waits that cannot end, contention, repairs -/

def pEcc : Pend := { cause := 0x0B, agent := 3, addr := 9, clk := 95, queue := some .vx, seq := 4 }
def pObj : Pend := { cause := 0x05, agent := 1, addr := 2, clk := 90 }
def xPd (l : List Pend) : Ctx := { x0 with pend := l, sys := [(1, 0x700)] }
theorem witness_stop_order : sooner pEcc pObj ∧ sooner pObj { pObj with clk := 91 } ∧ sooner pObj { pObj with agent := 2 } ∧ (s0 (xPd [pObj, pEcc])).atBoundary 3 = true ∧
    stillAwaits (xPd []) pEcc = false ∧ stopRecord pEcc false = 0x0B60_0000_0000_0000 ∧
    after (exec (.trapEntry 3) (s0 (xPd [pObj, pEcc]))) (fun t => t.ctx.sr 0x002 == 0x0B && t.ctx.sr 0x009 == 4 && t.ctx.pend == [pObj] && t.ctx.sup) = true ∧
    after (exec (.trapEntry 3) (s0 (xPd [pObj]))) (fun t => t.ctx.sr 0x002 == 5 && t.ctx.pc == 0x700 && !t.ctx.sup) = true := by unfold sooner; decide +kernel
def pColl : Pend := { cause := 0x0E, agent := 5, sub := 2, addr := 0x5000, detail := 3 }
theorem witness_collpage : after (exec (.trapEntry 3) (s0 (xPd [pColl]))) (fun t => t.ctx.collHandler && t.ctx.sr 0x002 == 0x0E && t.ctx.sr 0x00B == 3 && t.ctx.sup) = true := by
  decide +kernel
/-- A wait since clk 40, with WDOG 50, before a word. -/
def xStk (k : WaitKind) (obj : Nat) (i : Instr) (x : Ctx) : Ctx := code { x with sys := [(0x042, 50)], wait := some ⟨k, obj, 40⟩ } [i]
def sStk (k : WaitKind) (obj : Nat) (i : Instr) (x : Ctx) : State := { qs (xStk k obj i x) with lessons := [l0] }
/-- Whether WAITSTUCK traps with a kind and an object. -/
def stuckWith (s : State) (kind obj : Nat) : Bool := after (exec (.waitstuck 3 .cc) s) fun t =>
  t.ctx.sr 0x002 == 0x0D && t.ctx.sr 0x004 == BitVec.ofNat 64 obj && (t.ctx.sr 0x008).extractLsb' 32 8 == BitVec.ofNat 8 kind && t.ctx.sr 0x00B == 60
def sFl : State := sStk .flag (0xF000_0000_01A6_1008) (.waitf n0 0 2 2) x5
theorem witness_stuck_flag : waitsAt sFl 3 ⟨.flag, 0xF000_0000_01A6_1008, 40⟩ ∧ sFl.lesson 7 1 = some l0 ∧ classQuiet sFl l0 sFl.ctx ∧ sFl.admitsOther 3 sFl.ctx 0 = false ∧
    after (exec (.flagWaitSatisfied 3) sFl) (· == sFl) = true ∧ stuckWith sFl 2 (0xF000_0000_01A6_1008) = true ∧
    stuckWith { sFl with recs := [{ rc with raw := BitVec.ofNat 1024 (2 ^ 26 + 2 * 2 ^ 20) }] } 2 (0xF000_0000_01A6_1008) = false := by
  unfold waitsAt classQuiet; decide +kernel
def sTs : State :=
  let s := sStk .ticket (2 ^ 63 + 0x100) (.tktWait n0 0 1 2) (xTk 6)
  { s with cores := [(3, { k0 (xStk .ticket (2 ^ 63 + 0x100) (.tktWait n0 0 1 2) (xTk 6)) with scratch := [(0x108, 5)] })] }
theorem witness_stuck_ticket : waitsAt sTs 3 ⟨.ticket, 2 ^ 63 + 0x100, 40⟩ ∧ classQuiet sTs l0 sTs.ctx ∧ sTs.ticketCovered 7 3 (2 ^ 63 + 0x100) = false ∧
    after (exec (.ticketWaitSatisfied 3) sTs) (· == sTs) = true ∧ stuckWith sTs 3 (2 ^ 63 + 0x100) = true := by unfold waitsAt classQuiet; decide +kernel
theorem witness_stuck_results : stuckWith (sStk .resultFifo 0 (.rpop n0 5 0) x0) 4 0 = true ∧ stuckWith (sStk .resultFifo 1 (.rpop n0 5 1) x0) 4 1 = true ∧
    stuckWith (sStk .resultFifo 0 (.rpop n0 5 0) { x0 with vx := [kv (.vtog n0 1 0 0 0 0)] }) 4 0 = false ∧
    waitsAt (sStk .resultFifo 1 (.rpop n0 5 1) x0) 3 ⟨.resultFifo, 1, 40⟩ := by unfold waitsAt; decide +kernel
theorem witness_stuck_pending : stuckWith (sStk .pendingFetch 5 (.add n0 1 2 3) x0) 6 5 = false ∧
    (let x := { xStk .pendingFetch 5 (.add n0 1 2 3) x0 with words := [(5, ⟨0, .pending⟩)] }
     (qs x).fetch 3 = .pending 5 ∧ waitsAt (qs x) 3 ⟨.pendingFetch, 5, 40⟩ ∧ stuckWith (qs x) 6 5 = true ∧ stuckWith (qs { x with ld := [kst (.ldo n0 4 12 0 0 1)] }) 6 5 = false) := by
  unfold waitsAt; decide +kernel
/-- A PREF of a page whose TLB entry has its largest count: it waits for a pin, and nothing in flight releases one; but a command that
holds one and goes on does. -/
def kPage : Instr := .pref n0 1 3 0 0 1
def xPin : Ctx := { xStk .tlbPin 0x5000 kPage x0 with tlb := [{ te with count := 255 }], q := [(1, BitVec.ofNat 256 (5 * 2 ^ 240))] }
def sPin (x : Ctx) : State :=
  { qs x with contexts := [(7, { objs := [(5, { kind := 2, fmt := 0x12, rank := 1, rd := true, dims := [8], strides := [1], home := 0x5000 })] })] }
theorem witness_stuck_pin : waitsAt (sPin xPin) 3 ⟨.tlbPin, 0x5000, 40⟩ ∧ after (exec (.tlbPinResume 3) (sPin xPin)) (· == sPin xPin) = true ∧
    (∀ a, a ≠ .cc → ∀ k ∈ xPin.cmdsOf a, k.pins = []) ∧ stuckWith (sPin xPin) 5 0x5000 = true ∧
    stuckWith (sPin { xPin with vx := [{ kst (.vmov n0 3 1 0) with pins := [0] }] }) 5 0x5000 = false ∧
    awaitsCC { x0 with vx := [kv (.vmov ⟨8, 0⟩ 3 1 0)] } .vx :=
  ⟨by unfold waitsAt; decide +kernel, by decide +kernel, fun a h => by cases a <;> first | exact absurd rfl h | (intro k hk; revert k hk; decide),
    by decide +kernel, by decide +kernel, kv (.vmov ⟨8, 0⟩ 3 1 0), [], 2, rfl, rfl, rfl, rfl, rfl, by decide, by decide⟩
theorem witness_never_stuck : after (exec (.waitstuck 3 .cc) (sStk .collective 2 (.cwait n0 5 0 2) x0)) (· == sStk .collective 2 (.cwait n0 5 0 2) x0) = true ∧
    waitsAt (sStk .collective 2 (.cwait n0 5 0 2) x0) 3 ⟨.collective, 2, 40⟩ := by unfold waitsAt; decide +kernel
theorem witness_lost : lost (sStk .token 14 (.add ⟨2, 0⟩ 1 2 3) x0) 3 14 = true ∧ decode ((encode (.add ⟨2, 0⟩ 1 2 3)).getD 0) = some (.add ⟨2, 0⟩ 1 2 3) ∧
    (popFifos .cc 2).find? (lost (sStk .token 12 (.add ⟨2, 0⟩ 1 2 3) x0) 3) = some 12 ∧ stuckWith (sStk .token 12 (.add ⟨2, 0⟩ 1 2 3) x0) 1 12 = true := by decide +kernel
/-- A control core that has halted supplies nothing: VTOG before a full result FIFO, and CHPOP before an empty chimney. -/
def xHd (i : Instr) (vx : Bool) : Ctx :=
  { x0 with sys := [(0x042, 50)], parked := true, vxFifo := List.replicate 16 0, vx := if vx then [{ kv i with since := 10 }] else [], st := if vx then [] else [{ kv i with since := 10 }] }
theorem witness_head_resource : (xHd (.vtog n0 1 0 0 0 0) true).resource (kv (.vtog n0 1 0 0 0 0)) = false ∧ (qs (xHd (.vtog n0 1 0 0 0 0) true)).ccIdle 3 = true ∧
    after (exec (.waitstuck 3 .vx) (qs (xHd (.vtog n0 1 0 0 0 0) true))) (fun t => t.ctx.vx.map (·.stop.map fun p => (p.sub, p.addr)) == [some (4, 0)]) = true ∧
    after (exec (.waitstuck 3 .st) (qs (xHd (.chpop n0 2 0 0 0 1) false))) (fun t => t.ctx.st.map (·.stop.map fun p => (p.sub, p.addr)) == [some (7, 0x8000_0000_0026_3000)]) = true := by
  decide +kernel
/-- Two lessons attempted at once, both with the first free seat: the second fails while the first goes on. -/
def sTwoQ : State := { sQ lq with lessons := [lq, { lq with num := 5 }] }
theorem witness_contention : sTwoQ.attempts.map (fun a => (a.1.num, a.2.map fun p => (p.core, p.slot))) = [(4, [(0, 0)]), (5, [(0, 0)])] ∧
    after (exec (.reservationAttempt (some (1, 0))) sTwoQ) (fun t => t.lessons.map (fun l => (l.num, l.k, l.backoff.isSome)) == [(4, 0, false), (5, 1, true)]) = true ∧
    after (exec (.reservationAttempt (some (1, 3))) sTwoQ) (· == sTwoQ) = true ∧ after (exec (.reservationAttempt (some (0, 0))) (sQ lq)) (· == sQ lq) = true := by decide +kernel
/-- A running lesson that a commit has pre-empted goes on at its turn. -/
def lPre : Lesson := { lq with st := .preempted, seats := [⟨3, 0, 0, 0, 0, 0⟩] }
theorem witness_preempted_attempt : (sQ lPre).nextAttempt = some (lPre, lPre.seats) ∧
    after (exec (.reservationAttempt none) (sQ lPre)) (fun t => t.lessons.map (·.st) == [.running]) = true := by decide +kernel
/-- Two chunks on their way to another package, of two transfers: whatever becomes of the first there, it leaves, and the second does not come before it. -/
def sFar : State := { s0 x0 with fabricOut := [(5, ck), (5, { ck with cid := 1, iter := 1 })] }
theorem witness_landed : after (exec (.chunkArrival 0) sFar) (fun t => t.fabricOut == [(5, { ck with cid := 1, iter := 1 })]) = true ∧
    after (exec (.chunkArrival 1) sFar) (· == sFar) = true := by
  refine ⟨?_, by decide +kernel⟩
  show after (.next ((sFar.landed 0).getD sFar)) _ = true
  unfold State.landed
  generalize Config.farEnd 0 = n
  revert n
  decide +kernel
theorem witness_soft_word : after (exec (.memorySoftError (.scratch 3 0x107) false) (s0 x0)) (fun t => (t.core 3).softWords == [0x20] && (t.core 3).badWords == []) = true := by
  decide +kernel
theorem witness_down_repairs : (noRegistrar (s0 x0)).head 0 = { down := true } ∧ after (exec (.firmwareSwitch 0) (noRegistrar (s0 x0))) (· == noRegistrar (s0 x0)) = true ∧
    after (exec (.rowAutoSpare 0 5 9) (noRegistrar (s0 x0))) (· == noRegistrar (s0 x0)) = true := by decide +kernel
theorem witness_switch_waits : (sL x0).lessons = [l0] ∧ l0.st = .running ∧
    after (exec (.firmwareSwitch 0) { sL x0 with heads := [(0, { fwPending := [2] })] }) (fun t => (t.head 0).fwPending == [2]) = true := by decide +kernel
/-- The commands of a ring that concern another headland, which is in reset. -/
theorem witness_down_target (s : State) (o : Byte) : command ({ sRing s o 0 0 0 0 [] with heads := [(0, { tail := 1 }), (1, { down := true })] }) 0 0 o.toNat 0 0 0 0 0 :=
  witness_command_alone s o 0 0 0
/-- A word that pushes a token waits while a store of its core cannot be performed: its target has no slot for the lesson's context. -/
def xBl : Ctx := { x0 with path := [⟨.win 9 7 0x260010, [1]⟩] }
theorem witness_path_blocked : (s0 xBl).pathBlocked 3 = true ∧ leaves (.add ⟨0, 8⟩ 5 1 2) (s0 xBl) { xBl with wait := some ⟨.fence, 0, 100⟩ } = true ∧
    leaves (.add n0 5 1 2) (s0 xBl) ((xBl.setG 5 4).retired n0 6) = true := by decide +kernel
def xNeg (k : Cmd) : Ctx := { xRet k with v := [(1024, 0xBF80_0000)], m := [(2, 1)] }
/-- A negative element lies outside the domain of pair 0: DOMAIN under DMODE 0, counted under DMODE 1. -/
theorem witness_mean_domain : canRetire (qs (xNeg (kMe 0))) 3 .vx (kMe 0) [] ∧
    after (exec (.commandRetire 3 .vx) (qs (xNeg (kMe 0)))) (fun t => t.ctx.vx.map (·.stop.map fun p => (p.cause, p.detail)) == [some (9, 0)] && t.ctx.sr 0x032 == 0) = true ∧
    after (exec (.commandRetire 3 .vx) (qs (xNeg (kMe 64)))) (fun t => t.ctx.vx == [] && t.ctx.sr 0x032 == 1) = true := by unfold canRetire; decide +kernel

/-! ## What a stop, a wait or a switch keeps -/

/-- LD's head waits for room in a FIFO of which CTXSW pops: its push is made before the context leaves. -/
def xLeave : Ctx := { x1 with tokens := [(12, 15)], vx := [{ kst (.vmov ⟨0, 8⟩ 3 1 0) with phase := .applied }] }
theorem witness_switch_pushes : (sO xLeave).goes 3 ⟨2, 0⟩ = true ∧ ((leaving (sO xLeave) ⟨2, 0⟩).live 3).vx = [] ∧ (leaving (sO xLeave) ⟨0, 0⟩).ctx.vx = xLeave.vx ∧
    ((leaving (sO xLeave) ⟨2, 0⟩).core 3).active = true ∧ (((leaving (sO xLeave) ⟨2, 0⟩).core 3).store 1).ctx = xO := by decide +kernel
/-- A TLBINV that has marked an entry ends once that one is gone, whatever has come since. -/
def xIm (l : List TlbEntry) : Ctx := { xIl with tlb := l, invs := [entryKey 3 x0 te] }
theorem witness_tlbinv_marked : countedKeys 3 (k0 { xI 0x5123 with tlb := [{ te with count := 1 }] }) (invNamed 0 0x5123 7) = [entryKey 3 x0 te] ∧
    leaves (.tlbinvComplete 3) (quiet (s0 (xIm [{ te with id := 9, count := 1 }]))) ((xIm [{ te with id := 9, count := 1 }]).retired n0 6) = true ∧
    after (exec (.tlbinvComplete 3) (quiet (s0 (xIm [{ te with count := 1, dying := true }])))) (fun t => t.ctx.pc == 5 && t.ctx.wait.isSome) = true := by decide +kernel
/-- A head that waits for a token is stopped; the ST entry of a QMARK is not, though its word names FIFOs. -/
def xMk (i : Instr) : Ctx := { x0 with sys := [(0x042, 50)], parked := true, st := [{ kv i with since := 10 }] }
theorem witness_mark_never_stuck : stMark .st (kv (.qmark ⟨1, 0⟩ 3 1)) = true ∧
    after (exec (.waitstuck 3 .st) (qs (xMk (.qmark ⟨1, 0⟩ 3 1)))) (· == qs (xMk (.qmark ⟨1, 0⟩ 3 1))) = true ∧
    after (exec (.waitstuck 3 .st) (qs (xMk (.stt ⟨1, 0⟩ 1 2 3 0 0 1 0)))) (fun t => t.ctx.st.map (·.stop.map fun p => (p.cause, p.sub)) == [some (0x0D, 1)]) = true := by
  decide +kernel
/-- A row of a gated matrix engine waits for the wake. -/
theorem witness_gated_row : after (exec (.mxRowCommit 3) { qs xRun with cores := [(3, { k0 xRun with gated := [5] })] }) (fun t =>
    (t.core 3).waking == [5] && t.ctx.mx == xRun.mx && t.ctx.acc == []) = true := by decide +kernel
/-- A context that streams in: with its lesson of the lower priority it only stands in its store, with the higher one PREEMPT names that store. -/
def sIn (pri : Nat) : State := { s0 x0 with cores := [(3, { kO x0 with slot1 := some ⟨8, 4, pri, 0⟩, sh0 := ⟨.streamIn, xO⟩, sh1 := {} })], lessons := [lO], saves := [(saveKey 3 8 4, ⟨xO⟩)] }
theorem witness_stream_resident : (sIn 1).evicted xO = false ∧ (sIn 1).evicted x0 = false ∧ ((sIn 1).core 3).timerDue = false ∧
    after (exec (.contextStreamComplete 3 0 true) (sIn 1)) (fun t => (t.core 3).sh0 == ⟨.resident, xO⟩ && t.ctx == x0 && t.saves == []) = true ∧
    after (exec (.contextStreamComplete 3 0 true) (sIn 9)) (fun t => (t.core 3).sh0 == ⟨.resident, xO⟩ && t.ctx.pend.map (fun p => (p.cause, p.addr)) == [(0x12, 0)]) = true := by
  decide +kernel

/-! ## Vector commands by their entries -/

/-- Register 1 holds 1.0, a NaN, 2.0 and −3 as an integer, register 2 a few floats; mask 2 selects the first four elements of row 0. -/
def xEn (k : Cmd) : Ctx :=
  { x0 with vx := [k], v := [(1024, 0x3F80_0000), (1025, 0x7F80_0001), (1026, 0x4000_0000), (1027, 0xFFFF_FFFD), (2048, 0x3F80_0000), (2049, 0x4000_0000)], m := [(2, 0xF), (3, 3)] }
def sEn (k : Cmd) : State := { qs (xEn k) with cores := [(3, { k0 (xEn k) with scratch := [(0x400, 0x80), (0x401, 0x3F)] })] }
/-- What the entry of a command writes, if its hypotheses hold. -/
def entryOf (i : Instr) (gv : List W64) : Option Written := commandWrites (sEn { kst i with gv := gv }) 3 { kst i with gv := gv }
/-- The elements, a mask's bits and the bytes that the command leaves. -/
def leftBy (i : Instr) (gv : List W64) (p : State → Bool) : Bool := after (exec (.commandRetire 3 .vx) (sEn { kst i with gv := gv })) p
theorem witness_written_ready : canRetire (sEn (kst (.vredr n0 6 1 2 2 0 0 0))) 3 .vx (kst (.vredr n0 6 1 2 2 0 0 0)) [] ∧ (sEn (kst (.vmask n0 4 2 3 0 0 3))).ctx.badV = [] ∧
    padSound (sEn (kst (.vmask n0 4 2 3 0 0 3))) 3 := by unfold canRetire padSound; decide +kernel
theorem witness_vld : (entryOf (.vld n0 6 1 0 3 1) [0x400, 0]).map (fun e => (e.v 6 0 0, e.v 6 0 1, e.v 6 0 2)) = some (some 0x3F80_0000, some 0, none) ∧
    leftBy (.vld n0 6 1 0 3 1) [0x400, 0] (fun t => t.ctx.ve 6 0 0 == 0x3F80_0000) = true := by decide +kernel
/-- Rows that lie upon each other at pitch 0, were they let: the pitch of 64 keeps the later row's bytes; here one row, BF16 of 1.0 and 2.0. -/
theorem witness_vst : (entryOf (.vst n0 2 1 0 3 0 1) [0x800, 0]).map (fun e => ([0x7FF, 0x800, 0x801, 0x802, 0x803, 0x804].map e.mem, e.fl)) =
      some ([none, some 0x80, some 0x3F, some 0, some 0x40, none], 0) ∧
    leftBy (.vst n0 2 1 0 3 0 1) [0x800, 0] (fun t => t.bytes (.win 3 7 0x800) 4 == [0x80, 0x3F, 0, 0x40]) = true := by decide +kernel
theorem witness_reductions : (entryOf (.vredr n0 6 2 3 0 0 0 0) []).map (fun e => (e.v 6 0 0, e.v 6 0 1)) = some (some 0x4040_0000, none) ∧
    (entryOf (.vredc n0 6 1 2 1 0 1 1) []).map (fun e => (e.v 6 9 3, e.v 6 0 4)) = some (some 0xFFFF_FFFD, some 0x7FFF_FFFF) ∧
    leftBy (.vredc n0 6 1 2 1 0 1 1) [] (fun t => t.ctx.ve 6 0 3 == 0xFFFF_FFFD && t.ctx.ve 6 0 4 == 0x7FFF_FFFF) = true := by decide +kernel
theorem witness_scans : (entryOf (.vscan n0 6 2 3 0 0 0 0 0) []).map (fun e => [e.v 6 0 0, e.v 6 0 1, e.v 6 0 2, e.v 6 1 0]) =
      some [some 0x3F80_0000, some 0x4040_0000, some 0x4040_0000, some 0x8000_0000] ∧
    (entryOf (.vscan n0 6 1 2 2 0 1 0 2) []).map (fun e => [e.v 6 0 0, e.v 6 0 2, e.v 6 0 4]) = some [some 0, some 0x7F80_0001, some 0xFFFF_FFFD] ∧
    (prefixAt (lineStep 0 0 0) 0 (fun _ => 0xFFFF_FFFF) 0).1 = 0x7FC0_0000 := by decide +kernel
theorem witness_masks : (entryOf (.vmask n0 4 2 3 0 0 3) []).map (fun e => [e.m 4 0 1, e.m 4 0 2, e.m 5 0 2]) = some [some false, some true, none] ∧
    leftBy (.vmask n0 4 2 3 0 0 3) [] (fun t => t.ctx.mask 4 == 0xC) = true ∧
    (entryOf (.vmask n0 6 3 0 0 0 6) []).map (fun e => [e.v 6 0 1, e.v 6 0 2]) = some [some 0x3F80_0000, some 0] ∧
    (entryOf (.vpopc n0 6 2 0) []).map (fun e => [e.v 6 0 9, e.v 6 1 0]) = some [some 4, some 0] ∧
    (entryOf (.vtog n0 1 1 0 3 0) []).map (·.fifo) = some [0xFFFF_FFFF_FFFF_FFFD] ∧ (entryOf (.vtog n0 2 0 1 0 0) []).map (·.fifo) = some [0xF] := by decide +kernel
/-- Register 1 as a pair: entry 1 is less than entry 0 of a power pair, so VMTLD refuses element 1; register 5, all zero, is a legal pair. -/
def xPairs (k : Cmd) : Ctx := { x0 with vx := [k], v := [(1024, 0x3F80_0000)] }
def kTl (a : BitVec 5) (sh : W64) : Cmd := { kst (.vmtld n0 a 3) with mshape := sh }
theorem witness_pairs : (List.range 515).find? (tableRefused (xPairs (kTl 1 0)) 1) = some 1 ∧ canRetire (qs (xPairs (kTl 1 0))) 3 .vx (kTl 1 0) [] ∧
    after (exec (.commandRetire 3 .vx) (qs (xPairs (kTl 1 0)))) (fun t => t.ctx.vx.map (·.stop.map fun p => (p.cause, p.detail)) == [some (9, 1)]) = true ∧
    (commandWrites (qs (xPairs (kTl 1 64))) 3 (kTl 1 64)).map (fun e => (e.pair.isSome, e.excluded)) = some (false, some 1) ∧
    (commandWrites (qs (xPairs (kTl 5 0))) 3 (kTl 5 0)).map (fun e => (e.pair.map (·.1), e.excluded)) = some (some 3, some 0) := by unfold canRetire; decide +kernel
/-- Rows A to D of the table of R268, η = 2^−4, λ = 2^−2, β1 = 0.5, β2 = 0.75, ε = 2^−8, σ = c1 = c2 = 1; in register 2 the weights 1.0 and 2.0 only decay. -/
def hyper : List W64 := [0x3E80_0000_3D80_0000, 0x3F40_0000_3F00_0000, 0x3F80_0000_3B80_0000, 0x3F80_0000_3F80_0000]
theorem witness_update : updated hyper 0 0x3F80_0000 0x4000_0000 0 0 = some (0x3F6C_0FF0, 0x3F80_0000, 0x3F80_0000, 16) ∧
    updated hyper 0 0x3F80_0000 0 0 0 = some (0x3F7C_0000, 0, 0, 0) ∧
    updated hyper 0 0x3F80_0000 0 0 0x8000_0000 = some (0x3F7C_0000, 0, 0, 0) ∧ updated hyper 0 0x3F80_0000 0x7F80_0000 0 0 = none ∧
    (entryOf (.vupd n0 2 5 6 3 0 0 0) hyper).map (fun e => (e.v 2 0 0, e.v 2 0 1, e.v 2 0 2, e.skipped)) = some (some 0x3F7C_0000, some 0x3FFC_0000, none, some 0) ∧
    leftBy (.vupd n0 2 5 6 3 0 0 0) hyper (fun t => t.ctx.ve 2 0 1 == 0x3FFC_0000 && t.ctx.sr 0x031 == 0) = true := by decide +kernel
/-- The box [0, 16) of the example of R282: x = 5 and y = 3 give 27; the Hilbert curve of one bit visits (0, 0), (0, 1), (1, 1), (1, 0). -/
theorem witness_keys : curveNumber 4 false [5, 3] = 27 ∧ [[0, 0], [0, 1], [1, 1], [1, 0]].map (curveNumber 1 true) = [0, 1, 2, 3] ∧
    quantised (.fin 5) (.zero false) (.fin 16) 4 = 5 ∧ quantised (.inf false) (.zero false) (.fin 16) 4 = 15 ∧
    (entryOf (.vkey n0 10 1 2 0 0 0 3 0) [0x4180_0000_0000_0000, 0x4180_0000_0000_0000]).map (fun e => [e.v 10 0 0, e.v 11 0 0, e.v 10 0 2, e.v 12 0 0]) =
      some [some 3, some 0, some 4, none] := by decide +kernel
theorem witness_chpush : (entryOf (.chpush n0 2 0 0 0 1) []).map (fun e => e.rows.map (·.take 3)) = some [[0x3F80, 0x4000, 0], [0, 0, 0]] ∧
    leftBy (.chpush n0 2 0 0 0 1) [] (fun t => t.ctx.chimney.map (·.take 2) == [[0x3F80, 0x4000], [0, 0]]) = true := by decide +kernel

/-! ## Ring slots that are answered 1 -/

/-- A ring of headland 0 with a slot in its place 0: TAIL, the byte that is to be zero, and OP. -/
def sSlot (s : State) (tail low o : Byte) : State :=
  { s with
    tier2 := [(Config.ringBase 0, tail), (Config.ringBase 0 + 0x40, low), (Config.ringBase 0 + 0x47, o)]
    heads := [(0, { tail := 1 })] }
theorem slot_bytes (s : State) (tail low o : Byte) (i : Nat) : (sSlot s tail low o).byte (.tier2 (Config.ringBase 0 + i)) =
    if i = 0 then tail else if i = 0x40 then low else if i = 0x47 then o else 0 := by
  have h0 : Config.ringBase 0 + i = Config.ringBase 0 ↔ i = 0 := by omega
  simp only [State.byte, sSlot, SMap.get, Nat.add_left_cancel_iff, h0]
theorem witness_reserved_field (s : State) (o : Byte) : commandLow (sSlot s 1 5 o) 0 0 o.toNat 0 0 0 5 0 0 ∧ (.scrub, 0x04) ∈ ringTable 0 := by
  have h8 := o.isLt
  have hh : (sSlot s 1#8 5#8 o).head 0 = { tail := 1 } := rfl
  refine ⟨?_, by simp [ringTable]⟩
  simp [commandLow, hh, t2Nat, ringSlot, Nat.add_assoc, slot_bytes]
  omega
/-- OP 0x3F is no command's. -/
theorem witness_unknown_op (s : State) : ((sSlot s 1 0 0x3F).head 0).down = false ∧ t2Nat (sSlot s 1 0 0x3F) (Config.ringBase 0) 8 = 1 ∧
    t2Nat (sSlot s 1 0 0x3F) (Config.ringBase 0 + 8) 8 = 0 ∧ t2Nat (sSlot s 1 0 0x3F) (ringSlot 0 0) 8 / 2 ^ 56 = 0x3F ∧ 0x3F ∉ (ringTable 0).map (·.2) := by
  have hh : (sSlot s 1 0 0x3F).head 0 = { tail := 1 } := rfl
  have hz : (sSlot s 1#8 0#8 63#8).byte (.tier2 (Config.ringBase 0)) = 1 := slot_bytes s 1 0 63 0
  refine ⟨by rw [hh], ?_, ?_, ?_, by decide⟩ <;> simp [t2Nat, ringSlot, Nat.add_assoc, slot_bytes, hz]
/-- LIFE 2 of OLIFE, ARGB 2 of SPARE, a page 256 and the like. -/
theorem witness_bad_arguments : badArgument false 0x03 0 2 0 ∧ badArgument false 0x05 0 0 2 ∧ badArgument false 0x12 0 256 0 ∧ badArgument false 0x13 0 0xFFFF 0 ∧
    badArgument true 0x14 0 8 1 ∧ ¬ badArgument false 0x14 0 8 1 ∧ badArgument false 0x15 0 4 0 ∧ badArgument false 0x08 8 0 0 ∧ ¬ badArgument false 0x12 0 0xFFFF 0 := by
  simp [badArgument, coreId]
/-- A command with ARGA 257 on its slot: page 257 of BIND. -/
theorem witness_bad_bind (s : State) : command (sRing s 0x12 0 1 0 0 []) 0 0 0x12 0 0 0 0x0101 0 := witness_command_alone s 0x12 0 1 0
/-- An image of KIND 01 where `img` has KIND 10; the stack has room for its 16 bytes. -/
def imgT1 : Mem := [(imgAt + 6, 0x30), (imgAt + 7, 0x41), (imgAt + 0x10, 4), (imgAt + 0x28, 1)]
theorem witness_ocreate_extent (s : State) : command (sRing s 1 5 0 a2img 0 imgT1) 0 0 1 0 5 0 imgAt 0 ∧
    imageOk ((sRing s 1 5 0 a2img 0 imgT1).bytes (.tier2 imgAt) 128) = true ∧ (imageEntry ((sRing s 1 5 0 a2img 0 imgT1).bytes (.tier2 imgAt) 128)).kind = 1 ∧
    (imageEntry ((sRing s 1 5 0 a2img 0 imgT1).bytes (.tier2 imgAt) 128)).extent = 16 := by
  have hb : (sRing s 1 5 0 a2img 0 imgT1).bytes (.tier2 imgAt) 128 =
      (List.range 128).map fun i => if i = 6 then (0x30 : Byte) else if i = 7 then 0x41 else if i = 0x10 then 4 else if i = 0x28 then 1 else 0 := by
    apply List.map_congr_left
    intro i hi
    have hi := List.mem_range.mp hi
    have h1 : ∀ k, k < 0x1000 → imgAt + i ≠ Config.ringBase 0 + k := by intro k hk; unfold imgAt; split <;> omega
    simp [State.byte, sRing, Place.add, SMap.get, h1, imgT1]
  have hc : ∀ e ∈ imgT1, e.1 < Config.ringBase 0 ∨ Config.ringBase 0 + 0x1000 ≤ e.1 := by
    simp only [imgT1, imgAt, List.mem_cons, List.not_mem_nil, or_false, forall_eq_or_imp, forall_eq]
    split <;> omega
  refine ⟨?_, ?_, ?_, ?_⟩
  · have h := witness_command s 1 5 0 a2img 0 imgT1 hc
    have e : 257 * (0 : Byte).toNat + 65536 * a2img.toNat = imgAt := by unfold a2img imgAt; split <;> rfl
    rw [e] at h
    exact h
  all_goals rw [hb]; decide +kernel
theorem stack_field (a b : BitVec 8) (c : BitVec 12) : BitVec.extractLsb' 20 8 (a ++ b ++ c) = a := by
  ext i hi
  simp only [BitVec.getElem_extractLsb', BitVec.getLsbD_append]
  rw [if_neg (by omega), if_neg (by omega), show 20 + i - 12 - 8 = i by omega]
  exact (BitVec.getLsbD_eq_getElem hi)
theorem stack_field_gib : (Config.identCfg.extractLsb' 20 8).toNat = Config.stackGiB % 2 ^ 8 := by
  have h : Config.identCfg = BitVec.ofNat 8 Config.stackGiB ++ Config.step ++ BitVec.ofNat 12 Config.nodeNumber := by delta Config.identCfg; exact rfl
  have := congrArg BitVec.toNat (stack_field (BitVec.ofNat 8 Config.stackGiB) Config.step (BitVec.ofNat 12 Config.nodeNumber))
  exact (congrArg (fun v => (BitVec.extractLsb' 20 8 v).toNat) h).trans (this.trans (BitVec.toNat_ofNat _ _))
theorem witness_stack_room : ({} : State).allocated 0 = 0 ∧ 16 ≤ ({} : State).usable 0 := by
  have hs : (({} : State).head 0).sparedRows = [] := rfl
  have hb : (({} : State).head 0).sparedBanks = [] := rfl
  have hg : Config.stackGiB = 0x60 ∨ Config.stackGiB = 0x30 := by unfold Config.stackGiB; split <;> simp
  have hk : 1 ≤ Config.stackGiB % 2 ^ 8 := by rcases hg with hg | hg <;> simp [hg]
  refine ⟨rfl, ?_⟩
  rw [State.usable, hs, hb, List.length_nil, Nat.mul_zero, Nat.mul_zero, Nat.sub_zero, Nat.sub_zero, stack_field_gib]
  exact Nat.le_trans (by norm_num) (Nat.mul_le_mul_right (2 ^ 30) hk)
/-- A NaN in the accumulator is a NaN input of the step: INVALID, as one in the operand or the plane (R209). -/
theorem test_nan_accumulator : (stepFa 0 FA40.nanBits (.fin 1) (.fin 1)).2.getLsbD 0 = true ∧ (stepFa 1 FA40.nanBits (.fin 1) (.fin 1)).2.getLsbD 0 = true ∧
    (stepFa 0 0 .nan (.fin 1)).2.getLsbD 0 = true ∧ (stepFa 0 0 (.fin 1) (.fin 1)).2 = 0 := by decide +kernel

/-! ## Further forms: refusals of CTXSW and COMM, SCOPE over paged memory, nests and accumulating transfers, REPARTs of several members -/

/-- A supervisor whose core's stores stand in two states. -/
def sSw (a b : ShadowState) : State := { sO x1 with cores := [(3, { kO x1 with sh0 := ⟨a, xO⟩, sh1 := ⟨b, xO⟩ })] }
theorem witness_ctxsw_refused : mayTrap (sSw .streamOut .resident) n0 = true ∧
    leaves (.ctxsw n0 1) (sSw .streamOut .resident) { x1 with wait := some ⟨.shadow, 1, 100⟩ } = true ∧
    [(.resident, .resident), (.streamIn, .resident), (.empty, .empty), (.empty, .streamIn)].all (fun p =>
      after (exec (.ctxsw n0 1) (sSw p.1 p.2)) fun t => t.ctx.sr 0x002 == 3 && t.ctx.sr 0x004 == 1) = true := by decide +kernel
/-- A bitmap of core 3 in the page of `te`. -/
def xSp : Ctx := { xSc with tlb := [te], g := [(1, 0x5000)] }
def sSp : State := { s0 xSp with tier2 := SMap.set 0 tables 0x9000 8 }
theorem witness_scope_paged : bitmapAt sSp (xSp.rg 1) 0x5000 (fun i => .tier2 (0x9000 + i)) ∧ sSp.goesClear 3 n0 = true ∧ sSp.inEntry31 7 3 = true ∧
    (xSp.sr 0x048).toNat + 256 * 2 < 2 ^ 48 ∧ sSp.vaPlace 7 xSp.root (0x4000 + 256 * 2) = some (.tier2 0x204200) ∧
    after (exec (.scope n0 2 1) sSp) (fun t => t.ctx == xSp.retired n0 6 && t.byte (.tier2 0x204200) == 8 && t.byte (.tier2 0x204201) == 0) = true := by
  refine ⟨Or.inr ⟨fun _ => te, by decide, by decide +kernel, fun i => ?_⟩, by decide +kernel⟩
  show Place.tier2 (0x9000 + i) = Place.tier2 (0x9000 + (0x5000 + i - 0x5000))
  rw [Nat.add_sub_cancel_left]
theorem witness_scope_own : bitmapAt sSc (xSc.rg 1) 0x100 (fun i => .win 3 7 (0x100 + i)) ∧ sSc.goesClear 3 n0 = true :=
  ⟨Or.inl ⟨by decide +kernel, by decide +kernel, fun _ => rfl⟩, by decide +kernel⟩
/-- A SCOPEBASE that R46 forbids: SCOPE, and a wait under the entry, fault ACCESS with the address. -/
def xSb : Ctx := { xSc with sys := [(0x048, 0x0001_0000_0000_4000), (0x049, 0x1001)] }
theorem test_scopebase_split : after (exec (.scope n0 2 1) { sSc with cores := [(3, { k0 xSb with scratch := [(0x100, 8)] })] })
      (fun t => t.ctx.sr 0x002 == 3 && t.ctx.sr 0x004 == 0x0001_0000_0000_4200) = true ∧
    after (exec (.waitf n0 2 1 0) { sSc with cores := [(3, k0 xSb)] }) (fun t => t.ctx.sr 0x002 == 3 && t.ctx.sr 0x004 == 0x0001_0000_0000_4200) = true := by decide +kernel
/-- A TKT.WAIT that has read its entry keeps it over a wait of another kind. -/
theorem test_entry_kept_over_kinds : after (exec (.tktWait n0 2 1 2) (sTk { xTk 6 with waitEntry := some (some 5), wait := some ⟨.gate, 24, 90⟩ }))
    (fun t => t.ctx.waitEntry == some (some 5) && t.ctx.wait == some ⟨.ticket, 2 ^ 63 + 0x100, 100⟩) = true := by decide +kernel

/-! COMM -/

theorem members_at (m : Mem) (x : Ctx) (n c : Nat) (hn : bits (winNat (sCm m x) 3 x.id 0x200 4) 27 16 = n) (hc : bits (winNat (sCm m x) 3 x.id 0x200 4) 10 0 = c)
    (ho : n ≠ Config.node ∨ n = 0xFFF) : membersAt (sCm m x) 0x200 1 = [(n, c)] := by
  simp only [membersAt, show (sCm m x).cur = 3 from rfl, show (sCm m x).ctx.id = x.id from rfl, List.range_one, List.map_cons, List.map_nil, Nat.mul_zero, Nat.add_zero,
    hn, hc]
  rcases ho with h | h
  · rw [if_neg h]
  · subst h; split <;> rfl
/-- A descriptor at 0x100 whose one member is core c of node n, RSLOT 2, CHUNK 0. -/
def comm1of (n c : Byte) (hi : Byte) : Mem := padSet [(0x100, 1), (0x102, 0x20), (0x109, 2), (0x10F, 0x80), (0x200, c), (0x202, n), (0x203, hi)]
theorem witness_comm_codes :
    commRefusal (sCm (padSet [(0x100, 1), (0x109, 2), (0x10F, 0x80), (0x200, 3), (0x202, 0xFF), (0x203, 0x0F)]) (xTk 0)) 0 2 0x100 0x200 [(0xFFF, 3)] = 1 ∧
    membersAt (sCm (comm1of 0xFF 4 0x0F) (xTk 0)) 0x200 1 = [(0xFFF, 4)] ∧ commRefusal (sCm (comm1of 0xFF 4 0x0F) (xTk 0)) 0 2 0x100 0x200 [(0xFFF, 4)] = 2 ∧
    commRefusal { sCm comm1 (xTk 0) with heads := [(0, { slotUsed := 2 ^ 21 })] } 0 2 0x100 0x200 [(0xFFF, 3)] = 3 ∧
    commRefusal { sCm comm1 (xTk 0) with recs := [rc] } 0 2 0x100 0x200 [(0xFFF, 3)] = 4 :=
  ⟨by decide +kernel, members_at _ _ _ _ (by decide +kernel) (by decide +kernel) (Or.inr rfl), by decide +kernel, by decide +kernel, by decide +kernel⟩
/-- A definition in place of one that holds a slot of 1 KiB. -/
def sRe : State := { sCm comm1 (xTk 0) with contexts := [(7, { comms := [(2, cm)] })], heads := [(0, { slotUsed := 1024 })] }
theorem witness_redefined : commRefusal sRe 0 2 0x100 0x200 [(0xFFF, 3)] = 0 ∧ slotsHeld sRe 2 0 = 1024 ∧ slotsThen sRe 2 (padWord sRe 0x100 0) [(0xFFF, 3)] 0 = 8192 ∧
    sRe.goesClear 3 n0 = true := by decide +kernel
/-- A member of another package, whatever number this one has. -/
def farNode : Byte := if Config.node = 5 then 6 else 5
theorem far_node (P : Byte → Prop) (h5 : P 5) (h6 : P 6) : P farNode := by unfold farNode; split <;> assumption
theorem far_not_own : farNode.toNat ≠ Config.node := by
  unfold farNode
  split
  · next h => rw [h]; decide
  · next h => exact fun e => h e.symm
def cmFar : Comm := { rslot := 2, chunk := 0, pri := 0, members := [(farNode.toNat, 3)] }
/-- With as many communicators on its link as that has channels, code 6. -/
def sFull (x : Ctx) : State :=
  { sCm (comm1of farNode 3 0) x with contexts := [(8, { comms := List.replicate (Config.linkChannels (Config.routeLink farNode.toNat).val) (0, cmFar) })] }
theorem witness_comm_far (x : Ctx) (hx : x.id = 7) : membersAt (sCm (comm1of farNode 3 0) x) 0x200 1 = [(farNode.toNat, 3)] := by
  have key : ∀ b : Byte, (b = 5 ∨ b = 6) → winNat (sCm (comm1of b 3 0) x) 3 x.id 0x200 4 = winNat (sCm (comm1of b 3 0) (xTk 0)) 3 7 0x200 4 := by
    intro b _; rw [hx]; rfl
  refine members_at _ _ _ _ ?_ ?_ (Or.inl far_not_own)
  · exact far_node (fun b => bits (winNat (sCm (comm1of b 3 0) x) 3 x.id 0x200 4) 27 16 = b.toNat) (by rw [key 5 (by simp)]; decide +kernel) (by rw [key 6 (by simp)]; decide +kernel)
  · exact far_node (fun b => bits (winNat (sCm (comm1of b 3 0) x) 3 x.id 0x200 4) 10 0 = 3) (by rw [key 5 (by simp)]; decide +kernel) (by rw [key 6 (by simp)]; decide +kernel)
def sF : State := sFull (xTk 0)
theorem witness_comm_no_channel : commRefusal sF 0 2 0x100 0x200 [(farNode.toNat, 3)] = 6 := by
  have hl : descriptorLegal sF 0x100 0x200 = true :=
    far_node (fun b => descriptorLegal { sCm (comm1of b 3 0) (xTk 0) with contexts := sF.contexts } 0x100 0x200 = true) (by decide +kernel) (by decide +kernel)
  have hf : farNode.toNat ≠ 0xFFF := far_node (fun b => b.toNat ≠ 0xFFF) (by decide) (by decide)
  have hn : ∀ h, slotNeed (padWord sF 0x100 0) [(farNode.toNat, 3)] h = 0 := by
    intro h; simp [slotNeed, hf]
  have hc : sF.channelsOk 7 2 (commFrom (padWord sF 0x100 0) [(farNode.toNat, 3)]) = false := by
    simp [State.channelsOk, Comm.links, commFrom, hf, sF, sFull, cmFar, List.filter_replicate]
  simp [commRefusal, hl, hf, hn, show sF.ctx.id = 7 from rfl, hc, show sF.recs = [] from rfl]
/-- A COMM that waits for the round trip. -/
def xCc : Ctx := code { xTk 0 with wait := some ⟨.collective, 2, 99⟩ } [.comm n0 0 1 5 2]
theorem witness_comm_waits : (quiet (sCm comm1 xCc)).mayGo 3 = true ∧ (quiet (sCm comm1 xCc)).wordAt 3 = some (.comm n0 0 1 5 2) ∧
    (quiet (sCm comm1 xCc)).goesClear 3 n0 = true ∧ commRefusal (quiet (sCm comm1 xCc)) 0 2 0x100 0x200 [(0xFFF, 3)] = 0 := by decide +kernel

/-! Nests, accumulating transfers, counters, parking -/

/-- A nest of two levels, 2 iterations by 1: 4 bytes from 0x800 on at a step of 8, to 0x900 on at a step of −4; iteration i goes to the member (i − 1) mod 2. -/
def rawNest : BitVec 1024 := BitVec.ofNat 1024 ((2 + 2 ^ 12) + (4 + 0xFFFF_FFFF * 2 ^ 32) * 2 ^ 64 + 0x800 * 2 ^ 128 + 0x900 * 2 ^ 192 +
  (2 + 2 ^ 32) * 2 ^ 256 + (8 + 0xFFFF_FFFC * 2 ^ 32) * 2 ^ 320 + 1 * 2 ^ 384)
def rNest : Rec := { rc with raw := rawNest }
def cm2 : Comm := { cm with rslot := 2, members := [(0xFFF, 3), (0xFFF, 5)] }
def sNest : State :=
  { s0 x0 with
    cores := [(3, { k0 x0 with scratch := padSet [(0x800, 0xAB), (0x808, 0xCD)] }), (5, k0 x0)], contexts := [(7, { comms := [(2, cm2)] })], recs := [rNest] }
theorem witness_nest : fresh sNest rNest ∧ noneAbroad sNest ∧ levelsOf rNest = 2 ∧ iterationsFrom rNest 0 = 2 ∧
    (List.range 2).map (fun i => (peerAt rNest 0 2 i, srcAt rNest i, dstAt rNest i)) = [(1, 0x800, 0x900), (0, 0x808, 0x8FC)] ∧
    (List.range 4).all (fun j => reachable sNest 3 7 (0x800 + j) && reachable sNest 3 7 (0x808 + j) && sNest.leased 7 5 (0x900 + j) && sNest.leased 7 3 (0x8FC + j)) = true ∧
    after (exec (.collRecordStart 6) sNest) (fun t => t.chunks.map (fun k => (k.dst, k.addr, k.bytes)) == [(5, 0x900, [0xAB, 0, 0, 0]), (3, 0x8FC, [0xCD, 0, 0, 0])] &&
      t.recs.map (fun r => (r.started, r.walked)) == [(true, true)]) = true := by unfold fresh noneAbroad; decide +kernel
/-- A chunk that adds −1 to the I32 5 at 0x900, and the largest of −1 and 5. -/
def ckAdd (op : Nat) : Chunk := { ck with op := op, ty := 0, bytes := [0xFF, 0xFF, 0xFF, 0xFF] }
def sAcc (k : Chunk) : State := { sCl (padSet [(0x900, 5)]) xCl [] with chunks := [k] }
theorem witness_accumulates : firstChunk (sAcc (ckAdd 1)) (ckAdd 1) [] ∧ (List.range 4).all (fun i => reachable (sAcc (ckAdd 1)) 3 7 (0x900 + i)) = true ∧
    reduced 0x0C 0 0 5 0xFFFF_FFFF = 4 ∧ reduced 0x0C 2 0 5 0xFFFF_FFFF = 5 ∧ reduced 0x0F 2 0 5 0xFFFF_FFFF = 0xFFFF_FFFF ∧
    after (exec (.chunkArrival 0) (sAcc (ckAdd 1))) (fun t => t.chunks == [] && t.bytes (.win 3 7 0x900) 4 == [4, 0, 0, 0]) = true ∧
    after (exec (.chunkArrival 0) (sAcc (ckAdd 3))) (fun t => t.bytes (.win 3 7 0x900) 4 == [5, 0, 0, 0]) = true := by
  refine ⟨⟨rfl, by simp, rfl, by simp [sAcc, sCl, sC]⟩, by decide +kernel⟩
/-- The state (1, 2.0, 1.0) merged by pair 8 into an empty one at 0x900. -/
def ckMean : Chunk := { ck with op := 4, len := 12, mshape := 8, bytes := [1, 0, 0, 0, 0, 0, 0, 0x40, 0, 0, 0x80, 0x3F] }
def sMean : State := { sCl (padSet [(0x904, 5)]) xCl [] with chunks := [ckMean], recs := [{ rc with raw := rawCl, started := true }] }
theorem witness_mean_chunk : firstChunk sMean ckMean [] ∧ (sMean.recs.find? (·.rid = 6)).isSome = true ∧ (sMean.seatCtx 3 7 1).isSome = true ∧
    (List.range 12).all (fun i => reachable sMean 3 7 (0x900 + i)) = true ∧
    after (exec (.chunkArrival 0) sMean) (fun t => t.chunks == [] && t.bytes (.win 3 7 0x900) 12 == ckMean.bytes) = true := by
  refine ⟨⟨rfl, by simp, rfl, ?_⟩, by decide +kernel⟩
  intro r hr _
  simp only [sMean, List.mem_singleton] at hr
  subst hr; rfl
/-- A counter of core 3 with 16 words, armed for 17: one word more raises flag 4. -/
def cmCnt (z : Counter) : Comm := { cm with counters := [(13, z)] }
def sCnt (z : Counter) (k : Chunk) : State := { sAcc k with contexts := [(7, { comms := [(2, cmCnt z)] })] }
def ckCnt : Chunk := { ck with cnt := true, tidx := 1 }
theorem witness_counted : firstChunk (sCnt ⟨16, some (17, 4)⟩ ckCnt) ckCnt [] ∧ ((sCnt ⟨16, some (17, 4)⟩ ckCnt).core 3).active = true ∧
    after (exec (.chunkArrival 0) (sCnt ⟨16, some (17, 4)⟩ ckCnt)) (fun t => (t.live 3).flag 4 == 1 && (t.comm 7 2).map (fun m => m.counters.get {} 13) == some ⟨0, none⟩) = true ∧
    after (exec (.chunkArrival 0) (sCnt ⟨16, none⟩ ckCnt)) (fun t => (t.live 3).flag 4 == 0 && (t.comm 7 2).map (fun m => m.counters.get {} 13) == some ⟨17, none⟩) = true := by
  refine ⟨⟨rfl, by simp, rfl, by simp [sCnt, sAcc, sCl, sC]⟩, by decide +kernel⟩
/-- The table of R276: 16 words have come before the record that arms counter 1 for 16 and flag 4. -/
def rArm : Rec := { rc with raw := rawCl ||| (BitVec.ofNat 1024 (16 + 4 * 2 ^ 32 + 2 ^ 38) <<< (13 * 64)) }
def sArm : State := { sCl coll1 xCl [rArm] with contexts := [(7, { comms := [(2, cmCnt ⟨16, none⟩)] })] }
theorem witness_arms : fresh sArm rArm ∧ (List.range 4).map (fun k => bits (recW rArm.raw (12 + k)) 38 38) = [0, 1, 0, 0] ∧ (sArm.core 3).active = true ∧
    after (exec (.collRecordStart 6) sArm) (fun t => (t.live 3).flag 4 == 1 && (t.comm 7 2).map (fun m => m.counters.get {} 13) == some ⟨0, none⟩) = true := by
  unfold fresh; decide +kernel
/-- A chunk for a virtual page that no table maps. -/
def ckVirt : Chunk := { ck with virt := true, addr := 0x5010 }
def sPark (l : List Chunk) : State := { sAcc ckVirt with recs := [{ rc with raw := rawCl, started := true }], heads := [(0, { park := l })], lessons := [l0] }
theorem witness_parks : firstChunk (sPark []) ckVirt [] ∧ (match (sPark []).engPage 7 ((sPark []).recRoot rc) 0x5010 true with | .absent => true | _ => false) = true ∧ (sPark []).lesson 7 1 = some l0 ∧
    after (exec (.chunkArrival 0) (sPark [])) (fun t => t.chunks == [] && (t.head 0).park == [ckVirt] && t.ctx.pend.map (fun p => (p.cause, p.sub, p.addr)) == [(0x0E, 2, 0x5000)])
      = true ∧
    64 ≤ ((sPark (List.replicate 64 { ckVirt with cid := 9, addr := 0 })).head 0).park.length ∧
    after (exec (.chunkArrival 0) (sPark (List.replicate 64 { ckVirt with cid := 9, addr := 0 }))) (· == sPark (List.replicate 64 { ckVirt with cid := 9, addr := 0 })) = true := by
  refine ⟨⟨rfl, by simp, rfl, ?_⟩, by decide +kernel⟩
  intro r hr _
  simp only [sPark, List.mem_singleton] at hr
  subst hr; rfl

/-! REPARTs of several members -/

/-- REPARTs of cores 3 and 5 as that of `rp`, with room for one particle and one row of the breakwater at the second. -/
def rpOf (c : Nat) (rid cap bw : Nat) : Rec :=
  { rp with rid := rid, core := c, raw := BitVec.ofNat 1024 ((2 ^ 6 + 2 ^ 12) + (8 * 2 ^ 16 + 4 * 2 ^ 32) * 2 ^ 64 + 2 * 2 ^ 128 + (cap + bw * 2 ^ 32) * 2 ^ 192 + 0x5000 * 2 ^ 256) }
def sRp (l : List Rec) : State := { sC xCl l with cores := [(3, k0 xCl), (5, k0 xCl)], contexts := [(7, { comms := [(2, cm2)] })] }
theorem witness_operation : operation (sRp [rpOf 3 6 2 0, rpOf 5 7 1 1]) cm2 7 2 [rpOf 3 6 2 0, rpOf 5 7 1 1] ∧ agrees (rpOf 3 6 2 0) (rpOf 5 7 1 1) ∧
    (rpOf 5 7 1 1).saved.length = 3 ∧ repCap (rpOf 3 6 2 0).raw * 8 ≤ 16 := by
  refine ⟨⟨by decide, rfl, by decide, by decide, by decide, ?_, ?_⟩, by unfold agrees; decide +kernel⟩
  · intro r hr
    simp only [List.mem_cons, List.not_mem_nil, or_false] at hr
    rcases hr with rfl | rfl <;> exact ⟨by simp [sRp, sC], rfl, rfl, rfl, rfl, rfl, rfl, rfl⟩
  · intro r hr _ _ _ _ _ _
    simpa [sRp, sC] using hr
/-- Records that disagree, in RSZ: nothing moves, and CAUSE is 0x07. -/
def rpOdd : Rec := { rpOf 5 7 1 1 with raw := BitVec.ofNat 1024 ((2 ^ 6 + 2 ^ 12) + (12 * 2 ^ 16 + 4 * 2 ^ 32) * 2 ^ 64) }
theorem witness_mismatch : ¬ agrees (rpOf 3 6 2 0) rpOdd ∧ operation (sRp [rpOf 3 6 2 0, rpOdd]) cm2 7 2 [rpOf 3 6 2 0, rpOdd] ∧
    (repCompute 0 [rpOf 3 6 2 0, rpOdd]).map (fun r => (r.err, (r.out.drop 2).map fun e => e.2.1.take 20)) =
      [(7, [[2, 0, 0, 0, 0, 0, 0, 0, 0, 0, 0, 0, 0, 0, 0, 0, 2, 0, 0, 0]]), (7, [[0, 0, 0, 0, 0, 0, 0, 0, 0, 0, 0, 0, 0, 0, 0, 0, 0, 0, 0, 0]])] := by
  refine ⟨by unfold agrees; decide +kernel, ⟨by decide, rfl, by decide, by decide, by decide, ?_, ?_⟩, by decide +kernel⟩
  · intro r hr
    simp only [List.mem_cons, List.not_mem_nil, or_false] at hr
    rcases hr with rfl | rfl <;> exact ⟨by simp [sRp, sC], rfl, rfl, rfl, rfl, rfl, rfl, rfl⟩
  · intro r hr _ _ _ _ _ _
    simpa [sRp, sC] using hr
/-- Of four particles, all in bucket 0 of two buckets' load: the first buckets that R285's example gives, for four ranks and eight buckets. -/
theorem test_splits : splits [3, 1, 0, 4, 2, 2, 0, 4] 4 = ([0, 2, 4, 6, 8], 16) := by decide +kernel
/-- A record with two rows for the breakwater and one slot free. -/
def rSp : Rec := { rp with ready := true, spill := [(0x5000, List.replicate 8 1), (0x5008, List.replicate 8 2)] }
def sSpill : State := { sC xCl [rSp] with contexts := [(7, { comms := [(2, { cm with rslot := 2 })] })] }
theorem witness_spill : noneAbroad sSpill ∧ sSpill.recs = [rSp] ∧
    after (exec (.repartRetire 6) sSpill) (fun t => t.recs == [{ rSp with spill := [] }] && t.chunks.map (fun k => (k.addr, k.bytes)) ==
      [(0x5000, List.replicate 8 1), (0x5008, List.replicate 8 2)]) = true := by unfold noneAbroad; decide +kernel
/-- A row that arrives at a page of tier-2 is kept by its record. -/
def ckRow : Chunk := { ckVirt with addr := 0x4000, bytes := [9, 8] }
def xRow : Ctx := { xCl with sys := [(0x049, 0x1001)] }
def sRow : State := { sC xRow [rp] with tier2 := tables, chunks := [ckRow] }
theorem witness_staged : sRow.chunks = [ckRow] ∧ sRow.recs = [rp] ∧ rp.isRepart = true ∧ rp.rid = ckRow.rid ∧
    (List.range 2).map (fun i => (match sRow.engPage 7 (sRow.recRoot rp) (0x4000 + i : Nat) true with | .at p => some p | _ => none)) =
      [some (.tier2 0x204000), some (.tier2 0x204001)] ∧ sRow.badUnit (.tier2 0x204000) = false ∧
    after (exec (.chunkArrival 0) sRow) (fun t => t.chunks == [] && t.recs.map (·.bwNew) == [[(.tier2 0x204000, 9), (.tier2 0x204001, 8)]]) = true := by decide +kernel
/-- A computed REPART that writes its areas and a byte of its breakwater. -/
def rAr : Rec := { rp with
  ready := true
  out := [(0x1000, List.replicate 16 7, 16), (0x1100, List.replicate 16 6, 8), (0x1200, List.replicate 64 5, 64)]
  bwOld := [(.tier2 0x8000, 1), (.tier2 0x8001, 2)]
  bwNew := [(.tier2 0x8000, 3)] }
theorem witness_areas : atItsAreas (sCl [] xCl [rAr]) rAr cm ∧ rAr.out.map (·.1) = rAr.saved.map (·.1) ∧
    after (exec (.repartRetire 6) (sCl [] xCl [rAr])) (fun t => t.recs == [] && t.byte (.win 3 7 0x1000) == 7 && t.byte (.win 3 7 0x1107) == 6 && t.byte (.win 3 7 0x1108) == 0 &&
      t.byte (.win 3 7 0x1200) == 5 && t.byte (.tier2 0x8000) == 3 && t.byte (.tier2 0x8001) == 2) = true := by
  refine ⟨⟨rfl, rfl, rfl, rfl, rfl, rfl, rfl, rfl, by decide +kernel, ⟨rfl, rfl⟩, rfl, rfl, rfl, rfl, by decide +kernel, by decide +kernel, by decide, ?_⟩, by decide +kernel⟩
  have h : (rAr.saved.all fun e => (List.range e.2.length).all fun i => reachable (sCl [] xCl [rAr]) 3 7 (e.1 + i)) = true := by decide +kernel
  intro e he i hi
  exact List.all_eq_true.mp (List.all_eq_true.mp h e he) i (List.mem_range.mpr hi)

/-! The image of an entry, written out (R58) -/

/-- A number read from two memories that agree is one number. -/
theorem t2Nat_congr {s u : State} {a b : Nat} (n : Nat) (h : ∀ i, i < n → s.byte (.tier2 (a + i)) = u.byte (.tier2 (b + i))) : t2Nat s a n = t2Nat u b n := by
  induction n generalizing a b with
  | zero => rfl
  | succ n ih =>
    have h0 := h 0 (Nat.succ_pos n)
    rw [Nat.add_zero, Nat.add_zero] at h0
    rw [t2Nat, t2Nat, h0, ih (a := a + 1) (b := b + 1) fun i hi => by rw [Nat.add_assoc, Nat.add_assoc, Nat.add_comm 1]; exact h (i + 1) (Nat.succ_lt_succ hi)]
/-- An image at a is the one that a memory holding nothing else has at 0. -/
theorem image_congr {s u : State} {a : Nat} (h : ∀ i, i < 128 → s.byte (.tier2 (a + i)) = u.byte (.tier2 (0 + i))) :
    entryOf58 s a = entryOf58 u 0 ∧ (imageLegal s a ↔ imageLegal u 0) := by
  have hf : ∀ off n, off + n ≤ 128 → imageField s a off n = imageField u 0 off n := fun off n hn =>
    t2Nat_congr n fun i hi => by rw [Nat.add_assoc, Nat.add_assoc]; exact h (off + i) (by omega)
  have hb : ∀ lo w, imageBits s a lo w = imageBits u 0 lo w := fun lo w => by
    rw [imageBits, imageBits, t2Nat_congr 8 fun i hi => h i (by omega)]
  have hr : imageBits s a 53 3 ≤ 7 := Nat.le_of_lt_succ (Nat.mod_lt _ (by decide))
  have he : entryOf58 s a = entryOf58 u 0 := by
    simp only [entryOf58, hb]
    rw [hb] at hr
    rw [hf 0x08 8 (by decide), hf 0x58 1 (by decide), hf 0x60 2 (by decide), hf 0x62 2 (by decide), hf 0x68 8 (by decide)]
    congr 1 <;> apply List.map_congr_left <;> intro i hi <;> have hi := List.mem_range.mp hi <;> exact hf _ _ (by omega)
  refine ⟨he, ?_⟩
  simp only [imageLegal, he, hb]
  rw [hf 0x59 7 (by decide), hf 0x64 4 (by decide), hf 0x70 16 (by decide)]
  have h6 : (∀ i, i < 6 → ((entryOf58 u 0).rank ≤ i → imageField s a (0x10 + 4 * i) 4 = 0) ∧ imageField s a (0x2E + 8 * i) 2 = 0) ↔
      ∀ i, i < 6 → ((entryOf58 u 0).rank ≤ i → imageField u 0 (0x10 + 4 * i) 4 = 0) ∧ imageField u 0 (0x2E + 8 * i) 2 = 0 :=
    forall₂_congr fun i hi => by rw [hf _ _ (by omega), hf _ _ (by omega)]
  rw [h6]
/-- The bytes of an image of KIND 10 (k = 0x81) or 01 (k = 0x41) at 0. -/
def uImg (k : Byte) : State := { cur := 3, tier2 := [(6, 0x30), (7, k), (0x10, 4), (0x28, 1)] }
theorem image_bytes (s : State) (k : Byte) : ∀ i, i < 128 →
    (sRing s 1 5 0 a2img 0 [(imgAt + 6, 0x30), (imgAt + 7, k), (imgAt + 0x10, 4), (imgAt + 0x28, 1)]).byte (.tier2 (imgAt + i)) = (uImg k).byte (.tier2 (0 + i)) := by
  intro i hi
  have h1 : ∀ j, j < 0x1000 → imgAt + i ≠ Config.ringBase 0 + j := by intro j hj; unfold imgAt; split <;> omega
  simp [State.byte, sRing, uImg, SMap.get, h1]
/-- The images of `witness_ocreate` and `witness_ocreate_extent` are legal, of KIND 10 and 01; an extent of 4 elements of 32 bits takes 16 bytes. -/
theorem witness_image (s : State) : imageLegal (sRing s 1 5 0 a2img 0 img) imgAt ∧ (entryOf58 (sRing s 1 5 0 a2img 0 img) imgAt).kind = 2 ∧
    imageLegal (sRing s 1 5 0 a2img 0 imgT1) imgAt ∧ (entryOf58 (sRing s 1 5 0 a2img 0 imgT1) imgAt).kind = 1 ∧
    extentBytes (entryOf58 (sRing s 1 5 0 a2img 0 imgT1) imgAt) = 16 := by
  obtain ⟨e2, g2⟩ := image_congr (s := sRing s 1 5 0 a2img 0 img) (image_bytes s 0x81)
  obtain ⟨e1, g1⟩ := image_congr (s := sRing s 1 5 0 a2img 0 imgT1) (image_bytes s 0x41)
  have l2 : imageLegal (uImg 0x81) 0 := by unfold imageLegal; decide +kernel
  have l1 : imageLegal (uImg 0x41) 0 := by unfold imageLegal; decide +kernel
  rw [e2, e1]
  exact ⟨g2.mpr l2, by decide +kernel, g1.mpr l1, by decide +kernel, by decide +kernel⟩
/-- An image of zeros, of KIND 00, is not legal. -/
theorem witness_image_illegal (s : State) : ¬ imageLegal (sRing s 1 5 0 a2img 0 []) imgAt := by
  have h := (image_congr (s := sRing s 1 5 0 a2img 0 []) (u := { cur := 3 }) (a := imgAt) (by
    intro i hi
    have h1 : ∀ j, j < 0x1000 → imgAt + i ≠ Config.ringBase 0 + j := by intro j hj; unfold imgAt; split <;> omega
    simp [State.byte, sRing, SMap.get, h1])).2
  have l : ¬ imageLegal ({ cur := 3 } : State) 0 := by unfold imageLegal; decide +kernel
  exact fun g => l (h.mp g)
/-- A takeover finds a lesson at its second attempt, and one behind it: the count of the first starts again at zero, the attempts are the same. -/
def sTko : State := { sQ lq with lessons := [{ lq with k := 3 }, { lq with num := 5, k := 2 }] }
theorem witness_takeover : (sTko.head 4).down = false ∧ (sTko.head 4).trigger = [] ∧ sTko.attempts.map (·.1.num) = [4, 5] ∧
    after (exec .registrarTakeover sTko) (fun t => t.standby && t.lessons.map (·.k) == [0, 0] && t.attempts.map (·.1.num) == [4, 5]) = true := by decide +kernel

/-! The points of R83 -/

/-- The table of log2_est is that of the statement, whose bits the bounds settle for every k. -/
theorem test_log_points : ((List.range 257).all fun k => lt k == logPoint k && (k == 0 || k == 256 || logPoint k != 0)) = true := by decide +kernel

/-! Words made good, stops dropped, waits counted afresh -/

/-- A bank group back from a save area has every word good again (R64, R147); those of the other groups are as they were. -/
def sBk : State := { s0 x0 with cores := [(3, { k0 x0 with badWords := [5, 0x10005], softWords := [6] })], bankSaves := [(saveKey 3 7 1 * 4, [(0x28, 9)])] }
theorem test_bank_in : let t := (sBk.bankIn 3 x0).core 3
    t.badWords = [0x10005] ∧ t.softWords = [] ∧ t.scratch = [(0x28, 9)] ∧ (sBk.bankIn 3 x0).bankSaves = [] := by decide +kernel
/-- A lesson that ends on a core that its BRK has stopped takes the stop's note with it (R123). -/
theorem test_break_dropped : ((kB [] true true true).dropLesson 7 1).brkStop = false ∧
    (({ kB [] true true true with brkStop := true }).dropLesson 7 1).brkStop = false ∧ (({ kB [] true true true with brkStop := true }).dropLesson 7 2).brkStop = true := by
  decide +kernel
/-- The command behind a lane head waits since it became the head (R45). -/
def xLn : Ctx := { x0 with lane := [kMx (.mxres n0), { kMx (.mxres n0) with since := 40 }] }
theorem test_lane_since : (((qs xLn).leave 3 .mx true (kMx (.mxres n0))).live 3).lane.map (·.since) = [100] := by decide +kernel
/-- A COLL by DKIND 0 covers a ticket of its peer's scratchpad, and none of another core or of tier-2 (R45, R274). -/
theorem test_covers_ticket : ({ rc with raw := rawCl } : Rec).coversTicket (some cm) 3 (2 ^ 63 + 0x900) = true ∧
    ({ rc with raw := rawCl } : Rec).coversTicket (some cm) 5 (2 ^ 63 + 0x900) = false ∧ ({ rc with raw := rawCl } : Rec).coversTicket (some cm) 3 0x900 = false := by
  decide +kernel
/-- RED.ST counts a correctable word of its destination (R64), and what its source and destination share is free (R160). -/
def sSoft : State := let s := sCopy { x0 with st := [kRed 1] } [(0x100, 3), (0x200, 5)]
  s.setCore 3 { s.core 3 with softWords := [0x40] }
theorem test_reduce_corrects : after (exec (.commandRetire 3 .st) sSoft) (fun t => (t.core 3).softWords == [] && t.bytes (.win 3 7 0x200) 4 == [3, 0, 0, 0] &&
    (t.head 0).corrCount == [(3, 1)]) = true := by decide +kernel
def kShare : Cmd := kCp (.redSt n0 1 2 3 0 0 1 0 1) 0x0C 0x100 0x0C 0x100
theorem test_reduce_shares : after (exec (.commandRetire 3 .st) (sCopy { x0 with st := [kShare] } [(0x100, 3)])) (fun t => t.freeCtr == 1 && t.ctx.st == []) = true := by
  decide +kernel

end Sys2Proof.Tests
end

section
/-! Decoding (R87 to R98): what the class and the function of a word say of the instruction it decodes to, and the words that are no
instructions. -/

namespace Sys2Proof.Decoding
open Sys2Proof.Machine Sys2Proof.Spec Sys2Proof.Laws

/-- The agent of the class of R90: the engines have the classes 010 to 101. -/
def classAgent : Nat → Option Agent
  | 2 => some .ld
  | 3 => some .st
  | 4 => some .vx
  | 5 => some .mx
  | _ => none

/-- What the fields of a word of class cls and function fn make is an instruction of the opcode map (R96): the function is one of the
class, the instruction goes to the agent of the class, and its opcode byte holds class and function. -/
structure OfOpcode (cls fn : Nat) (i : Instr) : Prop where
  fn_lt : fn < functionCount cls
  agent : engineOf i = classAgent cls
  word : ∃ tk ops, encodeNat i = some (pack tk (32 * cls + fn) ops) ∧ place ops < 2 ^ 40

/-! ## The words of each class

In each branch of a table the opcode byte and the operands can be read off the encoder, and the operands stay below bit 40. -/

theorem rawAlu_ofOpcode {tk : Tok} {f : (lo k : Nat) → BitVec k} {fn : Nat} {i : Instr} :
    rawAlu tk f fn = some i → OfOpcode 0 fn i := by
  fun_cases rawAlu tk f fn <;> intro h <;> cases h
  all_goals exact ⟨by decide, rfl, _, _, rfl, by simp only [place]; omega⟩

theorem rawCtl_ofOpcode {tk : Tok} {f : (lo k : Nat) → BitVec k} {fn : Nat} {i : Instr} :
    rawCtl tk f fn = some i → OfOpcode 1 fn i := by
  fun_cases rawCtl tk f fn <;> intro h <;> cases h
  all_goals exact ⟨by decide, rfl, _, _, rfl, by simp only [place]; omega⟩

theorem rawIn_ofOpcode {tk : Tok} {f : (lo k : Nat) → BitVec k} {fn : Nat} {i : Instr} :
    rawIn tk f fn = some i → OfOpcode 2 fn i := by
  fun_cases rawIn tk f fn <;> intro h <;> cases h
  all_goals exact ⟨by decide, rfl, _, _, rfl, by simp only [place]; omega⟩

theorem rawOut_ofOpcode {tk : Tok} {f : (lo k : Nat) → BitVec k} {fn : Nat} {i : Instr} :
    rawOut tk f fn = some i → OfOpcode 3 fn i := by
  fun_cases rawOut tk f fn <;> intro h <;> cases h
  all_goals exact ⟨by decide, rfl, _, _, rfl, by simp only [place]; omega⟩

theorem rawVec_ofOpcode {tk : Tok} {f : (lo k : Nat) → BitVec k} {fn : Nat} {i : Instr} :
    rawVec tk f fn = some i → OfOpcode 4 fn i := by
  fun_cases rawVec tk f fn <;> intro h <;> cases h
  all_goals exact ⟨by decide, rfl, _, _, rfl, by simp only [place]; omega⟩

theorem rawMat_ofOpcode {tk : Tok} {f : (lo k : Nat) → BitVec k} {fn : Nat} {i : Instr} :
    rawMat tk f fn = some i → OfOpcode 5 fn i := by
  fun_cases rawMat tk f fn <;> intro h <;> cases h
  all_goals exact ⟨by decide, rfl, _, _, rfl, by simp only [place]; omega⟩

theorem rawSyn_ofOpcode {tk : Tok} {f : (lo k : Nat) → BitVec k} {fn : Nat} {i : Instr} :
    rawSyn tk f fn = some i → OfOpcode 6 fn i := by
  fun_cases rawSyn tk f fn <;> intro h <;> cases h
  all_goals exact ⟨by decide, rfl, _, _, rfl, by simp only [place]; omega⟩

/-- The class of a word selects the table its function is looked up in. -/
theorem rawDecode_ofOpcode {w : Nat} {i : Instr} (h : rawDecode w = some i) : OfOpcode (nfield w 45 3) (nfield w 40 5) i := by
  unfold rawDecode at h
  split at h
  next e => rw [e]; exact rawAlu_ofOpcode h
  next e => rw [e]; exact rawCtl_ofOpcode h
  next e => rw [e]; exact rawIn_ofOpcode h
  next e => rw [e]; exact rawOut_ofOpcode h
  next e => rw [e]; exact rawVec_ofOpcode h
  next e => rw [e]; exact rawMat_ofOpcode h
  next e => rw [e]; exact rawSyn_ofOpcode h
  next => cases h

/-! ## The bits of a word -/

/-- A field of k bits is below 2^k. -/
theorem nfield_lt (w lo k : Nat) : nfield w lo k < 2 ^ k := Nat.mod_lt _ (Nat.two_pow_pos k)

/-- Bits [59:56] and [51:48] of a word stand outside its token bytes, its opcode byte and its operands (R87, R88). -/
theorem pack_unused_bits {op : Nat} {ops : List (Nat × Nat)} (tk : Tok) (hop : op < 2 ^ 8) (hops : place ops < 2 ^ 40) :
    nfield (pack tk op ops) 56 4 = 0 ∧ nfield (pack tk op ops) 48 4 = 0 := by
  have hlow := place_lt 48 hop hops rfl
  have hpush := place_lt 56 tk.push.isLt (place_lt 52 hop hops rfl) rfl
  rw [pack_place]
  exact ⟨peel 60 _ rfl <| place_zero hpush, peel 60 _ rfl <| peel 52 _ rfl <| place_zero hlow⟩

/-- An encoded word meets none of the scanner's conditions 1, 2 and 3, on its class, its function and the bits outside its fields (R98). -/
theorem OfOpcode.scan_head {w : Nat} {i : Instr} (h : OfOpcode (nfield w 45 3) (nfield w 40 5) i) (hw : encodeNat i = some w) :
    nfield w 45 3 ≠ 7 ∧ ¬ functionCount (nfield w 45 3) ≤ nfield w 40 5 ∧ ¬ (nfield w 56 4 ≠ 0 ∨ nfield w 48 4 ≠ 0) := by
  obtain ⟨hfn, -, tk, ops, henc, hops⟩ := h
  have hop : 32 * nfield w 45 3 + nfield w 40 5 < 2 ^ 8 := by
    have hcls := nfield_lt w 45 3
    have hfn' := nfield_lt w 40 5
    omega
  have hpack : pack tk _ ops = w := Option.some.inj (henc.symm.trans hw)
  have hbits := pack_unused_bits tk hop hops
  rw [hpack] at hbits
  refine ⟨fun h7 => ?_, Nat.not_le.mpr hfn, by omega⟩
  rw [h7] at hfn
  exact absurd hfn (Nat.not_lt_zero _)

/-! ## The decoder and the scanner -/

/-- The decoder takes a word whose fields make a legal instruction that encodes to this word, and no other. -/
theorem decodeNat_eq_some_iff {w : Nat} {i : Instr} :
    decodeNat w = some i ↔ rawDecode w = some i ∧ encodeNat i = some w ∧ reasonOf i = 0 := by
  unfold decodeNat
  cases hr : rawDecode w with
  | none => simp
  | some j =>
    by_cases hj : encodeNat j = some w ∧ reasonOf j = 0
    · simp only [hj, and_self, if_true, Option.some.injEq]
      exact ⟨fun e => ⟨e, e ▸ hj⟩, And.left⟩
    · simp only [hj, if_false, Option.some.injEq, reduceCtorEq, false_iff]
      rintro ⟨rfl, h⟩
      exact hj h

/-- A word that decodes passes every test of the scanner. -/
theorem scanNat_of_decodeNat {w : Nat} {i : Instr} (h : decodeNat w = some i) : scanNat w = 0 := by
  obtain ⟨hraw, henc, hok⟩ := decodeNat_eq_some_iff.mp h
  obtain ⟨h1, h2, h3⟩ := (rawDecode_ofOpcode hraw).scan_head henc
  simp [scanNat, h1, h2, h3, hraw, henc, hok]

/-- A word that passes every test of the scanner decodes. -/
theorem decodeNat_of_scanNat {w : Nat} (h : scanNat w = 0) : ∃ i, decodeNat w = some i := by
  unfold scanNat at h
  split_ifs at h
  split at h
  next => cases h
  next i hraw =>
    split_ifs at h with henc
    exact ⟨i, decodeNat_eq_some_iff.mpr ⟨hraw, not_not.mp henc, h⟩⟩

/-- The decoder accepts exactly the words the scanner finds legal (R98, R103). -/
theorem decode_isSome_iff_scan (w : W64) : (decode w).isSome = true ↔ scan w = 0 := by
  rw [Option.isSome_iff_exists]
  exact ⟨fun ⟨_, h⟩ => scanNat_of_decodeNat h, decodeNat_of_scanNat⟩

/-- A decoded word is the encoding of its well-formed instruction. -/
theorem encode_of_decode {w : W64} {i : Instr} (h : decode w = some i) : i.wellFormed = true ∧ encode i = some w := by
  obtain ⟨-, henc, hok⟩ := decodeNat_eq_some_iff.mp h
  exact ⟨decide_eq_true hok, by simp [encode, henc]⟩

/-- `rawDecode_ofOpcode` for a word that decodes. -/
theorem decode_ofOpcode {w : W64} {i : Instr} (h : decode w = some i) : OfOpcode (nfield w.toNat 45 3) (nfield w.toNat 40 5) i :=
  rawDecode_ofOpcode (decodeNat_eq_some_iff.mp h).1

/-! ## The reserved opcodes -/

/-- The opcode bytes that R97 lists are those whose function the map of R96 does not give to their class. -/
theorem reservedOpcode_iff {cls fn : Nat} (hcls : cls < 8) (hfn : fn < 32) :
    reservedOpcode (32 * cls + fn) = true ↔ functionCount cls ≤ fn := by
  interval_cases cls <;> simp [reservedOpcode, functionCount] <;> omega

/-- A bit field of a word as a bit vector has the value of the field of its number. -/
theorem toNat_extractLsb' (w : W64) (lo k : Nat) : (w.extractLsb' lo k).toNat = nfield w.toNat lo k := by
  simp [nfield, Nat.shiftRight_eq_div_pow]

/-- No word with a reserved opcode, or of class 111, decodes (R97). -/
theorem decode_eq_none_of_reserved {w : W64} (h : reservedOpcode (w.extractLsb' 40 8).toNat = true) : decode w = none := by
  have hop : nfield w.toNat 40 8 = 32 * nfield w.toNat 45 3 + nfield w.toNat 40 5 := by unfold nfield; omega
  rw [toNat_extractLsb', hop, reservedOpcode_iff (nfield_lt _ 45 3) (nfield_lt _ 40 5)] at h
  exact Option.eq_none_iff_forall_ne_some.mpr fun i hi => Nat.not_lt.mpr h (decode_ofOpcode hi).fn_lt

/-- Settles O56, by what the class and the function of a word say of the instruction its fields make (`rawDecode_ofOpcode`). -/
theorem decodedWordsAreLegal : Obligations.DecodedWordsAreLegal := by
  unfold Obligations.DecodedWordsAreLegal
  intro w
  refine ⟨decode_isSome_iff_scan w, decode_eq_none_of_reserved, fun i hi => ?_⟩
  obtain ⟨hwf, henc⟩ := encode_of_decode hi
  obtain ⟨hfn, hagent, -⟩ := decode_ofOpcode hi
  refine ⟨hwf, henc, ?_⟩
  rw [toNat_extractLsb']
  split
  next e => rw [hagent, e]; rfl
  next e => rw [hagent, e]; rfl
  next e => rw [hagent, e]; rfl
  next e => rw [hagent, e]; rfl
  next e => rw [e] at hfn; exact Nat.not_lt_zero _ hfn
  next e2 e3 e4 e5 _ => rw [hagent, classAgent]; exacts [e2, e3, e4, e5]

end Sys2Proof.Decoding
end

section
/-! Class 000 (R109 to R112): the values that the table of the manual gives are those that the arms of `exec` compute, so that each
legal word is one `aluOp`. -/

namespace Sys2Proof.Alu
open Sys2Proof.Machine Sys2Proof.Spec

/-! ## Shifts and rotations (R109, R111) -/

/-- Bits [63:6] of a shift amount are ignored. -/
theorem toNat_and_63 (b : W64) : (b &&& 63).toNat = shamt b := Nat.and_two_pow_sub_one_eq_mod b.toNat 6

theorem shamt_lt (b : W64) : shamt b < 64 := Nat.mod_lt _ (by decide)

/-- A rotation as two shifts; where nothing is shifted the second one leaves zero. -/
theorem rotateLeft_eq_or (a : W64) {n : Nat} (h : n < 64) : a.rotateLeft n = a <<< n ||| a >>> (64 - n) := by
  rw [BitVec.rotateLeft_def, Nat.mod_eq_of_lt h]

theorem rot_value (a b : W64) : a.rotateLeft (shamt b) = a <<< (b &&& 63) ||| a >>> (64 - (b &&& 63)) := by
  have hsub : (64 - (b &&& 63)).toNat = 64 - shamt b := by
    have := shamt_lt b
    rw [BitVec.toNat_sub_of_le (BitVec.le_def.mpr _), toNat_and_63]
    · rfl
    · rw [toNat_and_63]; exact this.le
  rw [BitVec.shiftLeft_eq', BitVec.ushiftRight_eq', hsub, toNat_and_63, rotateLeft_eq_or a (shamt_lt b)]

/-- ADDX scales by a power of two. -/
theorem shiftLeft_eq_mul_pow (b : W64) (n : Nat) : b <<< n = b * BitVec.ofNat 64 (2 ^ n) := by
  apply BitVec.eq_of_toNat_eq
  simp [Nat.shiftLeft_eq]

/-! ## Products (R109) -/

theorem mul_value (a b : W64) : a * b = (a.setWidth 128 * b.setWidth 128).extractLsb' 0 64 := by
  apply BitVec.eq_of_toNat_eq
  simp

/-- Bits [127:64] of an integer of 128 bits. -/
theorem extractLsb'_ofInt_high (z : Int) : (BitVec.ofInt 128 z).extractLsb' 64 64 = BitVec.ofInt 64 (z / 2 ^ 64) := by
  apply BitVec.eq_of_toNat_eq
  simp only [BitVec.extractLsb'_toNat, BitVec.toNat_ofInt, Nat.shiftRight_eq_div_pow]
  omega

theorem mulh_value (a b : W64) :
    BitVec.ofInt 64 (a.toInt * b.toInt / 2 ^ 64) = (a.signExtend 128 * b.signExtend 128).extractLsb' 64 64 := by
  rw [← extractLsb'_ofInt_high, BitVec.ofInt_mul]; rfl

theorem mulhn_value (a b : W64) :
    BitVec.ofNat 64 (a.toNat * b.toNat / 2 ^ 64) = (a.setWidth 128 * b.setWidth 128).extractLsb' 64 64 := by
  have hlt : a.toNat * b.toNat < 2 ^ 64 * 2 ^ 64 := Nat.mul_lt_mul'' a.isLt b.isLt
  rw [← Nat.pow_add] at hlt
  apply BitVec.eq_of_toNat_eq
  simp only [BitVec.extractLsb'_toNat, BitVec.toNat_mul, BitVec.toNat_setWidth, BitVec.toNat_ofNat, Nat.shiftRight_eq_div_pow]
  rw [Nat.mod_eq_of_lt (a := a.toNat) (by omega), Nat.mod_eq_of_lt (a := b.toNat) (by omega), Nat.mod_eq_of_lt hlt]

/-! ## Quotients and remainders (R110) -/

/-- The quotient of -2^63 by -1 is 2^63, whose low 64 bits are the dividend. -/
theorem divS_value (a b : W64) : divS a b = if b = 0 then 0xFFFF_FFFF_FFFF_FFFF
    else if a = 0x8000_0000_0000_0000 ∧ b.toInt = -1 then 0x8000_0000_0000_0000 else BitVec.ofInt 64 (a.toInt.tdiv b.toInt) := by
  unfold divS
  split_ifs with h0 h1
  · rfl
  · rw [h1.1, h1.2]; rfl
  · rfl

theorem remS_value (a b : W64) : remS a b = if b = 0 then a
    else if a = 0x8000_0000_0000_0000 ∧ b.toInt = -1 then 0 else BitVec.ofInt 64 (a.toInt - b.toInt * a.toInt.tdiv b.toInt) := by
  unfold remS
  split_ifs with h0 h1
  · rfl
  · rw [h1.1, h1.2]; rfl
  · rw [Int.tmod_def]

theorem divU_value (a b : W64) : divU a b = if b = 0 then 0xFFFF_FFFF_FFFF_FFFF else a / b := by
  rw [BitVec.udiv_def]; rfl

theorem remU_value (a b : W64) : remU a b = if b = 0 then a else a % b := by
  rw [BitVec.umod_def]; rfl

/-! ## Comparisons (R93, R109) -/

/-- The lesser of two words by a measure, asked the other way round. -/
theorem min_value {β : Type} [LinearOrder β] {n : W64 → β} (a b : W64) : (if n b < n a then b else a) = if n a ≤ n b then a else b := by
  simp only [← not_lt, ite_not]

/-- The greater of two words by a measure that tells them apart: which one is taken of two equal ones makes no difference. -/
theorem max_value {β : Type} [LinearOrder β] {n : W64 → β} (hn : Function.Injective n) (a b : W64) :
    (if n a < n b then b else a) = if n a ≤ n b then b else a := by
  rcases lt_trichotomy (n a) (n b) with h | h | h
  · rw [if_pos h, if_pos h.le]
  · rw [hn h, ite_self, ite_self]
  · rw [if_neg h.not_gt, if_neg h.not_ge]

/-- The conditions of the table are those of the comparison unit; a reserved code has no value. -/
theorem cmp_value {x : Ctx} {tk : Tok} {d a b : BitVec 5} {cond : BitVec 3} {r : Tok × BitVec 5 × W64}
    (h : aluResult x (.cmp tk d a b cond) = some r) : some (tk, d, if cond64 cond.toNat (x.rg a) (x.rg b) then (1 : W64) else 0) = some r := by
  simp only [aluResult] at h
  split at h
  case h_7 => cases h
  all_goals next e =>
    rw [e, ← h]
    simp only [cond64, beq_iff_eq, bne_iff_ne, ne_eq, ite_not, BitVec.slt_eq_decide, BitVec.ult_eq_decide, Bool.not_eq_true',
      decide_eq_true_eq, decide_eq_false_iff_not]

/-! ## Counts of bits (R109) -/

/-- The highest bit set of a word that is not zero stands below its leading zeros. -/
theorem log2_eq_of_clz {v : W64} (h : v ≠ 0) : Nat.log2 v.toNat = 63 - v.clz.toNat := by
  have hz : v.toNat ≠ 0 := fun e => h (BitVec.eq_of_toNat_eq e)
  have hlow := BitVec.two_pow_sub_clz_le_toNat_of_ne_zero (by decide) h
  have hhigh := BitVec.toNat_lt_two_pow_sub_clz (x := v)
  have hlt : v.clz.toNat < 64 := BitVec.lt_def.mp (BitVec.clz_lt_iff_ne_zero.mpr h)
  rw [Nat.log2_eq_iff hz]
  exact ⟨by convert hlow using 2, by convert hhigh using 2; omega⟩

theorem clz_value (v : W64) : BitVec.ofNat 64 (leadingZeros v) = v.clz := by
  unfold leadingZeros
  split_ifs with h
  · subst h; rfl
  · have hlt : v.clz.toNat < 64 := BitVec.lt_def.mp (BitVec.clz_lt_iff_ne_zero.mpr h)
    rw [log2_eq_of_clz h, Nat.sub_sub_self (by omega), BitVec.ofNat_toNat, BitVec.setWidth_eq]

/-- The elements that meet a test, counted one by one. -/
theorem length_filter_eq_sum {α : Type} (p : α → Bool) (l : List α) : (l.filter p).length = (l.map fun x => (p x).toNat).sum := by
  induction l with
  | nil => rfl
  | cons x r ih => cases h : p x <;> simp [h, ih, Nat.add_comm]

theorem popc_value (v : W64) : BitVec.ofNat 64 (onesIn v) = BitVec.ofNat 64 ((List.range 64).map fun i => (v.getLsbD i).toNat).sum := by
  rw [onesIn, length_filter_eq_sum]

/-! ## Bit fields (R109) -/

/-- A field of a word by its lowest bit and its width. -/
theorem bits_eq_extract (v : W64) (pos : Nat) {wid : Nat} (h : 0 < wid) : bits v.toNat (pos + wid - 1) pos = (v.extractLsb' pos wid).toNat := by
  have hw : pos + wid - 1 + 1 - pos = wid := by omega
  rw [bits, hw, BitVec.extractLsb'_toNat, Nat.shiftRight_eq_div_pow]

/-- The sign of a field's number is that of its bits. -/
theorem sextNat_toNat {k : Nat} (h : 0 < k) (v : BitVec k) : sextNat v.toNat k = v.toInt := by
  have hp : 2 ^ k = 2 * 2 ^ (k - 1) := by rw [← Nat.pow_succ', Nat.succ_eq_add_one, Nat.sub_add_cancel h]
  have hsign : 2 * v.toNat < 2 ^ k ↔ v.toNat < 2 ^ (k - 1) := by omega
  simp only [sextNat, Nat.mod_eq_of_lt v.isLt, BitVec.toInt_eq_toNat_cond, hsign]
  norm_cast

/-- The model's field is the field's bits, extended. -/
theorem machine_bitField_eq (v : W64) (pos : Nat) {wid : Nat} (h : 0 < wid) (sgn : Bool) :
    Machine.bitField v pos wid sgn = if sgn then (v.extractLsb' pos wid).signExtend 64 else (v.extractLsb' pos wid).setWidth 64 := by
  rw [Machine.bitField, bits_eq_extract v pos h, sextNat_toNat h, BitVec.ofNat_toNat]; rfl

/-- The field shifted to the top of the word and down again is its bits, extended. -/
theorem spec_bitField_eq (v : W64) {pos wid : Nat} (h0 : 0 < wid) (h : pos + wid ≤ 64) (sgn : Bool) :
    Spec.bitField v pos wid sgn = if sgn then (v.extractLsb' pos wid).signExtend 64 else (v.extractLsb' pos wid).setWidth 64 := by
  refine BitVec.eq_of_getLsbD_eq fun i hi => ?_
  have hbit : 64 - wid + i - (64 - (pos + wid)) = pos + i := by omega
  have hin : 64 - wid + i < 64 ↔ i < wid := by omega
  have habove : ¬ 64 - wid + i < 64 - (pos + wid) := by omega
  cases sgn
  · simp [Spec.bitField, Nat.sub_sub, hi, hbit, hin, habove]
  · simp only [Spec.bitField, if_true, BitVec.getLsbD_signExtend, BitVec.getLsbD_sshiftRight, Nat.sub_sub]
    simp [hi, hbit, hin, habove, h0, h]

theorem bfx_value (v : W64) {pos wid : Nat} (h0 : 0 < wid) (h : pos + wid ≤ 64) (sgn : Bool) :
    Machine.bitField v pos wid sgn = Spec.bitField v pos wid sgn := by
  rw [machine_bitField_eq v pos h0, spec_bitField_eq v h0 h]

/-- The lowest bits of a word as a mask. -/
theorem spec_bitField_allOnes {wid : Nat} (h0 : 0 < wid) (h : wid ≤ 64) :
    Spec.bitField (BitVec.allOnes 64) 0 wid false = BitVec.ofNat 64 (2 ^ wid - 1) := by
  rw [spec_bitField_eq _ h0 (by omega)]
  refine BitVec.eq_of_getLsbD_eq fun i hi => ?_
  simp only [Bool.false_eq_true, if_false, BitVec.getLsbD_setWidth, BitVec.getLsbD_extractLsb', BitVec.getLsbD_allOnes,
    BitVec.getLsbD_ofNat, Nat.testBit_two_pow_sub_one]
  simp [hi]

/-- A mask of the field's place is that of the lowest bits, shifted there. -/
theorem bfi_value (old v : W64) {pos wid : Nat} (h0 : 0 < wid) (h : pos + wid ≤ 64) :
    bitInsert old v pos wid = (old &&& ~~~(Spec.bitField (BitVec.allOnes 64) 0 wid false <<< pos)) |||
      ((v &&& Spec.bitField (BitVec.allOnes 64) 0 wid false) <<< pos) := by
  have hmask : BitVec.ofNat 64 ((2 ^ wid - 1) * 2 ^ pos) = BitVec.ofNat 64 (2 ^ wid - 1) <<< pos := by
    rw [shiftLeft_eq_mul_pow, BitVec.ofNat_mul]
  rw [bitInsert, spec_bitField_allOnes h0 (by omega), hmask, BitVec.shiftLeft_and_distrib]

/-! ## The words -/

/-- A word that `exec` gives to `aluOp` with a function of the general registers: the value is the function's, and the pops do not
change it. -/
structure Computes (x : Ctx) (i : Instr) (tk : Tok) (d : BitVec 5) (v : W64) (f : Ctx → W64) : Prop where
  exec_eq : ∀ s, exec i s = aluOp tk d f s
  value : f x = v
  startPops : ∀ m, f (x.startPops m) = f x

/-- A word of class 000 leaves the value of its function in gd, and nothing else changes (R107, R112). -/
theorem Computes.goesOn {s : State} {i : Instr} {tk : Tok} {d : BitVec 5} {v : W64} {f : Ctx → W64} (hf : Computes s.ctx i tk d v f)
    (h : s.goes s.cur tk = true) : goesOn i s ((s.ctx.setG d v).retired tk (s.ctx.pc + 1)) := by
  rw [Spec.goesOn, hf.exec_eq, aluOp_goes s tk d f h (hf.startPops _), hf.value]

/-- The function that a word hands to `aluOp` computes what the table gives the word, if it does so for the registers as they stand. -/
theorem computes_of_result {x : Ctx} {i : Instr} {tk tk' : Tok} {d d' : BitVec 5} {v w : W64} (h : some (tk', d', w) = some (tk, d, v))
    (f : Ctx → W64) (he : ∀ s, exec i s = aluOp tk' d' f s) (hv : f x = w) (hp : ∀ m, f (x.startPops m) = f x := by intro; rfl) :
    ∃ f, Computes x i tk d v f := by
  cases h
  exact ⟨f, he, hv, hp⟩

/-- Every word to which the table gives a value computes it. -/
theorem exists_computes {x : Ctx} {i : Instr} {tk : Tok} {d : BitVec 5} {v : W64} (h : aluResult x i = some (tk, d, v)) :
    ∃ f, Computes x i tk d v f := by
  cases i with
  | add | sub | and | or | xor | andn | addi | andi | ori | xori | shli | shri | srai | movhi =>
    exact computes_of_result h _ (fun _ => rfl) rfl
  | shl | shr | sra =>
    exact computes_of_result h _ (fun _ => rfl) (by simp only [BitVec.shiftLeft_eq', BitVec.ushiftRight_eq', toNat_and_63])
  | rot => exact computes_of_result h _ (fun _ => rfl) (rot_value _ _)
  | roti _ _ _ sh => exact computes_of_result h _ (fun _ => rfl) (rotateLeft_eq_or _ sh.isLt)
  | mul => exact computes_of_result h _ (fun _ => rfl) (mul_value _ _)
  | mulh => exact computes_of_result h _ (fun _ => rfl) (mulh_value _ _)
  | mulhn => exact computes_of_result h _ (fun _ => rfl) (mulhn_value _ _)
  | div => exact computes_of_result h _ (fun _ => rfl) (divS_value _ _)
  | divn => exact computes_of_result h _ (fun _ => rfl) (divU_value _ _)
  | rem => exact computes_of_result h _ (fun _ => rfl) (remS_value _ _)
  | remn => exact computes_of_result h _ (fun _ => rfl) (remU_value _ _)
  | min => exact computes_of_result h _ (fun _ => rfl) (by simp only [BitVec.slt_iff_toInt_lt, min_value])
  | max =>
    exact computes_of_result h _ (fun _ => rfl)
      (by simp only [BitVec.slt_iff_toInt_lt, max_value fun _ _ => BitVec.eq_of_toInt_eq])
  | minn => exact computes_of_result h _ (fun _ => rfl) (by simp only [BitVec.ult_iff_toNat_lt, min_value])
  | maxn =>
    exact computes_of_result h _ (fun _ => rfl)
      (by simp only [BitVec.ult_iff_toNat_lt, max_value fun _ _ => BitVec.eq_of_toNat_eq])
  | clz => exact computes_of_result h _ (fun _ => rfl) (clz_value _)
  | popc => exact computes_of_result h _ (fun _ => rfl) (popc_value _)
  | cmp => exact computes_of_result (cmp_value h) _ (fun _ => rfl) rfl
  | sel => exact computes_of_result h _ (fun _ => rfl) (by simp only [bne_iff_ne, ne_eq, ite_not])
  | addx => exact computes_of_result h _ (fun _ => rfl) (congrArg _ (shiftLeft_eq_mul_pow _ _))
  | bfx =>
    obtain ⟨hfit, h⟩ := Option.ite_none_right_eq_some.mp h
    exact computes_of_result h _ (fun _ => rfl) (bfx_value _ (Nat.succ_pos _) hfit _)
  | bfi =>
    obtain ⟨hfit, h⟩ := Option.ite_none_right_eq_some.mp h
    exact computes_of_result h _ (fun _ => rfl) (bfi_value _ _ (Nat.succ_pos _) hfit)
  | _ => cases h

/-- Settles O1: each word of the table is one `aluOp` with the function of its row (`exists_computes`). -/
theorem aluWordsWriteTheirResult : Obligations.AluWordsWriteTheirResult := by
  unfold Obligations.AluWordsWriteTheirResult
  intro s i tk d v hv hgoes
  obtain ⟨f, hf⟩ := exists_computes hv
  exact hf.goesOn hgoes

end Sys2Proof.Alu
end

section
/-! ERET (R122, R279): the status that it leaves, and the retry of what a COLLPAGE parked. -/

namespace Sys2Proof.TrapReturn
open Sys2Proof.Machine Sys2Proof.Spec

/-! ## Maps whose entries are all changed alike -/

/-- Reading a map all of whose entries a function changes that keeps the default. -/
theorem get_map {α : Type} (d : α) (f : α → α) (hd : f d = d) (m : SMap α) (k : Nat) :
    SMap.get d (m.map fun e => (e.1, f e.2)) k = f (SMap.get d m k) := by
  induction m with
  | nil => exact hd.symm
  | cons e r ih => simp only [List.map_cons, SMap.get, ih]; split <;> rfl

/-! ## The retry of parked chunks (R279) -/

theorem recs_retryPages (s : State) (id : Nat) :
    (s.retryPages id).recs = s.recs.map fun r => if r.ctx = id then { r with paused := false } else r := rfl

@[simp] theorem head_retryPages (s : State) (id h : Nat) :
    (s.retryPages id).head h = { s.head h with park := (s.head h).park.filter fun k => k.ctx ≠ id } :=
  get_map ({} : Headland) (fun d : Headland => { d with park := d.park.filter fun k => k.ctx ≠ id }) rfl s.heads h

/-- The chunks of a context that headlands have parked are in the network again. -/
theorem mem_chunks_retryPages (s : State) (id : Nat) (k : Chunk) :
    k ∈ (s.retryPages id).chunks ↔ k ∈ s.chunks ∨ ∃ h ∈ s.heads, k ∈ h.2.park ∧ k.ctx = id := by
  simp [State.retryPages, or_comm]

/-- A state with the retry that a return from the handler of a context makes: one where it ends a COLLPAGE. -/
def retried (x : Ctx) (t : State) : State := if x.collHandler then t.retryPages x.id else t

@[simp] theorem core_retried (x : Ctx) (t : State) (c : Nat) : (retried x t).core c = t.core c := by
  unfold retried; split <;> rfl
@[simp] theorem live_retried (x : Ctx) (t : State) (c : Nat) : (retried x t).live c = t.live c := by
  simp [State.live]
@[simp] theorem cur_retried (x : Ctx) (t : State) : (retried x t).cur = t.cur := by
  unfold retried; split <;> rfl
@[simp] theorem ctx_retried (x : Ctx) (t : State) : (retried x t).ctx = t.ctx := by
  simp [State.ctx]
theorem retried_of_other {x : Ctx} (h : x.collHandler = false) (t : State) : retried x t = t := by simp [retried, h]
theorem retried_of_collHandler {x : Ctx} (h : x.collHandler = true) (t : State) : retried x t = t.retryPages x.id := by
  simp [retried, h]
theorem setLive_retried (x y : Ctx) (t : State) (c : Nat) : (retried x t).setLive c y = retried x (t.setLive c y) := by
  unfold retried; split <;> rfl
theorem waitThreshold_retried (x : Ctx) (t : State) (h : Nat) : ((retried x t).head h).waitThreshold = (t.head h).waitThreshold := by
  unfold retried; split <;> simp
/-- A retry after a change of the current core touches nothing but that core, the chunks, the headlands and the records. -/
theorem retried_setCtx_frame (x y : Ctx) (s : State) :
    { retried x (s.setCtx y) with cores := s.cores, chunks := s.chunks, heads := s.heads, recs := s.recs } = s := by
  unfold retried; split <;> rfl

/-! ## The status after a return (R122) -/

/-- The bits of a STATUS value are its fields (R120). -/
theorem getLsbD_statusOf (sup psup svc te inh : Bool) (i : Nat) :
    (statusOf sup psup svc te inh).getLsbD i = [sup, psup, svc, te, inh].getD i false := by
  simp only [statusOf, BitVec.getLsbD_setWidth, BitVec.getLsbD_append, BitVec.getLsbD_ofBool]
  match i with
  | 0 | 1 | 2 | 3 | 4 => simp
  | i + 5 => simp

/-- SUP from PSUP, INH clear and the rest kept, as bits of STATUS. -/
theorem statusOf_return (x : Ctx) :
    statusOf x.psup x.psup x.svc x.te false = (x.sr 0x000 &&& 0b01110) ||| ((x.sr 0x000 >>> 1) &&& 1) := by
  have hkept : ((0b01110 : Nat) : W64) = statusOf false true true true false := rfl
  have hlow : (1 : W64) = statusOf true false false false false := rfl
  refine BitVec.eq_of_getLsbD_eq fun i _ => ?_
  rw [hkept, hlow, BitVec.getLsbD_or, BitVec.getLsbD_and, BitVec.getLsbD_and]
  simp only [getLsbD_statusOf, Ctx.psup, Ctx.svc, Ctx.te, snSTATUS]
  match i with
  | 0 | 1 | 2 | 3 | 4 => simp
  | i + 5 => simp

/-- The context that a return leaves, with its retirement (R122, R38). -/
theorem eret_retired (x : Ctx) (tk : Tok) : x.eret.retired tk (x.sr 0x003) =
    { x.setSr 0x000 ((x.sr 0x000 &&& 0b01110) ||| ((x.sr 0x000 >>> 1) &&& 1)) with collHandler := false, parked := x.exited }.retired tk
      (x.sr 0x003) := by
  rw [← statusOf_return]; rfl

/-! ## The word -/

/-- What ERET does once its pops are made (R122). -/
def eretBody (s : State) : Act :=
  if !s.ctx.inh then privFault s else .done (retried s.ctx (s.setCtx s.ctx.eret)) (s.ctx.sr snTPC)

theorem exec_eret (tk : Tok) (s : State) : exec (.eret tk) s = ccInstr tk eretBody s := rfl

theorem eretBody_of_inh {s : State} (h : s.ctx.inh = true) :
    eretBody s = .done (retried s.ctx (s.setCtx s.ctx.eret)) (s.ctx.sr snTPC) := by simp [eretBody, h]
theorem eretBody_of_not_inh {s : State} (h : s.ctx.inh = false) : eretBody s = privFault s := by simp [eretBody, h]

/-- ERET with INH set: the pops leave what the return and the retry read as it was. -/
theorem exec_eret_inh {s : State} {tk : Tok} (hi : s.ctx.inh = true) (hg : s.goes s.cur tk = true) :
    exec (.eret tk) s = .next (retried s.ctx (s.setCtx (s.ctx.eret.retired tk (s.ctx.sr snTPC)))) := by
  obtain ⟨-, -, hpath, -, -⟩ := (State.goes_iff s s.cur tk).mp hg
  have hbody : eretBody (s.setLive s.cur (s.ctx.startPops tk.pop)) =
      .done (retried s.ctx (s.setLive s.cur (s.ctx.startPops tk.pop).eret)) (s.ctx.sr snTPC) := by
    rw [eretBody_of_inh (by rw [State.ctx_setLive]; exact hi), State.ctx_setLive, State.setCtx_setLive]; rfl
  have hlive : (retried s.ctx (s.setLive s.cur (s.ctx.startPops tk.pop).eret)).live s.cur = (s.ctx.startPops tk.pop).eret := by
    rw [live_retried, State.live_setLive]
  rw [exec_eret, ccInstr, State.runCC_done s s.cur tk eretBody hg _ _ hbody]
  · rw [hlive, setLive_retried, State.setLive_setLive]; rfl
  · rw [hlive]; exact hpath
  · rw [hlive]; rfl
  · rw [hlive]; rfl
  · rw [waitThreshold_retried, State.head_setLive]

/-- A wait that is not logged leaves no record. -/
theorem logCC_quiet {s : State} {c : Nat} (h : (s.live c).wait = none ∨ (s.head (hlOf c)).waitThreshold = 0) : s.logCC c = s := by
  unfold State.logCC
  split
  · rfl
  next w hw =>
    have hth := h.resolve_left (by simp [hw])
    simp [State.logWait, hth]

/-- ERET with INH clear (R122). -/
theorem exec_eret_fault {s : State} {tk : Tok} (hi : s.ctx.inh = false) (hm : mayTrap s tk = true) :
    exec (.eret tk) s =
      .next (s.trap s.cur { cause := 0x03, addr := s.ctx.pc.toNat, opc := s.opcAt s.cur, clk := s.cycle } s.ctx.pc) := by
  obtain ⟨⟨hpop, hpath⟩, hwait⟩ : (s.ctx.canPop tk.pop = true ∧ (s.ctx.path = [] ∨ tk.push = 0)) ∧
      (s.ctx.wait = none ∨ (s.head (hlOf s.cur)).waitThreshold = 0) := by simpa [mayTrap] using hm
  have hbody : eretBody (s.setLive s.cur (s.ctx.startPops tk.pop)) = .trap { cause := cACCESS, addr := s.ctx.pc.toNat } := by
    rw [eretBody_of_not_inh (by rw [State.ctx_setLive]; exact hi), privFault, State.ctx_setLive]; rfl
  rw [exec_eret, ccInstr, State.runCC_trap s s.cur tk eretBody _ hpop hpath hbody, logCC_quiet hwait]; rfl

/-- The word of ERET: its token bytes and opcode 001:0A, no operand (R87, R122). -/
theorem encode_eret (tk : Tok) :
    encode (.eret tk) = some (BitVec.ofNat 64 (tk.pop.toNat * 2 ^ 60 + tk.push.toNat * 2 ^ 52 + 0x2A * 2 ^ 40)) := by
  rw [encode, encodeNat, Option.map_some, pack, place, Nat.add_zero]

/-- Settles O14: with INH set ERET leaves the return and its retry (`exec_eret_inh`), else it traps (`exec_eret_fault`). -/
theorem eretReturnsFromATrap : Obligations.EretReturnsFromATrap := by
  unfold Obligations.EretReturnsFromATrap
  intro s tk
  refine ⟨encode_eret tk, fun hi hg => ⟨_, _, exec_eret_inh hi hg, ?_, eret_retired s.ctx tk, ?_, ?_, ?_, ?_⟩, exec_eret_fault⟩
  · rw [ctx_retried, State.ctx_setCtx]; rfl
  · exact fun hc => retried_of_other hc _
  · intro c hne
    rw [core_retried, State.setCtx_eq, State.setLive, State.core_setCore_other s _ hne]
  · intro hc
    rw [retried_of_collHandler hc]
    exact ⟨mem_chunks_retryPages _ _, head_retryPages _ _, recs_retryPages _ _⟩
  · exact retried_setCtx_frame _ _ s

end Sys2Proof.TrapReturn
end
